-- ==== Sys2Proof/Word.lean ====
section
/-! DEFINITION. The word types of the machine and the sparse table type every indexed store of the model uses. -/

namespace Sys2Proof

/-- One byte of storage. -/
abbrev Byte := BitVec 8
/-- A D-word, a P-word or an engine control word (spec/03_encoding.md R45). -/
abbrev Word32 := BitVec 32
/-- A scalar register (spec/05_registers.md R110). -/
abbrev Word := BitVec 64
/-- The bits of a vector register: 512 bytes (spec/07_vector.md R154). -/
abbrev VBits := BitVec 4096
/-- A mask register (spec/05_registers.md R121). -/
abbrev MBits := BitVec 512
/-- A format tag (spec/02_numbers.md R34). -/
abbrev FTag := BitVec 16

/-- A sparse table: the entries that differ from the table's default, keys strictly rising.
The default stands where the table is read (`Tab.get` and `Tab.set`, Machine/Bits.lean). -/
abbrev Tab (α : Type) := List (Nat × α)

/-- The three contexts of a core (spec/04_contexts.md R82), in the order of R14. -/
inductive CtxSel where
  | L | C | S
  deriving DecidableEq, Repr

/-- The two launch engines of a core (spec/08_sequencer.md). -/
inductive EngSel where
  | me | ve
  deriving DecidableEq, Repr

/-- The agents that take steps. Cores are package core ids (spec/01_device.md R8). -/
inductive Agent where
  | ctx (core : BitVec 7) (c : CtxSel)
  | me (core : BitVec 7)
  | ve (core : BitVec 7)
  | ce (core : BitVec 7)
  | he (die : BitVec 2)
  | xe (die : BitVec 2)
  | cp (die : BitVec 2)
  | mgmt (die : BitVec 2)
  | hss (die : BitVec 2)
  | dispatch (die : BitVec 2)
  | l2dir (die : BitVec 2)
  | rot
  | bridge
  | alwaysOn
  | ports
  deriving DecidableEq, Repr

end Sys2Proof
end

