-- ==== Sys2Proof/Config.lean ====
section
/-! DEFINITION. What the spec leaves open: free values, of which nothing can be proved (opaque, no body), and the numerals
of timing that one core's values do not depend on. -/

namespace Sys2Proof.Config

/-- A word the spec leaves open (log 1), applied to the state's counter `free`. -/
opaque freeWord : Nat → Word
/-- A byte the spec leaves open. -/
opaque freeByte : Nat → Byte
/-- A choice the spec leaves open. -/
opaque freeBool : Nat → Bool
/-- A vector the spec leaves open. -/
opaque freeVec : Nat → VBits
/-- A number the spec leaves open. -/
opaque freeNat : Nat → Nat

/-! What the root of trust computes, and what its requests say where the spec lays out no body (spec/20_host.md R421, log 1). -/

/-- SM3 of bytes (spec/19_observation.md R413, R414). -/
opaque sm3 : List Byte → BitVec 256
/-- SM3 of the partition configuration, from its numbers (R414). -/
opaque cfgDigest : List Nat → BitVec 256
/-- Item `k` of a request's body, as a number. -/
opaque bodyNat : List Byte → Nat → Nat
/-- The SM4-GCM tag of an import's header and ciphertext verifies, for partition number and session (spec/10_pages.md R239). -/
opaque gcmOk : Nat → Nat → List Byte → Bool
/-- Byte `k` of its plaintext. -/
opaque gcmByte : Nat → Nat → List Byte → Nat → Byte
/-- Byte `k` of a partition's ephemeral public key. -/
opaque epkByte : Nat → Nat → Byte
/-- Byte `k` of the `n`-th SM2 signature, over these bytes. -/
opaque sm2Byte : Nat → List Byte → Nat → Byte
/-- The SM2 signature of a firmware image verifies. -/
opaque fwOk : List Byte → Bool

/-- The host refuses to translate a request for this 4 KiB page of host space in this cycle (spec/20_host.md R416): whether it has enabled
ATS, and what it then answers, is its own (log 91). -/
opaque atsRefuses : Nat → Nat → Bool
/-- The PCIe hierarchy refuses a posted write to this PA in this cycle (spec/20_host.md R422). -/
opaque hostRefuses : Nat → Nat → Bool
/-- IDLEPJ, the fused idle figure of a core in pJ per cycle; the dynamic and shared energy of a slice, in 2^-16 nJ, whose counters and
coefficients the spec does not list; the package baseline that a die has accumulated by a cycle (spec/19_observation.md R411; log 52). -/
opaque idlePj : Nat
opaque workEnergy : Nat → Nat
opaque baselineNj : Nat → Nat → Nat
/-- DRAM channels of a die, which the spec does not count (spec/17_scheduling.md R376). -/
opaque dramChannels : Nat

/-- The CRC-32 of a flit over bits [95:0] of its header and its payload (spec/15_fabric.md R323), whose polynomial the spec does not give. -/
opaque flitCrc : Nat → List Byte → BitVec 32

/-! Latencies, in core cycles. Where the spec gives one it is cited; the others are choices within its bounds (log 4). -/

/-- Own-window load or store (spec/06_scratchpad.md R136). -/
def latOwn : Nat := 6
/-- Package window, same die, across a bridge (R136). -/
def latDie : Nat := 24
def latBridge : Nat := 100
/-- L1 hit (spec/04_contexts.md R87). -/
def latL1 : Nat := 4
/-- A line served by the home slice of the die, or of another die (log 4). -/
def latHome : Nat := 40
def latRemoteHome : Nat := 140
/-- A strip of the package from its forming to its landing, within a die and across a bridge: the worked run of spec/23_prog_stencil.md. -/
def latStrip : Nat := 12
def latStripBridge : Nat := 190
/-- HSS on the same die, on another die (spec/12_semaphores.md R266). -/
def latHss : Nat := 16
def latHssFar : Nat := 60

end Sys2Proof.Config
end

