-- ==== Sys2Proof/Syntax.lean ====
section
/-! DEFINITION. The rows of spec/opcode_table.json as one inductive type: every control word, engine word,
Grailo op and event of a unit, with its operands. -/

namespace Sys2Proof

/-! Operand records of control words (spec/03_encoding.md R49 to R54). `q` is the squashable bit, `st` the stall
count; a word whose row has no `q` must have that bit 0 (spec/04_contexts.md R89). -/

/-- G3: destination and two sources. For SEXT and ZEXT `b` is the width code (R52). -/
structure G3 where
  q : Bool
  st : BitVec 3
  d : BitVec 5
  a : BitVec 5
  b : BitVec 5
  deriving DecidableEq, Repr

/-- G3 with b zero. -/
structure G2 where
  q : Bool
  st : BitVec 3
  d : BitVec 5
  a : BitVec 5
  deriving DecidableEq, Repr

/-- RI: a 12-bit signed immediate. -/
structure RiW where
  q : Bool
  st : BitVec 3
  d : BitVec 5
  a : BitVec 5
  i : BitVec 12
  deriving DecidableEq, Repr

/-- SHIFTI: a shift amount. -/
structure ShW where
  q : Bool
  st : BitVec 3
  d : BitVec 5
  a : BitVec 5
  n : BitVec 6
  deriving DecidableEq, Repr

/-- RL: a 17-bit signed immediate. -/
structure RlW where
  q : Bool
  st : BitVec 3
  d : BitVec 5
  i : BitVec 17
  deriving DecidableEq, Repr

/-- LDHI: a 16-bit immediate. -/
structure LdhiW where
  q : Bool
  st : BitVec 3
  d : BitVec 5
  i : BitVec 16
  deriving DecidableEq, Repr

/-- CMP: `c` is comb, `n` is cond (R54). -/
structure CmpW where
  q : Bool
  st : BitVec 3
  p : BitVec 3
  c : BitVec 2
  a : BitVec 5
  b : BitVec 5
  n : BitVec 3
  deriving DecidableEq, Repr

/-- CMPI: a 9-bit signed immediate. -/
structure CmpiW where
  q : Bool
  st : BitVec 3
  p : BitVec 3
  c : BitVec 2
  a : BitVec 5
  n : BitVec 3
  i : BitVec 9
  deriving DecidableEq, Repr

/-- PL: three predicates. -/
structure PlW where
  q : Bool
  st : BitVec 3
  d : BitVec 3
  a : BitVec 3
  b : BitVec 3
  deriving DecidableEq, Repr

/-- PSET: one source. -/
structure PsetW where
  q : Bool
  st : BitVec 3
  a : BitVec 5
  deriving DecidableEq, Repr

/-- PGET: one destination. -/
structure PgetW where
  q : Bool
  st : BitVec 3
  d : BitVec 5
  deriving DecidableEq, Repr

/-- SEL: a predicate chooses. -/
structure SelW where
  q : Bool
  st : BitVec 3
  d : BitVec 5
  a : BitVec 5
  b : BitVec 5
  p : BitVec 3
  deriving DecidableEq, Repr

/-- MFC. -/
structure MfcW where
  q : Bool
  st : BitVec 3
  d : BitVec 5
  c : BitVec 12
  deriving DecidableEq, Repr

/-- MTC. -/
structure MtcW where
  st : BitVec 3
  a : BitVec 5
  c : BitVec 12
  deriving DecidableEq, Repr

/-- LD: `z` size, `o` ord, `x` sign extension, `i` scaled displacement. -/
structure LdW where
  q : Bool
  st : BitVec 3
  d : BitVec 5
  a : BitVec 5
  z : BitVec 2
  o : BitVec 2
  x : Bool
  i : BitVec 7
  deriving DecidableEq, Repr

/-- ST: `t` is the data register. -/
structure StW where
  st : BitVec 3
  t : BitVec 5
  a : BitVec 5
  z : BitVec 2
  o : BitVec 2
  i : BitVec 7
  deriving DecidableEq, Repr

/-- LDX. -/
structure LdxW where
  q : Bool
  st : BitVec 3
  d : BitVec 5
  a : BitVec 5
  b : BitVec 5
  x : Bool
  o : BitVec 2
  z : BitVec 2
  deriving DecidableEq, Repr

/-- STX. -/
structure StxW where
  st : BitVec 3
  t : BitVec 5
  a : BitVec 5
  b : BitVec 5
  o : BitVec 2
  z : BitVec 2
  deriving DecidableEq, Repr

/-- LDG: `b` holds the step. -/
structure LdgW where
  q : Bool
  st : BitVec 3
  d : BitVec 5
  a : BitVec 5
  b : BitVec 5
  z : BitVec 2
  deriving DecidableEq, Repr

/-- ATOM: `e` is the scope. -/
structure AtomW where
  st : BitVec 3
  d : BitVec 5
  a : BitVec 5
  b : BitVec 5
  e : BitVec 3
  deriving DecidableEq, Repr

/-- PREF. -/
structure PrefW where
  st : BitVec 3
  a : BitVec 5
  z : BitVec 2
  i : BitVec 7
  deriving DecidableEq, Repr

/-- A destination and two sources, never squashable. -/
structure D3W where
  st : BitVec 3
  d : BitVec 5
  a : BitVec 5
  b : BitVec 5
  deriving DecidableEq, Repr

/-- Two sources. -/
structure A2W where
  st : BitVec 3
  a : BitVec 5
  b : BitVec 5
  deriving DecidableEq, Repr

/-- A destination and one source. -/
structure D2W where
  st : BitVec 3
  d : BitVec 5
  a : BitVec 5
  deriving DecidableEq, Repr

/-- One source. -/
structure A1W where
  st : BitVec 3
  a : BitVec 5
  deriving DecidableEq, Repr

/-- SPAWN.TAKE: a destination and the address register. -/
structure TakeW where
  st : BitVec 3
  d : BitVec 5
  b : BitVec 5
  deriving DecidableEq, Repr

/-- No operand. -/
structure S0W where
  st : BitVec 3
  deriving DecidableEq, Repr

/-- BR: predicate, negation, signed block offset. -/
structure BrW where
  st : BitVec 3
  p : BitVec 3
  n : Bool
  i : BitVec 18
  deriving DecidableEq, Repr

/-- JMP, CALL: signed block offset. -/
structure JW where
  st : BitVec 3
  i : BitVec 22
  deriving DecidableEq, Repr

/-- TILE wait: destination and id. -/
structure TileDW where
  st : BitVec 3
  d : BitVec 5
  i : BitVec 6
  deriving DecidableEq, Repr

/-- TILE fill: count register `d`, tag and step register `a`, id. -/
structure TileFW where
  st : BitVec 3
  d : BitVec 5
  a : BitVec 5
  i : BitVec 6
  deriving DecidableEq, Repr

/-- TILE pop: id. -/
structure TileIW where
  st : BitVec 3
  i : BitVec 6
  deriving DecidableEq, Repr

/-- QCFG: configuration register and id. -/
structure QcfgW where
  st : BitVec 3
  a : BitVec 5
  i : BitVec 6
  deriving DecidableEq, Repr

/-- SEV: mask over L, C, S. -/
structure SevW where
  st : BitVec 3
  m : BitVec 3
  deriving DecidableEq, Repr

/-- TRAP, BKPT: a 16-bit immediate. -/
structure ImmW where
  st : BitVec 3
  i : BitVec 16
  deriving DecidableEq, Repr

/-- FENCE: scope. -/
structure FenceW where
  st : BitVec 3
  e : BitVec 3
  deriving DecidableEq, Repr

/-- TLBINV: the register that holds the VA. -/
structure TlbW where
  st : BitVec 3
  r : BitVec 5
  deriving DecidableEq, Repr

/-- CACHE on one line: register and level. -/
structure CacheW where
  st : BitVec 3
  r : BitVec 5
  l : BitVec 2
  deriving DecidableEq, Repr

/-- CACHE on all lines: level. -/
structure CacheAllW where
  st : BitVec 3
  l : BitVec 2
  deriving DecidableEq, Repr

/-! Engine words (spec/03_encoding.md R61 to R65). -/

/-- The flags of a P-word: Q, STALL, F (first iteration), L (last iteration). -/
structure EFlags where
  q : Bool
  st : BitVec 3
  f : Bool
  l : Bool
  deriving DecidableEq, Repr

/-- EMARK: save mask over w0 to w7. -/
structure EmarkW where
  m : BitVec 8
  fl : EFlags
  deriving DecidableEq, Repr

/-- A control word on a ring or tile. -/
structure EIdW where
  i : BitVec 6
  fl : EFlags
  deriving DecidableEq, Repr

/-- ESEM: unsigned delta and SEMS entry. -/
structure EsemW where
  d : BitVec 10
  e : BitVec 4
  fl : EFlags
  deriving DecidableEq, Repr

/-- TPLD: template entry. -/
structure TpldW where
  e : BitVec 6
  fl : EFlags
  deriving DecidableEq, Repr

/-- LEXIT: mask, ALL (false) or ANY (true), level. -/
structure LexitW where
  m : BitVec 3
  y : Bool
  v : BitVec 3
  fl : EFlags
  deriving DecidableEq, Repr

/-- A patched template less its OP (R63), with the flags of the P-word that issued it. -/
structure EngW where
  d : BitVec 8
  a : BitVec 8
  b : BitVec 8
  c : BitVec 8
  m : BitVec 3
  neg : Bool
  fmt : BitVec 4
  rnd : BitVec 3
  ovf : BitVec 2
  mod : BitVec 8
  immA : BitVec 16
  immB : BitVec 16
  addr : BitVec 32
  fl : EFlags
  deriving DecidableEq, Repr

/-! Grailo ops (spec/16_launch.md R357). -/

/-- Three registers. -/
structure GrW where
  d : BitVec 4
  a : BitVec 4
  b : BitVec 4
  deriving DecidableEq, Repr

/-- Register and signed imm14. -/
structure GrIW where
  d : BitVec 4
  a : BitVec 4
  i : BitVec 14
  deriving DecidableEq, Repr

/-- Shift amount. -/
structure GrSW where
  d : BitVec 4
  a : BitVec 4
  n : BitVec 6
  deriving DecidableEq, Repr

/-- LDK. -/
structure GrKW where
  d : BitVec 4
  i : BitVec 14
  deriving DecidableEq, Repr

/-- LDM, STM: window `w`. -/
structure GrMW where
  d : BitVec 4
  a : BitVec 4
  w : BitVec 2
  i : BitVec 14
  deriving DecidableEq, Repr

/-- BRZ, BRNZ: skip count. -/
structure GrBW where
  a : BitVec 4
  n : BitVec 14
  deriving DecidableEq, Repr

/-- LOOP: body length and bound. -/
structure GrLW where
  a : BitVec 4
  l : BitVec 6
  u : BitVec 8
  deriving DecidableEq, Repr

/-- EMIT: the two halves of a packet. -/
structure GrEW where
  d : BitVec 4
  a : BitVec 4
  deriving DecidableEq, Repr

/-- FAULT. -/
structure GrFW where
  i : BitVec 14
  deriving DecidableEq, Repr

/-! Events. A core is a package core id (spec/01_device.md R8). -/

/-- A core. -/
abbrev CoreId := BitVec 7
/-- A die. -/
abbrev DieId := BitVec 2

/-- One context. -/
structure CtxId where
  core : CoreId
  ctx : CtxSel
  deriving DecidableEq, Repr

/-- One launch engine. -/
structure EngId where
  core : CoreId
  eng : EngSel
  deriving DecidableEq, Repr

/-- LOG_RESPONSE: the value of the logged word with this ordinal arrives (spec/18_recovery.md R391). -/
structure LogResponse where
  who : CtxId
  ordinal : BitVec 16
  value : Word
  deriving DecidableEq, Repr

/-- PACKAGE_RECOVERY: how long it took, in core cycles (R395). -/
structure Recovery where
  cycles : Nat
  deriving DecidableEq, Repr

/-- PAGE_WALK: a requester's miss (spec/10_pages.md R224). `unitKind` as R141. -/
structure WalkReq where
  die : DieId
  part : BitVec 3
  va : Word
  write : Bool
  fetch : Bool
  unitKind : BitVec 4
  core : CoreId
  deriving DecidableEq, Repr

/-- A write of FQRET (R232). -/
structure FqRet where
  die : DieId
  index : BitVec 8
  deriving DecidableEq, Repr

/-- The BAR0 registers that a host read reaches (spec/20_host.md R418, R419, R421, R423; spec/15_fabric.md R336). -/
inductive Bar0View where
  | lqbase (die : BitVec 2)
  | fqbase (die : BitVec 2)
  | sltbase (die : BitVec 2)
  | enbase (die : BitVec 2)
  | trstat (die : BitVec 2)
  | pstat (port : BitVec 6)
  /-- LIVE0 and LIVE1. -/
  | live (port : BitVec 6) (high : Bool)
  | flitTx (port : BitVec 6)
  | flitRx (port : BitVec 6)
  | replay (port : BitVec 6)
  | crcErr (port : BitVec 6)
  | losCnt (port : BitVec 6)
  | eqbase | eqhead | eqtail | eqdrop | eqctl
  | mbRequest (off : Nat)
  | mbResponse (off : Nat)
  | mbstat
  /-- Eight bytes of the fault queue's mirror of a die. -/
  | fqMirror (die : BitVec 2) (off : Nat)
  | p2psel | pwrcap
  /-- Optics tuning, by fibre and wavelength (spec/20_host.md R424): fibre f is the transmit fibre of port f, fibre 64 + f its receive
  fibre (log 91). -/
  | htr (fibre : BitVec 7) (wave : BitVec 7)
  | mpd (fibre : BitVec 7) (wave : BitVec 7)
  | rmap (fibre : BitVec 7) (wave : BitVec 7)
  | sat (fibre : BitVec 7) (high : Bool)
  deriving DecidableEq, Repr

/-- A host access to device memory. `fn` 0 is the PF, n + 1 is VF n; `ide` says that it is protected by IDE on the function's own
stream (spec/20_host.md R416). -/
structure HostReq where
  fn : BitVec 4
  pa : BitVec 52
  write : Bool
  len : Nat
  data : List Byte
  ide : Bool
  /-- A read of this register of BAR0, in place of memory (R418). -/
  reg : Option Bar0View := none
  /-- It comes through BAR4 of the function: `pa` is the offset (R418). -/
  bar4 : Bool := false
  deriving DecidableEq, Repr

/-- What a fabric transaction carries (spec/15_fabric.md R323, R324). -/
inductive TxKind where
  | write | read | readRsp | atomic | atomicRsp | signal | ack
  deriving DecidableEq, Repr

/-- A fabric transaction: one flit carries one (R323, R324). `aop` and `expect` serve atomics, `status` responses. -/
structure Tx where
  kind : TxKind
  src : BitVec 12
  dest : BitVec 12
  part : BitVec 3
  pkt : BitVec 24
  off : BitVec 36
  len : Nat
  unitKind : BitVec 4
  who : BitVec 16
  data : List Byte
  aop : BitVec 4
  operand : Word
  expect : Word
  status : BitVec 8
  /-- It belongs to a sealed partition's traffic: its flit carries ENC (spec/15_fabric.md R337). -/
  enc : Bool := false
  deriving DecidableEq, Repr

/-- REMOTE_REQUEST: a transaction to be served at this package (spec/10_pages.md R242). -/
structure RemoteReq where
  tx : Tx
  deriving DecidableEq, Repr

/-- REMOTE_RESPONSE: a response or acknowledgement for this package (spec/15_fabric.md R331). -/
structure RemoteRsp where
  tx : Tx
  deriving DecidableEq, Repr

/-- BPREF_COMPLETE: a token of a context. -/
structure BprefDone where
  who : CtxId
  token : BitVec 4
  deriving DecidableEq, Repr

/-- A shutter (spec/10_pages.md R233). -/
abbrev ShutterId := BitVec 12

/-- SEL_CHANGE: one die changes its copy (R235). -/
structure SelChange where
  die : DieId
  shutter : ShutterId
  deriving DecidableEq, Repr

/-- A copy queue slot of one copy engine (spec/13_copy.md R280). -/
structure CeSlot where
  core : CoreId
  slot : BitVec 4
  deriving DecidableEq, Repr

/-- A collective queue slot of one XE (spec/15_fabric.md R338). -/
structure XeSlot where
  die : DieId
  slot : BitVec 4
  deriving DecidableEq, Repr

/-- A landing at a barrier (spec/13_copy.md R296, spec/15_fabric.md R341). `xe` chooses the collective landing table;
`src` is the copy engine's core id, or the XE's die. -/
structure Landing where
  core : CoreId
  off : BitVec 22
  xe : Bool
  src : BitVec 7
  queue : BitVec 4
  seq : BitVec 32
  groups : BitVec 24
  sectors : Nat
  deriving DecidableEq, Repr

/-- A face of a grid partition on a die's halo engine (spec/14_grids.md R304). -/
structure FaceRef where
  die : DieId
  gpart : BitVec 3
  grid : BitVec 16
  idx : Nat
  face : BitVec 3
  deriving DecidableEq, Repr

/-- A keyed engine update of a semaphore (spec/12_semaphores.md R268). -/
structure EngineUpdate where
  die : DieId
  engine : Nat
  record : Nat
  mark : BitVec 32
  ordinal : Nat
  index : BitVec 16
  delta : Int
  last : BitVec 32
  deriving DecidableEq, Repr

/-- SIG_APPLY: a signal at its target (R273). -/
structure SigArrival where
  src : BitVec 12
  part : BitVec 3
  id : Word
  delta : Word
  deriving DecidableEq, Repr

/-- One counter of the HSS (R263), with the three copies that the scrub pass finds. -/
structure HssRef where
  die : DieId
  index : BitVec 16
  copy0 : Word
  copy1 : Word
  copy2 : Word
  deriving DecidableEq, Repr

/-- An 8-byte word that the scrub reads under ECC: of a scratchpad, a user table, a vector register, a die's L2. -/
inductive EccPlace where
  | scratchpad (core : CoreId) (off : BitVec 22)
  | table (core : CoreId) (n : BitVec 4)
  | vreg (core : CoreId) (spec : BitVec 8)
  | l2 (die : DieId) (line : BitVec 45) (word : BitVec 4)
  deriving DecidableEq, Repr

/-- What a read under ECC finds: nothing, an error it corrects, an uncorrectable one. -/
inductive EccErr where
  | none | single | double
  deriving DecidableEq, Repr

/-- A read of an 8-byte word by the scrub, and what it finds: where an error strikes is an input (spec/06_scratchpad.md R135,
spec/07_vector.md R174, spec/02_numbers.md R36). -/
structure ScrubRow where
  place : EccPlace
  err : EccErr
  deriving DecidableEq, Repr

/-- A conjunction ends on a port (spec/15_fabric.md R319). -/
structure ConjBoundary where
  port : BitVec 6
  deriving DecidableEq, Repr

/-- The content of a received conjunction header (R322). -/
structure ConjHeader where
  port : BitVec 6
  sender : BitVec 12
  index : BitVec 6
  slots0 : BitVec 16
  slots1 : BitVec 16
  slots2 : BitVec 16
  slots3 : BitVec 16
  inService : BitVec 64
  vc0Mask : BitVec 64
  liveMask : BitVec 128
  deriving DecidableEq, Repr

/-- A port (R319). -/
abbrev PortId := BitVec 6

/-- A flit on the wire (R323): the fields of its header, those of the transaction it carries, its CRC. -/
structure Flit where
  vc : BitVec 2
  /-- TYPE: 0 idle, 1 conjunction header, 2 to 8 a transaction, 9 restripe marker, 10 management, 11 to 15 reserved. -/
  typ : BitVec 4
  relayed : Bool
  ovc : BitVec 2
  lseq : BitVec 12
  ackv : Bool
  lack : BitVec 12
  crinc : BitVec 6
  crvc : BitVec 2
  nak : Bool
  tx : Tx
  crc : BitVec 32
  deriving DecidableEq, Repr

/-- FLIT_RECEIVE: a flit arrives on a port; `tagOk` says whether the tag of an encrypted flit holds. -/
structure FlitArrival where
  port : PortId
  flit : Flit
  tagOk : Bool
  deriving DecidableEq, Repr

/-- NAK received, with the last good LSEQ (R327). -/
structure NakArrival where
  port : PortId
  lack : BitVec 12
  deriving DecidableEq, Repr

/-- A transaction reaches its destination package (R328). -/
structure E2eArrival where
  tx : Tx
  deriving DecidableEq, Repr

/-- A relay meets the destination of a held transaction on a port (R330). -/
structure RelayRef where
  port : PortId
  dest : BitVec 12
  deriving DecidableEq, Repr

/-- Loss of light on one of the four lasers of one of the eight groups (R333). -/
structure LightLoss where
  port : PortId
  group : BitVec 3
  laser : BitVec 2
  deriving DecidableEq, Repr

/-- A live-wavelength mask for a port. -/
structure PortMask where
  port : PortId
  mask : BitVec 128
  deriving DecidableEq, Repr

/-- A receive buffer bank, and the live slots that its retirement leaves on the fibre (R335). -/
structure BankRef where
  port : PortId
  bank : BitVec 5
  live : BitVec 14
  deriving DecidableEq, Repr

/-- Who stores a knock. -/
inductive KnockFrom where
  | context (part : BitVec 3)
  | host (fn : BitVec 4) (ide : Bool := true)
  | peer (part : BitVec 3)
  deriving DecidableEq, Repr

/-- An aligned 8-byte store to a knock word (spec/16_launch.md R344). -/
structure KnockStore where
  die : DieId
  queue : BitVec 12
  kidx : BitVec 32
  seq : BitVec 32
  by_ : KnockFrom
  deriving DecidableEq, Repr

/-- A launch queue of a die (R342). -/
structure QueueRef where
  die : DieId
  queue : BitVec 12
  deriving DecidableEq, Repr

/-- A bind record written by the firmware into entry `e` (spec/17_scheduling.md R364). -/
structure BindRecord where
  die : DieId
  e : BitVec 10
  slid : BitVec 32
  ctl : BitVec 32
  home : BitVec 32
  dthr : BitVec 32
  kmarg : BitVec 8
  rsvd : BitVec 56
  extra : BitVec 64
  deriving DecidableEq, Repr

/-- A crew of the slice in an RMU entry (R363). -/
structure CrewRef where
  die : DieId
  e : BitVec 10
  crew : Nat
  deriving DecidableEq, Repr

/-- A slice in an RMU entry. -/
structure SliceRef where
  die : DieId
  e : BitVec 10
  deriving DecidableEq, Repr

/-- A host write of EQHEAD (spec/20_host.md R419). -/
structure EqWrite where
  fn : BitVec 4
  head : BitVec 32
  /-- Protected by IDE on the function's own stream (R416). -/
  ide : Bool := true
  deriving DecidableEq, Repr

/-- A PCIe function: 0 the PF, n + 1 VF n. -/
abbrev HostFn := BitVec 4

/-- A host write of MBDOOR (spec/20_host.md R421). -/
structure DoorWrite where
  fn : HostFn
  /-- Protected by IDE on the function's own stream (R416). -/
  ide : Bool := true
  deriving DecidableEq, Repr

/-- A 1 ms power measurement in watts (R423), and a change of the package's mode: IDLE or SLEEP is entered, or IDLE left (log 91). -/
structure PowerSample where
  watts : Nat
  mode : Option (BitVec 2) := none
  deriving DecidableEq, Repr

/-- A write of PWRCAP. -/
structure CapWrite where
  value : Word
  deriving DecidableEq, Repr

/-- I3C requests (R425). -/
inductive I3cRequest where
  | readTemps | readPower | readCap
  | writeCap (value : Word)
  | recover
  deriving DecidableEq, Repr

/-- A budgeted resource (spec/17_scheduling.md R376). -/
inductive Resource where
  | dram (die : DieId) (channel : Nat)
  | l2 (die : DieId) (slice : BitVec 5)
  | bridge (lo hi : DieId)
  | port (p : PortId)
  | halo (die : DieId)
  | collective (die : DieId)
  | hss (die : DieId)
  | trace (die : DieId)
  | scrub (die : DieId)
  deriving DecidableEq, Repr

/-- BUDGET_PERIOD_END of one resource. -/
structure PeriodEnd where
  res : Resource
  deriving DecidableEq, Repr

/-- A 64-byte fetch block, by PA, arrives in a core's instruction cache (spec/03_encoding.md R46). -/
structure FetchFill where
  core : CoreId
  block : BitVec 46
  deriving DecidableEq, Repr

/-- PEERID_WRITE (spec/15_fabric.md R321). -/
structure PeerWrite where
  peer : BitVec 12
  /-- SVROT.IVMS, where the root of trust writes it with the rest of the configuration (spec/18_recovery.md R387; log 92). -/
  ivms : Option (BitVec 16) := none
  deriving DecidableEq, Repr

/-- SHUTTER_ENTRY_WRITE (spec/10_pages.md R233). -/
structure ShutterWrite where
  shutter : ShutterId
  back0 : BitVec 64
  back1 : BitVec 64
  size : BitVec 32
  ctl : BitVec 32
  deriving DecidableEq, Repr

/-- QUEUE_REGISTRATION (spec/13_copy.md R280, spec/15_fabric.md R338): descriptor VA in partition `part`. -/
inductive QueueReg where
  | copy (core : CoreId) (slot : BitVec 4) (desc : Word) (part : BitVec 3)
  | collective (die : DieId) (slot : BitVec 4) (desc : Word) (part : BitVec 3)
  deriving DecidableEq, Repr

/-- HOST_SNOOP of one 128-byte host line (spec/11_ordering.md R250): its new bytes, or none to drop the copies. -/
structure SnoopLine where
  line : BitVec 45
  data : Option (BitVec 1024)
  deriving DecidableEq, Repr

/-- States of a trusted device interface (spec/20_host.md R416). -/
inductive TdiState where
  | unlocked | locked | run
  deriving DecidableEq, Repr

/-- TDISP_REQUEST. -/
structure TdispRequest where
  vf : BitVec 3
  to_ : TdiState
  deriving DecidableEq, Repr

/-- The BAR0 registers a host write reaches (R418, R419, R421). -/
inductive Bar0Reg where
  | lqbase (die : DieId)
  | fqbase (die : DieId)
  | fqret (die : DieId)
  | sltbase (die : DieId)
  | eqbase | eqhead | eqctl
  | mbRequest (off : Nat)
  | mbdoor
  | p2psel
  | pwrcap
  | other
  deriving DecidableEq, Repr

/-- BAR0_WRITE: a host write to a register of function `fn`. -/
structure Bar0Write where
  fn : HostFn
  reg : Bar0Reg
  value : Word
  /-- Protected by IDE on the function's own stream (R416). -/
  ide : Bool := true
  deriving DecidableEq, Repr

/-- One constructor per row of spec/opcode_table.json: the rows that are words first, then the events. -/
inductive Instr where
  /-- ADD: spec rule R113. -/
  | add (w : G3)
  /-- SUB: spec rule R113. -/
  | sub (w : G3)
  /-- AND: spec rule R113. -/
  | and (w : G3)
  /-- OR: spec rule R113. -/
  | or (w : G3)
  /-- XOR: spec rule R113. -/
  | xor (w : G3)
  /-- ANDN: spec rule R113. -/
  | andn (w : G3)
  /-- SHL: spec rule R113. -/
  | shl (w : G3)
  /-- SHR: spec rule R113. -/
  | shr (w : G3)
  /-- SRA: spec rule R113. -/
  | sra (w : G3)
  /-- ROL: spec rule R113. -/
  | rol (w : G3)
  /-- MUL: spec rule R113. -/
  | mul (w : G3)
  /-- MULH: spec rule R113. -/
  | mulh (w : G3)
  /-- MULHU: spec rule R113. -/
  | mulhu (w : G3)
  /-- MADD: spec rule R113. -/
  | madd (w : G3)
  /-- DIV: spec rule R113. -/
  | div (w : G3)
  /-- DIVU: spec rule R113. -/
  | divu (w : G3)
  /-- REM: spec rule R113. -/
  | rem (w : G3)
  /-- REMU: spec rule R113. -/
  | remu (w : G3)
  /-- MIN: spec rule R113. -/
  | min (w : G3)
  /-- MAX: spec rule R113. -/
  | max (w : G3)
  /-- MINU: spec rule R113. -/
  | minu (w : G3)
  /-- MAXU: spec rule R113. -/
  | maxu (w : G3)
  /-- CLZ: spec rule R113. -/
  | clz (w : G2)
  /-- CTZ: spec rule R113. -/
  | ctz (w : G2)
  /-- POPC: spec rule R113. -/
  | popc (w : G2)
  /-- SEXT: spec rule R113. -/
  | sext (w : G3)
  /-- ZEXT: spec rule R113. -/
  | zext (w : G3)
  /-- BSWAP: spec rule R113. -/
  | bswap (w : G2)
  /-- ADDI: spec rule R115. -/
  | addi (w : RiW)
  /-- ANDI: spec rule R115. -/
  | andi (w : RiW)
  /-- ORI: spec rule R115. -/
  | ori (w : RiW)
  /-- XORI: spec rule R115. -/
  | xori (w : RiW)
  /-- SHLI: spec rule R115. -/
  | shli (w : ShW)
  /-- SHRI: spec rule R115. -/
  | shri (w : ShW)
  /-- SRAI: spec rule R115. -/
  | srai (w : ShW)
  /-- ROLI: spec rule R115. -/
  | roli (w : ShW)
  /-- MULI: spec rule R115. -/
  | muli (w : RiW)
  /-- LDI: spec rule R115. -/
  | ldi (w : RlW)
  /-- LDHI: spec rule R115. -/
  | ldhi (w : LdhiW)
  /-- CMP: spec rule R90. -/
  | cmp (w : CmpW)
  /-- CMPI: spec rule R90. -/
  | cmpi (w : CmpiW)
  /-- PLOG.AND: spec rule R91. -/
  | plogAnd (w : PlW)
  /-- PLOG.OR: spec rule R91. -/
  | plogOr (w : PlW)
  /-- PLOG.XOR: spec rule R91. -/
  | plogXor (w : PlW)
  /-- PLOG.ANDN: spec rule R91. -/
  | plogAndn (w : PlW)
  /-- PLOG.ORN: spec rule R91. -/
  | plogOrn (w : PlW)
  /-- PLOG.NAND: spec rule R91. -/
  | plogNand (w : PlW)
  /-- PLOG.NOR: spec rule R91. -/
  | plogNor (w : PlW)
  /-- PLOG.XNOR: spec rule R91. -/
  | plogXnor (w : PlW)
  /-- PSET: spec rule R92. -/
  | pset (w : PsetW)
  /-- PGET: spec rule R92. -/
  | pget (w : PgetW)
  /-- SEL: spec rule R93. -/
  | sel (w : SelW)
  /-- MFC: spec rule R116. -/
  | mfc (w : MfcW)
  /-- MTC: spec rule R116. -/
  | mtc (w : MtcW)
  /-- LD: spec rule R147. -/
  | ld (w : LdW)
  /-- ST: spec rule R147. -/
  | st (w : StW)
  /-- LDX: spec rule R147. -/
  | ldx (w : LdxW)
  /-- STX: spec rule R147. -/
  | stx (w : StxW)
  /-- LDG: spec rule R314. -/
  | ldg (w : LdgW)
  /-- ATOM.ADD: spec rule R258. -/
  | atomAdd (w : AtomW)
  /-- ATOM.AND: spec rule R258. -/
  | atomAnd (w : AtomW)
  /-- ATOM.OR: spec rule R258. -/
  | atomOr (w : AtomW)
  /-- ATOM.XOR: spec rule R258. -/
  | atomXor (w : AtomW)
  /-- ATOM.MIN: spec rule R258. -/
  | atomMin (w : AtomW)
  /-- ATOM.MAX: spec rule R258. -/
  | atomMax (w : AtomW)
  /-- ATOM.MINU: spec rule R258. -/
  | atomMinu (w : AtomW)
  /-- ATOM.MAXU: spec rule R258. -/
  | atomMaxu (w : AtomW)
  /-- ATOM.SWAP: spec rule R258. -/
  | atomSwap (w : AtomW)
  /-- ATOM.CAS: spec rule R258. -/
  | atomCas (w : AtomW)
  /-- PREF: spec rule R260. -/
  | pref (w : PrefW)
  /-- BPREF: spec rule R261. -/
  | bpref (w : D3W)
  /-- BR: spec rule R94. -/
  | br (w : BrW)
  /-- JMP: spec rule R95. -/
  | jmp (w : JW)
  /-- CALL: spec rule R95. -/
  | call (w : JW)
  /-- JMPR: spec rule R96. -/
  | jmpr (w : A1W)
  /-- CALLR: spec rule R96. -/
  | callr (w : A1W)
  /-- SEM.ADD: spec rule R270. -/
  | semAdd (w : A2W)
  /-- SEM.WAIT: spec rule R271. -/
  | semWait (w : A2W)
  /-- SEM.TRY: spec rule R270. -/
  | semTry (w : D3W)
  /-- SEM.RD: spec rule R270. -/
  | semRd (w : D2W)
  /-- SEM.SET: spec rule R270. -/
  | semSet (w : A2W)
  /-- SIG: spec rule R273. -/
  | sig (w : A2W)
  /-- BAR.ARR: spec rule R275. -/
  | barArr (w : D3W)
  /-- BAR.WAIT: spec rule R275. -/
  | barWait (w : A2W)
  /-- TBAR.ARR: spec rule R277. -/
  | tbarArr (w : D2W)
  /-- TBAR.EXP: spec rule R277. -/
  | tbarExp (w : A2W)
  /-- TBAR.WAIT: spec rule R277. -/
  | tbarWait (w : D3W)
  /-- TWAITF: spec rule R149. -/
  | twaitf (w : TileDW)
  /-- TWAITE: spec rule R149. -/
  | twaite (w : TileDW)
  /-- TSETF: spec rule R150. -/
  | tsetf (w : TileFW)
  /-- TSETE: spec rule R150. -/
  | tsete (w : TileIW)
  /-- QWAITF: spec rule R149. -/
  | qwaitf (w : TileDW)
  /-- QWAITE: spec rule R149. -/
  | qwaite (w : TileDW)
  /-- QPUSH: spec rule R150. -/
  | qpush (w : TileFW)
  /-- QPOP: spec rule R150. -/
  | qpop (w : TileIW)
  /-- QCFG: spec rule R151. -/
  | qcfg (w : QcfgW)
  /-- LNCH.ME: spec rule R188. -/
  | lnchMe (w : A1W)
  /-- LNCH.VE: spec rule R188. -/
  | lnchVe (w : A1W)
  /-- CPY: spec rule R283. -/
  | cpy (w : D3W)
  /-- SPAWN: spec rule R374. -/
  | spawn (w : D3W)
  /-- SPAWN.TAKE: spec rule R375. -/
  | spawnTake (w : TakeW)
  /-- HSTEP: spec rule R309. -/
  | hstep (w : A2W)
  /-- HWAIT: spec rule R311. -/
  | hwait (w : A2W)
  /-- HQRY: spec rule R312. -/
  | hqry (w : D3W)
  /-- NOP: spec rule R98. -/
  | nop (w : S0W)
  /-- EXIT: spec rule R99. -/
  | exit (w : S0W)
  /-- YIELD: spec rule R100. -/
  | yield (w : S0W)
  /-- MARK: spec rule R389. -/
  | mark (w : S0W)
  /-- WFE: spec rule R279. -/
  | wfe (w : S0W)
  /-- SEV: spec rule R279. -/
  | sev (w : SevW)
  /-- TRAP: spec rule R98. -/
  | trapWord (w : ImmW)
  /-- ERET: spec rule R98. -/
  | eret (w : S0W)
  /-- UIRET: spec rule R109. -/
  | uiret (w : S0W)
  /-- RET: spec rule R96. -/
  | ret (w : S0W)
  /-- FENCE.FULL: spec rule R257. -/
  | fenceFull (w : FenceW)
  /-- FENCE.ACQ: spec rule R257. -/
  | fenceAcq (w : FenceW)
  /-- FENCE.REL: spec rule R257. -/
  | fenceRel (w : FenceW)
  /-- FENCE.ENG: spec rule R257. -/
  | fenceEng (w : FenceW)
  /-- BKPT: spec rule R101. -/
  | bkpt (w : ImmW)
  /-- TLBINV: spec rule R228. -/
  | tlbinv (w : TlbW)
  /-- CACHE.INV: spec rule R259. -/
  | cacheInv (w : CacheW)
  /-- CACHE.CLEAN: spec rule R259. -/
  | cacheClean (w : CacheW)
  /-- CACHE.FLUSH: spec rule R259. -/
  | cacheFlush (w : CacheW)
  /-- CACHE.INVALL: spec rule R259. -/
  | cacheInvall (w : CacheAllW)
  /-- CACHE.CLEANALL: spec rule R259. -/
  | cacheCleanall (w : CacheAllW)
  /-- ENOP: spec rule R65. -/
  | enop (w : EFlags)
  /-- EEND: spec rule R195. -/
  | eend (w : EFlags)
  /-- EMARK: spec rule R195. -/
  | emark (w : EmarkW)
  /-- WAITF: spec rule R195. -/
  | waitf (w : EIdW)
  /-- WAITE: spec rule R195. -/
  | waite (w : EIdW)
  /-- SETF: spec rule R195. -/
  | setf (w : EIdW)
  /-- SETE: spec rule R195. -/
  | sete (w : EIdW)
  /-- QPOPE: spec rule R195. -/
  | qpope (w : EIdW)
  /-- QPUSHE: spec rule R195. -/
  | qpushe (w : EIdW)
  /-- ESEM: spec rule R195. -/
  | esem (w : EsemW)
  /-- TPLD: spec rule R195. -/
  | tpld (w : TpldW)
  /-- LEXIT: spec rule R196. -/
  | lexit (w : LexitW)
  /-- EFENCE: spec rule R195. -/
  | efence (w : EFlags)
  /-- VADD: spec rule R159. -/
  | vadd (w : EngW)
  /-- VSUB: spec rule R159. -/
  | vsub (w : EngW)
  /-- VMUL: spec rule R159. -/
  | vmul (w : EngW)
  /-- VFMA: spec rule R159. -/
  | vfma (w : EngW)
  /-- VFMS: spec rule R159. -/
  | vfms (w : EngW)
  /-- VFNMA: spec rule R159. -/
  | vfnma (w : EngW)
  /-- VMIN: spec rule R159. -/
  | vmin (w : EngW)
  /-- VMAX: spec rule R159. -/
  | vmax (w : EngW)
  /-- VABS: spec rule R159. -/
  | vabs (w : EngW)
  /-- VNEG: spec rule R159. -/
  | vneg (w : EngW)
  /-- VDIV: spec rule R159. -/
  | vdiv (w : EngW)
  /-- VSQRT: spec rule R159. -/
  | vsqrt (w : EngW)
  /-- VRCP: spec rule R159. -/
  | vrcp (w : EngW)
  /-- VRSQ: spec rule R159. -/
  | vrsq (w : EngW)
  /-- VAND: spec rule R161. -/
  | vand (w : EngW)
  /-- VOR: spec rule R161. -/
  | vor (w : EngW)
  /-- VXOR: spec rule R161. -/
  | vxor (w : EngW)
  /-- VSHL: spec rule R161. -/
  | vshl (w : EngW)
  /-- VSHR: spec rule R161. -/
  | vshr (w : EngW)
  /-- VSRA: spec rule R161. -/
  | vsra (w : EngW)
  /-- VMULH: spec rule R161. -/
  | vmulh (w : EngW)
  /-- VCMP: spec rule R162. -/
  | vcmp (w : EngW)
  /-- VSEL: spec rule R163. -/
  | vsel (w : EngW)
  /-- VCLASS: spec rule R164. -/
  | vclass (w : EngW)
  /-- VCVT: spec rule R165. -/
  | vcvt (w : EngW)
  /-- VQMX: spec rule R166. -/
  | vqmx (w : EngW)
  /-- VDQMX: spec rule R167. -/
  | vdqmx (w : EngW)
  /-- VPACK: spec rule R168. -/
  | vpack (w : EngW)
  /-- VUNPK: spec rule R168. -/
  | vunpk (w : EngW)
  /-- VRSUM: spec rule R169. -/
  | vrsum (w : EngW)
  /-- VRMAX: spec rule R169. -/
  | vrmax (w : EngW)
  /-- VRMIN: spec rule R169. -/
  | vrmin (w : EngW)
  /-- VSCAN: spec rule R169. -/
  | vscan (w : EngW)
  /-- VPERM: spec rule R170. -/
  | vperm (w : EngW)
  /-- VBCAST: spec rule R170. -/
  | vbcast (w : EngW)
  /-- VSLIDE: spec rule R170. -/
  | vslide (w : EngW)
  /-- VMOV: spec rule R170. -/
  | vmov (w : EngW)
  /-- VLDI: spec rule R170. -/
  | vldi (w : EngW)
  /-- VTINT: spec rule R172. -/
  | vtint (w : EngW)
  /-- VTLD: spec rule R174. -/
  | vtld (w : EngW)
  /-- VLD: spec rule R176. -/
  | vld (w : EngW)
  /-- VST: spec rule R176. -/
  | vst (w : EngW)
  /-- VLDS: spec rule R176. -/
  | vlds (w : EngW)
  /-- VSTS: spec rule R176. -/
  | vsts (w : EngW)
  /-- VGATH: spec rule R176. -/
  | vgath (w : EngW)
  /-- VSCAT: spec rule R176. -/
  | vscat (w : EngW)
  /-- VLDT: spec rule R177. -/
  | vldt (w : EngW)
  /-- VSTT: spec rule R177. -/
  | vstt (w : EngW)
  /-- VLDG: spec rule R315. -/
  | vldg (w : EngW)
  /-- VSTG: spec rule R315. -/
  | vstg (w : EngW)
  /-- VDEFER: spec rule R180. -/
  | vdefer (w : EngW)
  /-- VDRAIN: spec rule R181. -/
  | vdrain (w : EngW)
  /-- VTQRY: spec rule R181. -/
  | vtqry (w : EngW)
  /-- MAND: spec rule R183. -/
  | mand (w : EngW)
  /-- MOR: spec rule R183. -/
  | mor (w : EngW)
  /-- MXOR: spec rule R183. -/
  | mxor (w : EngW)
  /-- MNOT: spec rule R183. -/
  | mnot (w : EngW)
  /-- MPOPC: spec rule R183. -/
  | mpopc (w : EngW)
  /-- VMBX: spec rule R184. -/
  | vmbxRead (w : EngW)
  /-- VMBX: spec rule R184. -/
  | vmbxWrite (w : EngW)
  /-- MMA: spec rule R213. -/
  | mma (w : EngW)
  /-- MDRN: spec rule R214. -/
  | mdrn (w : EngW)
  /-- MDRNP: spec rule R214. -/
  | mdrnp (w : EngW)
  /-- MACLD: spec rule R215. -/
  | macld (w : EngW)
  /-- MCLR: spec rule R216. -/
  | mclr (w : EngW)
  /-- MCOMA: spec rule R216. -/
  | mcoma (w : EngW)
  /-- END: spec rule R357. -/
  | grailoEnd
  /-- ADD: spec rule R357. -/
  | grailoAdd (w : GrW)
  /-- SUB: spec rule R357. -/
  | grailoSub (w : GrW)
  /-- AND: spec rule R357. -/
  | grailoAnd (w : GrW)
  /-- OR: spec rule R357. -/
  | grailoOr (w : GrW)
  /-- XOR: spec rule R357. -/
  | grailoXor (w : GrW)
  /-- ADDI: spec rule R357. -/
  | grailoAddi (w : GrIW)
  /-- SHLI: spec rule R357. -/
  | grailoShli (w : GrSW)
  /-- SHRI: spec rule R357. -/
  | grailoShri (w : GrSW)
  /-- LDK: spec rule R357. -/
  | grLdk (w : GrKW)
  /-- LDM: spec rule R357. -/
  | grLdm (w : GrMW)
  /-- STM: spec rule R357. -/
  | grStm (w : GrMW)
  /-- BRZ: spec rule R357. -/
  | grBrz (w : GrBW)
  /-- BRNZ: spec rule R357. -/
  | grBrnz (w : GrBW)
  /-- LOOP: spec rule R357. -/
  | grLoop (w : GrLW)
  /-- EMIT: spec rule R357. -/
  | grEmit (w : GrEW)
  /-- FAULT: spec rule R357. -/
  | grFault (w : GrFW)
  /-- LANDING: spec rule R296. -/
  | landing (w : Landing)
  /-- SHUTTER_PUBLISH: spec rule R235. -/
  | shutterPublish (w : ShutterId)
  /-- SEL_CHANGE: spec rule R235. -/
  | selChange (w : SelChange)
  /-- PUBLISH_ACK: spec rule R235. -/
  | publishAck (w : ShutterId)
  /-- LOG_RESPONSE: spec rule R391. -/
  | logResponse (w : LogResponse)
  /-- BPREF_COMPLETE: spec rule R261. -/
  | bprefComplete (w : BprefDone)
  /-- SIG_APPLY: spec rule R273. -/
  | sigApply (w : SigArrival)
  /-- HSS_ENGINE_UPDATE: spec rule R268. -/
  | hssEngineUpdate (w : EngineUpdate)
  /-- KNOCK: spec rule R344. -/
  | knock (w : KnockStore)
  /-- PACKAGE_RECOVERY: spec rule R395. -/
  | packageRecovery (w : Recovery)
  /-- FLIT_TRANSMIT: spec rule R323. -/
  | flitTransmit (w : PortId)
  /-- RELAY_FORWARD: spec rule R330. -/
  | relayForward (w : RelayRef)
  /-- MSIX_MODERATION: spec rule R420. -/
  | msixModeration (w : HostFn)
  /-- BUDGET_PERIOD_END: spec rule R13. -/
  | budgetPeriodEnd (w : PeriodEnd)
  /-- REMOTE_REQUEST: spec rule R242. -/
  | remoteRequest (w : RemoteReq)
  /-- REMOTE_RESPONSE: spec rule R331. -/
  | remoteResponse (w : RemoteRsp)
  /-- END_TO_END_ARRIVAL: spec rule R328. -/
  | endToEndArrival (w : E2eArrival)
  /-- MBDOOR: spec rule R421. -/
  | mbdoor (w : DoorWrite)
  /-- HSS_SCRUB: spec rule R263. -/
  | hssScrub (w : HssRef)
  /-- SCRUB: spec rule R135. -/
  | spScrub (w : ScrubRow)
  /-- RESULT_WRITTEN: spec rule R56. -/
  | resultWritten
  /-- K_STEP: spec rule R205. -/
  | kStep
  /-- ROW_FOLD: spec rule R214. -/
  | rowFold
  /-- COMMIT: spec rule R212. -/
  | commit
  /-- MACLD_ROW: spec rule R215. -/
  | macldRow
  /-- LAUNCH_START: spec rule R190. -/
  | launchStart
  /-- LEVEL_ENTRY: spec rule R193. -/
  | levelEntry
  /-- ITERATION_MARK: spec rule R197. -/
  | iterationMark
  /-- LAUNCH_END: spec rule R191. -/
  | launchEnd
  /-- ENGF: spec rule R400. -/
  | engf
  /-- ACCEPTANCE: spec rule R107. -/
  | acceptance
  /-- AUTOMATIC_MARK: spec rule R390. -/
  | automaticMark
  /-- BUDGET_TRAP: spec rule R379. -/
  | budgetTrap
  /-- SCY_STOPAT: spec rule R409. -/
  | scyStopat
  /-- WATCHDOG: spec rule R384. -/
  | watchdog
  /-- PARITY_ALARM: spec rule R384. -/
  | parityAlarm
  /-- PROTOCOL_ALARM: spec rule R384. -/
  | protocolAlarm
  /-- ECLIPSE: spec rule R385. -/
  | eclipse
  /-- ROTATION_ECLIPSE: spec rule R387. -/
  | rotationEclipse
  /-- CORE_RESET: spec rule R393. -/
  | coreReset
  /-- DIE_RESET: spec rule R394. -/
  | dieReset
  /-- POWER_ON_RESET: spec rule R17. -/
  | powerOnReset
  /-- LIN: spec rule R287. -/
  | ceLin
  /-- BOX: spec rule R287. -/
  | ceBox
  /-- CVT: spec rule R288. -/
  | ceCvt
  /-- WIN: spec rule R289. -/
  | ceWin
  /-- FILL: spec rule R290. -/
  | ceFill
  /-- PUBLISH: spec rule R291. -/
  | cePublish
  /-- PFONLY: spec rule R292. -/
  | pfonly
  /-- SECTOR_GROUP_MARK: spec rule R295. -/
  | sectorGroupMark
  /-- PACKET_COMPLETION: spec rule R297. -/
  | packetCompletion
  /-- SLOT_WAIT_TIMEOUT: spec rule R294. -/
  | slotWaitTimeout
  /-- QUEUE_SCAN: spec rule R281. -/
  | queueScan
  /-- ALLRED: spec rule R339. -/
  | allred
  /-- REDSCAT: spec rule R339. -/
  | redscat
  /-- ALLGATH: spec rule R339. -/
  | allgath
  /-- BCAST: spec rule R339. -/
  | bcast
  /-- ALL2ALL: spec rule R339. -/
  | all2all
  /-- PARTIAL_ARRIVAL: spec rule R439. -/
  | partialArrival
  /-- COLLECTIVE_COMPLETION: spec rule R341. -/
  | collectiveCompletion
  /-- FACE_FILL: spec rule R309. -/
  | faceFill
  /-- STRIP_LANDING: spec rule R310. -/
  | stripLanding
  /-- GRID_LOAD_TIMEOUT: spec rule R313. -/
  | gridLoadTimeout
  /-- KNOCK_SCAN: spec rule R347. -/
  | knockScan
  /-- RECONCILE_PASS: spec rule R347. -/
  | reconcilePass
  /-- SLICE: spec rule R350. -/
  | cpSlice
  /-- GRAPH: spec rule R354. -/
  | cpGraph
  /-- WAIT_HSS: spec rule R350. -/
  | waitHss
  /-- WAIT_MEMORY: spec rule R350. -/
  | waitMemory
  /-- SIGNAL_HSS: spec rule R350. -/
  | signalHss
  /-- SIGNAL_MEMORY: spec rule R350. -/
  | signalMemory
  /-- CHAIN: spec rule R351. -/
  | cpChain
  /-- LAUNCH_NOP: spec rule R350. -/
  | launchNop
  /-- CUSTOM: spec rule R357. -/
  | cpCustom
  /-- MEMORY_WAIT_REREAD: spec rule R350. -/
  | memoryWaitReread
  /-- SLICE_HANDOVER: spec rule R363. -/
  | sliceHandover
  /-- CREW_BIND: spec rule R367. -/
  | crewBind
  /-- QUANTUM_EXPIRY: spec rule R370. -/
  | quantumExpiry
  /-- BUDGET_EXHAUSTED: spec rule R369. -/
  | budgetExhausted
  /-- SLICE_COMPLETE: spec rule R361. -/
  | sliceComplete
  /-- PCREATE: spec rule R421. -/
  | pcreate
  /-- PDESTROY: spec rule R421. -/
  | pdestroy
  /-- IMPORT: spec rule R239. -/
  | importBlob
  /-- ATTEST: spec rule R414. -/
  | attest
  /-- MANIFEST: spec rule R413. -/
  | manifest
  /-- PROGREG: spec rule R421. -/
  | progreg
  /-- DEBUG: spec rule R421. -/
  | debugCmd
  /-- HSSREAD: spec rule R421. -/
  | hssread
  /-- FWLOAD: spec rule R421. -/
  | fwload
  /-- RECOVER: spec rule R421. -/
  | recover
  /-- UNKNOWN_COMMAND: spec rule R421. -/
  | unknownCommand
  /-- TRACE_RECORD_WRITE: spec rule R405. -/
  | traceRecordWrite
  /-- REQUEST_ACKNOWLEDGED: spec rule R85. -/
  | requestAcknowledged
  /-- PAGE_WALK: spec rule R224. -/
  | pageWalk (w : WalkReq)
  /-- FQRET_RETIRE: spec rule R232. -/
  | fqretRetire (w : FqRet)
  /-- FQRET_FAIL: spec rule R232. -/
  | fqretFail (w : FqRet)
  /-- HOST_REQUEST: spec rule R237. -/
  | hostRequest (w : HostReq)
  /-- CXL_MEM_ACCESS: spec rule R417. -/
  | cxlMemAccess (w : HostReq)
  /-- CONJUNCTION_BOUNDARY: spec rule R319. -/
  | conjunctionBoundary (w : ConjBoundary)
  /-- CONJUNCTION_HEADER: spec rule R322. -/
  | conjunctionHeader (w : ConjHeader)
  /-- FLIT_RECEIVE: spec rule R327. -/
  | flitReceive (w : FlitArrival)
  /-- NAK: spec rule R327. -/
  | linkNak (w : NakArrival)
  /-- LOSS_OF_LIGHT: spec rule R334. -/
  | lossOfLight (w : LightLoss)
  /-- RESTRIPE_MARKER: spec rule R334. -/
  | restripeMarker (w : PortMask)
  /-- BANK_RETIRED: spec rule R335. -/
  | bankRetired (w : BankRef)
  /-- LIVE: spec rule R336. -/
  | portLive (w : PortMask)
  /-- BIND_RECORD: spec rule R365. -/
  | bindRecord (w : BindRecord)
  /-- BIND_EXTEND: spec rule R369. -/
  | bindExtend (w : BindRecord)
  /-- BIND_CANCEL: spec rule R369. -/
  | bindCancel (w : BindRecord)
  /-- EQHEAD: spec rule R420. -/
  | eqhead (w : EqWrite)
  /-- POWER_COMPARE: spec rule R423. -/
  | powerCompare (w : PowerSample)
  /-- PWRCAP: spec rule R423. -/
  | pwrcap (w : CapWrite)
  /-- I3C_REQUEST: spec rule R425. -/
  | i3cRequest (w : I3cRequest)
  /-- FETCH_BLOCK_FILL: spec rule R83. -/
  | fetchBlockFill (w : FetchFill)
  /-- PEERID_WRITE: spec rule R321. -/
  | peeridWrite (w : PeerWrite)
  /-- SHUTTER_ENTRY_WRITE: spec rule R233. -/
  | shutterEntryWrite (w : ShutterWrite)
  /-- QUEUE_REGISTRATION: spec rule R280. -/
  | queueRegistration (w : QueueReg)
  /-- HOST_SNOOP: spec rule R250. -/
  | hostSnoop (w : SnoopLine)
  /-- TDISP_REQUEST: spec rule R416. -/
  | tdispRequest (w : TdispRequest)
  /-- BAR0_WRITE: spec rule R423. -/
  | bar0Write (w : Bar0Write)
  deriving DecidableEq, Repr

end Sys2Proof
end

