-- ==== Sys2Proof/WellFormed.lean ====
section
/-! DEFINITION. Which instructions the spec lets issue: the operand checks that depend on the word alone
(spec/03_encoding.md R51 to R54, R64 to R70; spec/07_vector.md R156, R158; spec/09_accumulators.md R213 to R216;
spec/16_launch.md R358). -/

namespace Sys2Proof

/-! Classes of VE specifiers (R67). -/

/-- v0 to v63, w0 to w15, h0 to h3, the zero vector, the lane-index vector, k0 to k15. -/
def srcOk (x : BitVec 8) : Bool := x.toNat < 0x56 || (0x80 ≤ x.toNat && x.toNat < 0x90)
/-- v0 to v63 and w0 to w15. -/
def regOk (x : BitVec 8) : Bool := x.toNat < 0x50
/-- A vector destination, or none. -/
def dstOk (x : BitVec 8) : Bool := regOk x || x == 0xFF
/-- A mask destination: m1 to m7 (R128). -/
def maskDstOk (x : BitVec 8) : Bool := 0x61 ≤ x.toNat && x.toNat < 0x68
/-- A mask source: m0 to m7. -/
def maskSrcOk (x : BitVec 8) : Bool := 0x60 ≤ x.toNat && x.toNat < 0x68
/-- An unused register field (R64). -/
def unused (x : BitVec 8) : Bool := x == 0xFF
/-- A ring or tile field (R68). -/
def slotOk (x : BitVec 8) : Bool := x.toNat < 0x30
/-- A ring field (R70). -/
def ringOk (x : BitVec 8) : Bool := x.toNat < 0x10
/-- An accumulator bank field (R70). -/
def bankOk (x : BitVec 8) : Bool := x.toNat < 4
/-- A launch constant. -/
def constOk (x : BitVec 8) : Bool := 0x80 ≤ x.toNat && x.toNat < 0x90

/-- FMT is one of `l`, or is 0 or 11 on a word that is raw and for which `raws` lists it (R158). -/
def fmtIn (w : EngW) (l raws : List Nat) : Bool :=
  l.contains w.fmt.toNat || (raws.contains w.fmt.toNat && w.mod.getLsbD 7)

/-- A floating-point format code. -/
def isFp (f : BitVec 4) : Bool := 1 ≤ f.toNat && f.toNat ≤ 4
/-- An MX format, or WIDE64. -/
def isBlock (f : BitVec 4) : Bool := 8 ≤ f.toNat && f.toNat ≤ 11

/-- What every VE template meets: no reserved RND (R27), no reserved ADDR base (R64), FPX only where R156 lets it, MOD
bits outside `used` zero, and m0 with neg 0 under an MX format or WIDE64 (R158). -/
def veCommon (w : EngW) (used : Nat) (fpx : Bool) : Bool :=
  w.rnd.toNat < 6 && w.addr.toNat / 2^29 < 5 && (!w.mod.getLsbD 6 || (fpx && isFp w.fmt)) &&
    (w.mod.toNat % 64) &&& (63 - used) == 0 && (!isBlock w.fmt || (w.m == 0 && !w.neg))

/-- RND and OVF zero: the word neither rounds nor converts (R158). -/
def noRound (w : EngW) : Bool := w.rnd == 0 && w.ovf == 0
/-- RND and OVF only under a floating-point format (R158). -/
def fpRound (w : EngW) : Bool := isFp w.fmt || noRound w
/-- As `fpRound`, with OVF allowed under an integer format too (R158). -/
def redRound (w : EngW) : Bool := isFp w.fmt || w.rnd == 0
/-- Both immediates zero. -/
def noImm (w : EngW) : Bool := w.immA == 0 && w.immB == 0
/-- No address. -/
def noAddr (w : EngW) : Bool := w.addr == 0
/-- The template mask is m0, not negated (R158). -/
def mask0 (w : EngW) : Bool := w.m == 0 && !w.neg
/-- MOD[0] only under an integer format (R160). -/
def satInt (w : EngW) : Bool := !w.mod.getLsbD 0 || !isFp w.fmt

/-- Formats of arithmetic words. -/
def arithF : List Nat := [1, 2, 5, 6, 7, 12]
/-- Formats of vectors of elements. -/
def elemF : List Nat := [1, 2, 3, 4, 5, 6, 7, 12]
/-- Formats that a vector move may name. -/
def moveF : List Nat := [1, 2, 3, 4, 5, 6, 7, 8, 9, 10, 12]

/-- VADD, VSUB, VMUL. -/
def wfArith2 (w : EngW) : Bool :=
  dstOk w.d && srcOk w.a && srcOk w.b && unused w.c && fmtIn w arithF [] && veCommon w 1 true && satInt w &&
    fpRound w && noImm w && noAddr w
/-- VFMA, VFMS, VFNMA. -/
def wfArith3 (w : EngW) : Bool :=
  dstOk w.d && srcOk w.a && srcOk w.b && srcOk w.c && fmtIn w arithF [] && veCommon w 1 true && satInt w &&
    fpRound w && noImm w && noAddr w
/-- VMIN, VMAX. -/
def wfMinMax (w : EngW) : Bool :=
  dstOk w.d && srcOk w.a && srcOk w.b && unused w.c && fmtIn w arithF [] && veCommon w 0 true && noRound w &&
    noImm w && noAddr w
/-- VABS, VNEG. -/
def wfAbs (w : EngW) : Bool :=
  dstOk w.d && srcOk w.a && unused w.b && unused w.c && fmtIn w arithF [] && veCommon w 1 true && satInt w &&
    noRound w && noImm w && noAddr w
/-- VDIV. -/
def wfDiv (w : EngW) : Bool :=
  dstOk w.d && srcOk w.a && srcOk w.b && unused w.c && fmtIn w [1, 2] [] && veCommon w 0 true && noImm w && noAddr w
/-- VSQRT, VRCP, VRSQ. -/
def wfRoot (w : EngW) : Bool :=
  dstOk w.d && srcOk w.a && unused w.b && unused w.c && fmtIn w [1, 2] [] && veCommon w 0 true && noImm w && noAddr w
/-- VAND, VOR, VXOR. -/
def wfLogic (w : EngW) : Bool :=
  dstOk w.d && srcOk w.a && srcOk w.b && unused w.c && fmtIn w elemF [0, 11] && veCommon w 0 false && noRound w &&
    noImm w && noAddr w
/-- VSHL, VSHR, VSRA, VMULH. -/
def wfShift (w : EngW) : Bool :=
  dstOk w.d && srcOk w.a && srcOk w.b && unused w.c && fmtIn w [5, 6, 7, 12] [] && veCommon w 0 false && noRound w &&
    noImm w && noAddr w
/-- VCMP. -/
def wfCmp (w : EngW) : Bool :=
  maskDstOk w.d && srcOk w.a && srcOk w.b && unused w.c && fmtIn w elemF [] && veCommon w 0 false && noRound w &&
    w.immA.toNat < 8 && w.immB == 0 && noAddr w
/-- VSEL. -/
def wfSel (w : EngW) : Bool :=
  dstOk w.d && srcOk w.a && srcOk w.b && maskSrcOk w.c && fmtIn w elemF [0, 11] && veCommon w 0 false && noRound w &&
    noImm w && noAddr w
/-- VCLASS. -/
def wfClass (w : EngW) : Bool :=
  maskDstOk w.d && srcOk w.a && unused w.b && unused w.c && fmtIn w [1, 2, 3, 4] [] && veCommon w 0 false && noRound w &&
    w.immA.toNat < 512 && w.immB == 0 && noAddr w

/-- Element width in bits of a format (spec/02_numbers.md, spec/07_vector.md R154). -/
def elemWidth (f : Nat) : Nat :=
  if f = 11 then 64 else if f = 0 || f = 1 || f = 5 then 32 else if f = 2 || f = 6 then 16 else 8

/-- VCVT: a path of R32 (any pair of element formats) and a part in range (R165). -/
def wfCvt (w : EngW) : Bool :=
  let f := w.immA.toNat
  let wf_ := elemWidth f
  let wt := elemWidth w.fmt.toNat
  let p := w.mod.toNat % 4
  dstOk w.d && srcOk w.a && unused w.b && unused w.c && fmtIn w elemF [] && veCommon w 3 true && w.immB == 0 &&
    noAddr w && elemF.contains f && (if wt < wf_ then p < wf_ / wt else if wf_ < wt then p < wt / wf_ else p == 0)
/-- VQMX. -/
def wfQmx (w : EngW) : Bool :=
  dstOk w.d && srcOk w.a && unused w.b && unused w.c && fmtIn w [8, 9, 10] [] && veCommon w 1 false && w.ovf == 0 &&
    (w.immA == 1 || w.immA == 2) && (w.immA == 2 || !w.mod.getLsbD 0) && w.immB == 0 && noAddr w && mask0 w
/-- VDQMX. -/
def wfDqmx (w : EngW) : Bool :=
  dstOk w.d && srcOk w.a && unused w.b && unused w.c && fmtIn w [1, 2] [] && veCommon w 1 false &&
    (w.immA == 8 || w.immA == 9 || w.immA == 10) && (w.fmt == 2 || !w.mod.getLsbD 0) && w.immB == 0 && noAddr w &&
    mask0 w
/-- VPACK, VUNPK. -/
def wfPack (w : EngW) : Bool :=
  dstOk w.d && srcOk w.a && srcOk w.b && unused w.c && fmtIn w elemF [0, 11] && veCommon w 1 false && noRound w &&
    noImm w && noAddr w
/-- VRSUM, VRMAX, VRMIN, VSCAN. -/
def wfRed (w : EngW) : Bool :=
  dstOk w.d && srcOk w.a && unused w.b && unused w.c && fmtIn w elemF [] && veCommon w 0 true && redRound w &&
    noImm w && noAddr w
/-- VPERM: MOD[0] only under an 8-bit format. -/
def wfPerm (w : EngW) : Bool :=
  dstOk w.d && srcOk w.a && srcOk w.b && unused w.c && fmtIn w elemF [0, 11] && veCommon w 1 false && noRound w &&
    (!w.mod.getLsbD 0 || elemWidth w.fmt.toNat == 8) && noImm w && noAddr w
/-- The element count of a format (R154). -/
def elemCount (f : Nat) : Nat := 4096 / elemWidth f
/-- VBCAST: the element must exist (R170). -/
def wfBcast (w : EngW) : Bool :=
  dstOk w.d && srcOk w.a && unused w.b && unused w.c && fmtIn w elemF [0, 11] && veCommon w 0 false && noRound w &&
    w.immA.toNat < elemCount w.fmt.toNat && w.immB == 0 && noAddr w
/-- VSLIDE: k from -n to n (R170). -/
def wfSlide (w : EngW) : Bool :=
  dstOk w.d && srcOk w.a && srcOk w.b && unused w.c && fmtIn w elemF [0, 11] && veCommon w 0 false && noRound w &&
    w.immA.toInt.natAbs ≤ elemCount w.fmt.toNat && w.immB == 0 && noAddr w
/-- VMOV. -/
def wfMov (w : EngW) : Bool :=
  dstOk w.d && srcOk w.a && unused w.b && unused w.c && fmtIn w moveF [0, 11] && veCommon w 0 false && noRound w &&
    noImm w && noAddr w
/-- VLDI. -/
def wfLdi (w : EngW) : Bool :=
  dstOk w.d && unused w.a && unused w.b && unused w.c && fmtIn w elemF [] && veCommon w 0 false && noRound w && noAddr w
/-- VTINT. -/
def wfTint (w : EngW) : Bool :=
  dstOk w.d && srcOk w.a && unused w.b && unused w.c && fmtIn w [1, 2] [] && veCommon w 0 true && w.immA.toNat < 16 &&
    w.immB == 0 && noAddr w
/-- VTLD: tables 4 to 15, FMT 0 without the raw modifier. -/
def wfTld (w : EngW) : Bool :=
  unused w.d && unused w.a && unused w.b && unused w.c && w.fmt == 0 && w.mod == 0 && veCommon w 0 false && noRound w &&
    4 ≤ w.immA.toNat && w.immA.toNat < 16 && w.immB == 0 && mask0 w
/-- VLD. -/
def wfLd (w : EngW) : Bool :=
  dstOk w.d && unused w.a && unused w.b && unused w.c && fmtIn w moveF [0, 11] && veCommon w 0 false && noRound w && noImm w
/-- VST. -/
def wfSt (w : EngW) : Bool :=
  unused w.d && srcOk w.a && unused w.b && unused w.c && fmtIn w moveF [0, 11] && veCommon w 0 false && noRound w && noImm w
/-- VLDS. -/
def wfLds (w : EngW) : Bool :=
  dstOk w.d && unused w.a && unused w.b && unused w.c && fmtIn w elemF [0] && veCommon w 0 false && noRound w && w.immA == 0
/-- VSTS. -/
def wfSts (w : EngW) : Bool :=
  unused w.d && srcOk w.a && unused w.b && unused w.c && fmtIn w elemF [0] && veCommon w 0 false && noRound w && w.immA == 0
/-- VGATH. -/
def wfGath (w : EngW) : Bool :=
  dstOk w.d && unused w.a && srcOk w.b && unused w.c && fmtIn w [1, 2, 5, 6] [0] && veCommon w 0 false && noRound w && noImm w
/-- VSCAT. -/
def wfScat (w : EngW) : Bool :=
  unused w.d && srcOk w.a && srcOk w.b && unused w.c && fmtIn w [1, 2, 5, 6] [0] && veCommon w 0 false && noRound w && noImm w
/-- The swizzle, row and half of VLDT and VSTT (R177). -/
def slotForm (w : EngW) : Bool :=
  let z := w.mod.toNat % 16
  (z == 0 || z == 2 || z == 3) ||
    (z == 4 && 8 ≤ w.fmt.toNat && w.fmt.toNat ≤ 10 && w.immA.toNat < 64 && !w.mod.getLsbD 4)
/-- VLDT. -/
def wfLdt (w : EngW) : Bool :=
  dstOk w.d && slotOk w.a && unused w.b && unused w.c && fmtIn w moveF [0, 11] && veCommon w 31 false && noRound w &&
    slotForm w && w.immB == 0 && noAddr w
/-- VSTT. -/
def wfStt (w : EngW) : Bool :=
  slotOk w.d && srcOk w.a && unused w.b && unused w.c && fmtIn w moveF [0, 11] && veCommon w 31 false && noRound w &&
    slotForm w && w.immB == 0 && noAddr w
/-- VLDG (spec/14_grids.md R315). -/
def wfLdgV (w : EngW) : Bool :=
  dstOk w.d && unused w.a && unused w.b && constOk w.c && fmtIn w elemF [] && veCommon w 63 false && noRound w
/-- VSTG (spec/14_grids.md R315). -/
def wfStgV (w : EngW) : Bool :=
  unused w.d && srcOk w.a && unused w.b && unused w.c && fmtIn w elemF [] && veCommon w 0 false && noRound w &&
    w.mod == 0 && w.immB == 0
/-- A VDEFER source that is used, or 0xFF. -/
def deferSrc (used : Bool) (x : BitVec 8) : Bool := if used then srcOk x else unused x
/-- VDEFER (R180). -/
def wfDefer (w : EngW) : Bool :=
  let n := w.immA.toNat
  slotOk w.d && n ≤ 4 && deferSrc (1 ≤ n) w.a && deferSrc (2 ≤ n) w.b && deferSrc (3 ≤ n) w.c &&
    (if n == 4 then w.immB.toNat < 256 && srcOk (w.immB.setWidth 8) else w.immB == 0) && fmtIn w [1, 5] [0] &&
    veCommon w 0 false && noRound w && noAddr w
/-- VDRAIN: D + c within the file of D (R181). -/
def wfDrain (w : EngW) : Bool :=
  let n := w.immA.toNat
  regOk w.d && slotOk w.a && unused w.b && unused w.c && n ≤ 4 &&
    (if w.d.toNat < 0x40 then w.d.toNat + n < 0x40 else w.d.toNat + n < 0x50) && fmtIn w [1, 5] [0] &&
    veCommon w 0 false && noRound w && w.immB == 0 && noAddr w && mask0 w
/-- VTQRY. -/
def wfTqry (w : EngW) : Bool :=
  dstOk w.d && slotOk w.a && unused w.b && unused w.c && w.fmt == 5 && veCommon w 0 false && noRound w && noImm w &&
    noAddr w && mask0 w
/-- MAND, MOR, MXOR. -/
def wfMask2 (w : EngW) : Bool :=
  maskDstOk w.d && maskSrcOk w.a && maskSrcOk w.b && unused w.c && fmtIn w elemF [] && veCommon w 0 false && noRound w &&
    noImm w && noAddr w && mask0 w
/-- MNOT. -/
def wfMask1 (w : EngW) : Bool :=
  maskDstOk w.d && maskSrcOk w.a && unused w.b && unused w.c && fmtIn w elemF [] && veCommon w 0 false && noRound w &&
    noImm w && noAddr w && mask0 w
/-- MPOPC. -/
def wfMpopc (w : EngW) : Bool :=
  dstOk w.d && maskSrcOk w.a && unused w.b && unused w.c && w.fmt == 5 && veCommon w 0 false && noRound w && noImm w &&
    noAddr w && mask0 w
/-- VMBX read (R184). -/
def wfMbxRead (w : EngW) : Bool :=
  dstOk w.d && unused w.a && unused w.b && unused w.c && w.fmt == 5 && veCommon w 0 false && noRound w &&
    w.immA.toNat < 16 && w.immB == 0 && noAddr w
/-- VMBX write (R184). -/
def wfMbxWrite (w : EngW) : Bool :=
  unused w.d && srcOk w.a && unused w.b && unused w.c && w.fmt == 5 && veCommon w 1 false && w.mod.getLsbD 0 &&
    noRound w && w.immA.toNat < 16 && w.immB == 0 && noAddr w

/-! ME templates (spec/09_accumulators.md R213 to R216). -/

/-- No mask, no rounding, no second immediate, no address. -/
def mePlain (w : EngW) : Bool := w.m == 0 && !w.neg && w.immB == 0 && w.addr == 0
/-- An output or input swizzle of the ME: 0, 2 or 3. -/
def meSwz (z : Nat) : Bool := z == 0 || z == 2 || z == 3
/-- MMA. -/
def wfMma (w : EngW) : Bool :=
  bankOk w.d && ringOk w.a && ringOk w.b && w.a != w.b && unused w.c && w.fmt.toNat / 4 < 3 && w.fmt.toNat % 4 < 3 &&
    w.mod.toNat < 4 && w.immA.toNat < 256 && noRound w && mePlain w
/-- MDRN. -/
def wfMdrn (w : EngW) : Bool :=
  slotOk w.d && bankOk w.a && (slotOk w.b || unused w.b) && unused w.c && (w.fmt == 1 || w.fmt == 2 || w.fmt == 5) &&
    w.rnd.toNat < 6 && meSwz (w.mod.toNat % 16) && w.mod.toNat < 32 && (w.mod.getLsbD 4 || noImm w) && w.m == 0 &&
    !w.neg && w.addr == 0
/-- MDRNP. -/
def wfMdrnp (w : EngW) : Bool :=
  slotOk w.d && bankOk w.a && unused w.b && unused w.c && w.fmt == 11 && noRound w && meSwz (w.mod.toNat % 16) &&
    w.mod.toNat < 16 && w.immA == 0 && mePlain w
/-- MACLD. -/
def wfMacld (w : EngW) : Bool :=
  bankOk w.d && slotOk w.a && unused w.b && unused w.c && w.fmt == 11 && noRound w && !w.mod.getLsbD 0 &&
    meSwz (w.mod.toNat / 4) && w.immA.toNat < 256 && mePlain w
/-- MCLR. -/
def wfMclr (w : EngW) : Bool :=
  bankOk w.d && unused w.a && unused w.b && unused w.c && w.fmt == 0 && noRound w && w.mod == 0 && w.immA == 0 && mePlain w
/-- MCOMA. -/
def wfMcoma (w : EngW) : Bool :=
  unused w.d && unused w.a && unused w.b && unused w.c && w.fmt == 0 && noRound w && w.mod == 0 && w.immA.toNat < 32 &&
    mePlain w

/-- Whether the encoding of an instruction is one the spec assigns (events have none and pass). -/
def wellFormed : Instr → Bool
  | .add _ => true
  | .sub _ => true
  | .and _ => true
  | .or _ => true
  | .xor _ => true
  | .andn _ => true
  | .shl _ => true
  | .shr _ => true
  | .sra _ => true
  | .rol _ => true
  | .mul _ => true
  | .mulh _ => true
  | .mulhu _ => true
  | .madd _ => true
  | .div _ => true
  | .divu _ => true
  | .rem _ => true
  | .remu _ => true
  | .min _ => true
  | .max _ => true
  | .minu _ => true
  | .maxu _ => true
  | .clz _ => true
  | .ctz _ => true
  | .popc _ => true
  | .sext w => w.b.toNat < 3
  | .zext w => w.b.toNat < 3
  | .bswap _ => true
  | .addi _ => true
  | .andi _ => true
  | .ori _ => true
  | .xori _ => true
  | .shli _ => true
  | .shri _ => true
  | .srai _ => true
  | .roli _ => true
  | .muli _ => true
  | .ldi _ => true
  | .ldhi _ => true
  | .cmp _ => true
  | .cmpi _ => true
  | .plogAnd _ => true
  | .plogOr _ => true
  | .plogXor _ => true
  | .plogAndn _ => true
  | .plogOrn _ => true
  | .plogNand _ => true
  | .plogNor _ => true
  | .plogXnor _ => true
  | .pset _ => true
  | .pget _ => true
  | .sel _ => true
  | .mfc _ => true
  | .mtc _ => true
  | .ld w => w.o != 3 && (!w.q || w.o == 0)
  | .st w => w.o != 3
  | .ldx w => w.o != 3 && (!w.q || w.o == 0)
  | .stx w => w.o != 3
  | .ldg _ => true
  | .atomAdd w => w.e.toNat < 6
  | .atomAnd w => w.e.toNat < 6
  | .atomOr w => w.e.toNat < 6
  | .atomXor w => w.e.toNat < 6
  | .atomMin w => w.e.toNat < 6
  | .atomMax w => w.e.toNat < 6
  | .atomMinu w => w.e.toNat < 6
  | .atomMaxu w => w.e.toNat < 6
  | .atomSwap w => w.e.toNat < 6
  | .atomCas w => w.e.toNat < 6
  | .pref _ => true
  | .bpref _ => true
  | .br _ => true
  | .jmp _ => true
  | .call _ => true
  | .jmpr _ => true
  | .callr _ => true
  | .semAdd _ => true
  | .semWait _ => true
  | .semTry _ => true
  | .semRd _ => true
  | .semSet _ => true
  | .sig _ => true
  | .barArr _ => true
  | .barWait _ => true
  | .tbarArr _ => true
  | .tbarExp _ => true
  | .tbarWait _ => true
  | .twaitf w => w.i.toNat < 0x30
  | .twaite w => w.i.toNat < 0x30
  | .tsetf w => w.i.toNat < 0x30
  | .tsete w => w.i.toNat < 0x30
  | .qwaitf w => w.i.toNat < 0x30
  | .qwaite w => w.i.toNat < 0x30
  | .qpush w => w.i.toNat < 0x30
  | .qpop w => w.i.toNat < 0x30
  | .qcfg w => w.i.toNat < 0x30
  | .lnchMe _ => true
  | .lnchVe _ => true
  | .cpy _ => true
  | .spawn w => w.a != 0
  | .spawnTake _ => true
  | .hstep _ => true
  | .hwait _ => true
  | .hqry _ => true
  | .nop _ => true
  | .exit _ => true
  | .yield _ => true
  | .mark _ => true
  | .wfe _ => true
  | .sev _ => true
  | .trapWord _ => true
  | .eret _ => true
  | .uiret _ => true
  | .ret _ => true
  | .fenceFull w => w.e.toNat < 6
  | .fenceAcq w => w.e.toNat < 6
  | .fenceRel w => w.e.toNat < 6
  | .fenceEng w => w.e.toNat < 6
  | .bkpt _ => true
  | .tlbinv _ => true
  | .cacheInv w => w.l.toNat < 3
  | .cacheClean w => w.l.toNat < 2
  | .cacheFlush w => w.l.toNat < 2
  | .cacheInvall w => w.l.toNat < 3
  | .cacheCleanall w => w.l.toNat < 2
  | .enop _ => true
  | .eend _ => true
  | .emark _ => true
  | .waitf w => w.i.toNat < 0x30
  | .waite w => w.i.toNat < 0x30
  | .setf w => w.i.toNat < 0x30
  | .sete w => w.i.toNat < 0x30
  | .qpope w => w.i.toNat < 0x30
  | .qpushe w => w.i.toNat < 0x30
  | .esem w => w.e.toNat < 4
  | .tpld w => w.e.toNat < 63
  | .lexit w => w.v.toNat < 6
  | .efence _ => true
  | .vadd w => wfArith2 w
  | .vsub w => wfArith2 w
  | .vmul w => wfArith2 w
  | .vfma w => wfArith3 w
  | .vfms w => wfArith3 w
  | .vfnma w => wfArith3 w
  | .vmin w => wfMinMax w
  | .vmax w => wfMinMax w
  | .vabs w => wfAbs w
  | .vneg w => wfAbs w
  | .vdiv w => wfDiv w
  | .vsqrt w => wfRoot w
  | .vrcp w => wfRoot w
  | .vrsq w => wfRoot w
  | .vand w => wfLogic w
  | .vor w => wfLogic w
  | .vxor w => wfLogic w
  | .vshl w => wfShift w
  | .vshr w => wfShift w
  | .vsra w => wfShift w
  | .vmulh w => wfShift w
  | .vcmp w => wfCmp w
  | .vsel w => wfSel w
  | .vclass w => wfClass w
  | .vcvt w => wfCvt w
  | .vqmx w => wfQmx w
  | .vdqmx w => wfDqmx w
  | .vpack w => wfPack w
  | .vunpk w => wfPack w
  | .vrsum w => wfRed w
  | .vrmax w => wfRed w
  | .vrmin w => wfRed w
  | .vscan w => wfRed w
  | .vperm w => wfPerm w
  | .vbcast w => wfBcast w
  | .vslide w => wfSlide w
  | .vmov w => wfMov w
  | .vldi w => wfLdi w
  | .vtint w => wfTint w
  | .vtld w => wfTld w
  | .vld w => wfLd w
  | .vst w => wfSt w
  | .vlds w => wfLds w
  | .vsts w => wfSts w
  | .vgath w => wfGath w
  | .vscat w => wfScat w
  | .vldt w => wfLdt w
  | .vstt w => wfStt w
  | .vldg w => wfLdgV w
  | .vstg w => wfStgV w
  | .vdefer w => wfDefer w
  | .vdrain w => wfDrain w
  | .vtqry w => wfTqry w
  | .mand w => wfMask2 w
  | .mor w => wfMask2 w
  | .mxor w => wfMask2 w
  | .mnot w => wfMask1 w
  | .mpopc w => wfMpopc w
  | .vmbxRead w => wfMbxRead w
  | .vmbxWrite w => wfMbxWrite w
  | .mma w => wfMma w
  | .mdrn w => wfMdrn w
  | .mdrnp w => wfMdrnp w
  | .macld w => wfMacld w
  | .mclr w => wfMclr w
  | .mcoma w => wfMcoma w
  | .grailoEnd => true
  | .grailoAdd _ => true
  | .grailoSub _ => true
  | .grailoAnd _ => true
  | .grailoOr _ => true
  | .grailoXor _ => true
  | .grailoAddi _ => true
  | .grailoShli _ => true
  | .grailoShri _ => true
  | .grLdk _ => true
  | .grLdm _ => true
  | .grStm _ => true
  | .grBrz w => 1 ≤ w.n.toNat && w.n.toNat < 1024
  | .grBrnz w => 1 ≤ w.n.toNat && w.n.toNat < 1024
  | .grLoop w => w.l != 0 && w.u != 0
  | .grEmit _ => true
  | .grFault _ => true
  | .landing _ => true
  | .shutterPublish _ => true
  | .selChange _ => true
  | .publishAck _ => true
  | .logResponse _ => true
  | .bprefComplete _ => true
  | .sigApply _ => true
  | .hssEngineUpdate _ => true
  | .knock _ => true
  | .packageRecovery _ => true
  | .flitTransmit _ => true
  | .relayForward _ => true
  | .msixModeration _ => true
  | .budgetPeriodEnd _ => true
  | .remoteRequest _ => true
  | .remoteResponse _ => true
  | .endToEndArrival _ => true
  | .mbdoor _ => true
  | .resultWritten => true
  | .kStep => true
  | .rowFold => true
  | .commit => true
  | .macldRow => true
  | .launchStart => true
  | .levelEntry => true
  | .iterationMark => true
  | .launchEnd => true
  | .engf => true
  | .acceptance => true
  | .automaticMark => true
  | .budgetTrap => true
  | .scyStopat => true
  | .watchdog => true
  | .parityAlarm => true
  | .protocolAlarm => true
  | .eclipse => true
  | .rotationEclipse => true
  | .coreReset => true
  | .dieReset => true
  | .powerOnReset => true
  | .ceLin => true
  | .ceBox => true
  | .ceCvt => true
  | .ceWin => true
  | .ceFill => true
  | .cePublish => true
  | .pfonly => true
  | .sectorGroupMark => true
  | .packetCompletion => true
  | .slotWaitTimeout => true
  | .queueScan => true
  | .allred => true
  | .redscat => true
  | .allgath => true
  | .bcast => true
  | .all2all => true
  | .partialArrival => true
  | .collectiveCompletion => true
  | .faceFill => true
  | .stripLanding => true
  | .gridLoadTimeout => true
  | .knockScan => true
  | .reconcilePass => true
  | .cpSlice => true
  | .cpGraph => true
  | .waitHss => true
  | .waitMemory => true
  | .signalHss => true
  | .signalMemory => true
  | .cpChain => true
  | .launchNop => true
  | .cpCustom => true
  | .memoryWaitReread => true
  | .sliceHandover => true
  | .crewBind => true
  | .quantumExpiry => true
  | .budgetExhausted => true
  | .sliceComplete => true
  | .pcreate => true
  | .pdestroy => true
  | .importBlob => true
  | .attest => true
  | .manifest => true
  | .progreg => true
  | .debugCmd => true
  | .hssread => true
  | .fwload => true
  | .recover => true
  | .unknownCommand => true
  | .traceRecordWrite => true
  | .requestAcknowledged => true
  | .pageWalk _ => true
  | .fqretRetire _ => true
  | .fqretFail _ => true
  | .hostRequest _ => true
  | .cxlMemAccess _ => true
  | .hssScrub _ => true
  | .spScrub _ => true
  | .conjunctionBoundary _ => true
  | .conjunctionHeader _ => true
  | .flitReceive _ => true
  | .linkNak _ => true
  | .lossOfLight _ => true
  | .restripeMarker _ => true
  | .bankRetired _ => true
  | .portLive _ => true
  | .bindRecord _ => true
  | .bindExtend _ => true
  | .bindCancel _ => true
  | .eqhead _ => true
  | .powerCompare _ => true
  | .pwrcap _ => true
  | .i3cRequest _ => true
  | .fetchBlockFill _ => true
  | .peeridWrite _ => true
  | .shutterEntryWrite _ => true
  | .queueRegistration _ => true
  | .hostSnoop _ => true
  | .tdispRequest _ => true
  | .bar0Write _ => true

end Sys2Proof
end

