-- ==== Sys2Proof/Decode.lean ====
section
/-! DEFINITION. Decoding and encoding (spec/03_encoding.md R45 to R72, spec/16_launch.md R357). A word is read as a
number, bit 0 its least significant bit. A decoder answers none for an encoding the spec leaves unassigned; the machine
then raises ILLOP (R51, R71, R72), or GVERIFY for a Grailo program (R358). -/

namespace Sys2Proof

/-- The n-bit field of `w` whose lowest bit is bit `lo`. -/
def bf (n w lo : Nat) : BitVec n := BitVec.ofNat n (w / 2^lo)

/-- Bit `lo` of `w`. -/
def bt (w lo : Nat) : Bool := decide (w / 2^lo % 2 = 1)

/-- The n bits of `w` from bit `lo` up, as a number. -/
def fld (w lo n : Nat) : Nat := w / 2^lo % 2^n

/-- A field's value moved up to bit `lo`. -/
def up (x lo : Nat) : Nat := x * 2^lo

/-- The flags of a P-word (R61). -/
def efl (w : Nat) : EFlags := ⟨bt w 5, bf 3 w 2, bt w 1, bt w 0⟩

/-- Keep a decoded instruction only if its operands lie in the layout the spec gives (R51). -/
def keepWf (o : Option Instr) : Option Instr :=
  match o with
  | some i => if wellFormed i then some i else none
  | none => none

/-- SYS, major 0x00 (R53). -/
def decodeSys (w : Nat) : Option Instr :=
  if fld w 0 22 = 0 ∧ fld w 25 1 = 0 then some (.nop (.mk (bf 3 w 22)))
  else if fld w 0 22 = 65536 ∧ fld w 25 1 = 0 then some (.exit (.mk (bf 3 w 22)))
  else if fld w 0 22 = 131072 ∧ fld w 25 1 = 0 then some (.yield (.mk (bf 3 w 22)))
  else if fld w 0 22 = 196608 ∧ fld w 25 1 = 0 then some (.mark (.mk (bf 3 w 22)))
  else if fld w 0 22 = 262144 ∧ fld w 25 1 = 0 then some (.wfe (.mk (bf 3 w 22)))
  else if fld w 3 19 = 40960 ∧ fld w 25 1 = 0 then some (.sev (.mk (bf 3 w 22) (bf 3 w 0)))
  else if fld w 16 6 = 6 ∧ fld w 25 1 = 0 then some (.trapWord (.mk (bf 3 w 22) (bf 16 w 0)))
  else if fld w 0 22 = 458752 ∧ fld w 25 1 = 0 then some (.eret (.mk (bf 3 w 22)))
  else if fld w 0 22 = 524288 ∧ fld w 25 1 = 0 then some (.uiret (.mk (bf 3 w 22)))
  else if fld w 0 22 = 589824 ∧ fld w 25 1 = 0 then some (.ret (.mk (bf 3 w 22)))
  else if fld w 0 4 = 0 ∧ fld w 7 15 = 5120 ∧ fld w 25 1 = 0 then some (.fenceFull (.mk (bf 3 w 22) (bf 3 w 4)))
  else if fld w 0 4 = 1 ∧ fld w 7 15 = 5120 ∧ fld w 25 1 = 0 then some (.fenceAcq (.mk (bf 3 w 22) (bf 3 w 4)))
  else if fld w 0 4 = 2 ∧ fld w 7 15 = 5120 ∧ fld w 25 1 = 0 then some (.fenceRel (.mk (bf 3 w 22) (bf 3 w 4)))
  else if fld w 0 4 = 3 ∧ fld w 7 15 = 5120 ∧ fld w 25 1 = 0 then some (.fenceEng (.mk (bf 3 w 22) (bf 3 w 4)))
  else if fld w 16 6 = 11 ∧ fld w 25 1 = 0 then some (.bkpt (.mk (bf 3 w 22) (bf 16 w 0)))
  else if fld w 5 17 = 24576 ∧ fld w 25 1 = 0 then some (.tlbinv (.mk (bf 3 w 22) (bf 5 w 0)))
  else if fld w 0 4 = 0 ∧ fld w 11 11 = 416 ∧ fld w 25 1 = 0 then some (.cacheInv (.mk (bf 3 w 22) (bf 5 w 6) (bf 2 w 4)))
  else if fld w 0 4 = 1 ∧ fld w 11 11 = 416 ∧ fld w 25 1 = 0 then some (.cacheClean (.mk (bf 3 w 22) (bf 5 w 6) (bf 2 w 4)))
  else if fld w 0 4 = 2 ∧ fld w 11 11 = 416 ∧ fld w 25 1 = 0 then some (.cacheFlush (.mk (bf 3 w 22) (bf 5 w 6) (bf 2 w 4)))
  else if fld w 0 4 = 3 ∧ fld w 6 16 = 13312 ∧ fld w 25 1 = 0 then some (.cacheInvall (.mk (bf 3 w 22) (bf 2 w 4)))
  else if fld w 0 4 = 4 ∧ fld w 6 16 = 13312 ∧ fld w 25 1 = 0 then some (.cacheCleanall (.mk (bf 3 w 22) (bf 2 w 4)))
  else none

/-- ALU, major 0x01 (R52). -/
def decodeAlu (w : Nat) : Option Instr :=
  match fld w 0 7 with
  | 0 => some (.add (.mk (bt w 25) (bf 3 w 22) (bf 5 w 17) (bf 5 w 12) (bf 5 w 7)))
  | 1 => some (.sub (.mk (bt w 25) (bf 3 w 22) (bf 5 w 17) (bf 5 w 12) (bf 5 w 7)))
  | 2 => some (.and (.mk (bt w 25) (bf 3 w 22) (bf 5 w 17) (bf 5 w 12) (bf 5 w 7)))
  | 3 => some (.or (.mk (bt w 25) (bf 3 w 22) (bf 5 w 17) (bf 5 w 12) (bf 5 w 7)))
  | 4 => some (.xor (.mk (bt w 25) (bf 3 w 22) (bf 5 w 17) (bf 5 w 12) (bf 5 w 7)))
  | 5 => some (.andn (.mk (bt w 25) (bf 3 w 22) (bf 5 w 17) (bf 5 w 12) (bf 5 w 7)))
  | 6 => some (.shl (.mk (bt w 25) (bf 3 w 22) (bf 5 w 17) (bf 5 w 12) (bf 5 w 7)))
  | 7 => some (.shr (.mk (bt w 25) (bf 3 w 22) (bf 5 w 17) (bf 5 w 12) (bf 5 w 7)))
  | 8 => some (.sra (.mk (bt w 25) (bf 3 w 22) (bf 5 w 17) (bf 5 w 12) (bf 5 w 7)))
  | 9 => some (.rol (.mk (bt w 25) (bf 3 w 22) (bf 5 w 17) (bf 5 w 12) (bf 5 w 7)))
  | 10 => some (.mul (.mk (bt w 25) (bf 3 w 22) (bf 5 w 17) (bf 5 w 12) (bf 5 w 7)))
  | 11 => some (.mulh (.mk (bt w 25) (bf 3 w 22) (bf 5 w 17) (bf 5 w 12) (bf 5 w 7)))
  | 12 => some (.mulhu (.mk (bt w 25) (bf 3 w 22) (bf 5 w 17) (bf 5 w 12) (bf 5 w 7)))
  | 13 => some (.madd (.mk (bt w 25) (bf 3 w 22) (bf 5 w 17) (bf 5 w 12) (bf 5 w 7)))
  | 14 => some (.div (.mk (bt w 25) (bf 3 w 22) (bf 5 w 17) (bf 5 w 12) (bf 5 w 7)))
  | 15 => some (.divu (.mk (bt w 25) (bf 3 w 22) (bf 5 w 17) (bf 5 w 12) (bf 5 w 7)))
  | 16 => some (.rem (.mk (bt w 25) (bf 3 w 22) (bf 5 w 17) (bf 5 w 12) (bf 5 w 7)))
  | 17 => some (.remu (.mk (bt w 25) (bf 3 w 22) (bf 5 w 17) (bf 5 w 12) (bf 5 w 7)))
  | 18 => some (.min (.mk (bt w 25) (bf 3 w 22) (bf 5 w 17) (bf 5 w 12) (bf 5 w 7)))
  | 19 => some (.max (.mk (bt w 25) (bf 3 w 22) (bf 5 w 17) (bf 5 w 12) (bf 5 w 7)))
  | 20 => some (.minu (.mk (bt w 25) (bf 3 w 22) (bf 5 w 17) (bf 5 w 12) (bf 5 w 7)))
  | 21 => some (.maxu (.mk (bt w 25) (bf 3 w 22) (bf 5 w 17) (bf 5 w 12) (bf 5 w 7)))
  | 22 => if fld w 7 5 = 0 then some (.clz (.mk (bt w 25) (bf 3 w 22) (bf 5 w 17) (bf 5 w 12))) else none
  | 23 => if fld w 7 5 = 0 then some (.ctz (.mk (bt w 25) (bf 3 w 22) (bf 5 w 17) (bf 5 w 12))) else none
  | 24 => if fld w 7 5 = 0 then some (.popc (.mk (bt w 25) (bf 3 w 22) (bf 5 w 17) (bf 5 w 12))) else none
  | 25 => some (.sext (.mk (bt w 25) (bf 3 w 22) (bf 5 w 17) (bf 5 w 12) (bf 5 w 7)))
  | 26 => some (.zext (.mk (bt w 25) (bf 3 w 22) (bf 5 w 17) (bf 5 w 12) (bf 5 w 7)))
  | 27 => if fld w 7 5 = 0 then some (.bswap (.mk (bt w 25) (bf 3 w 22) (bf 5 w 17) (bf 5 w 12))) else none
  | _ => none

/-- A D-word by its major opcode (R50), before the checks of R51 that depend on operand values. -/
def decodeDRaw (w : Nat) : Option Instr :=
  match fld w 26 6 with
  | 0 => decodeSys w
  | 1 => decodeAlu w
  | 2 =>
      some (.addi (.mk (bt w 25) (bf 3 w 22) (bf 5 w 17) (bf 5 w 12) (bf 12 w 0)))
  | 3 =>
      some (.andi (.mk (bt w 25) (bf 3 w 22) (bf 5 w 17) (bf 5 w 12) (bf 12 w 0)))
  | 4 =>
      some (.ori (.mk (bt w 25) (bf 3 w 22) (bf 5 w 17) (bf 5 w 12) (bf 12 w 0)))
  | 5 =>
      some (.xori (.mk (bt w 25) (bf 3 w 22) (bf 5 w 17) (bf 5 w 12) (bf 12 w 0)))
  | 6 =>
      if fld w 6 6 = 0 then some (.shli (.mk (bt w 25) (bf 3 w 22) (bf 5 w 17) (bf 5 w 12) (bf 6 w 0)))
      else if fld w 6 6 = 16 then some (.shri (.mk (bt w 25) (bf 3 w 22) (bf 5 w 17) (bf 5 w 12) (bf 6 w 0)))
      else if fld w 6 6 = 32 then some (.srai (.mk (bt w 25) (bf 3 w 22) (bf 5 w 17) (bf 5 w 12) (bf 6 w 0)))
      else if fld w 6 6 = 48 then some (.roli (.mk (bt w 25) (bf 3 w 22) (bf 5 w 17) (bf 5 w 12) (bf 6 w 0)))
      else none
  | 7 =>
      some (.muli (.mk (bt w 25) (bf 3 w 22) (bf 5 w 17) (bf 5 w 12) (bf 12 w 0)))
  | 8 =>
      some (.ldi (.mk (bt w 25) (bf 3 w 22) (bf 5 w 17) (bf 17 w 0)))
  | 9 =>
      if fld w 16 1 = 0 then some (.ldhi (.mk (bt w 25) (bf 3 w 22) (bf 5 w 17) (bf 16 w 0)))
      else none
  | 10 =>
      if fld w 0 4 = 0 then some (.cmp (.mk (bt w 25) (bf 3 w 22) (bf 3 w 19) (bf 2 w 17) (bf 5 w 12) (bf 5 w 7) (bf 3 w 4)))
      else none
  | 11 =>
      some (.cmpi (.mk (bt w 25) (bf 3 w 22) (bf 3 w 19) (bf 2 w 17) (bf 5 w 12) (bf 3 w 9) (bf 9 w 0)))
  | 12 =>
      if fld w 0 13 = 0 then some (.plogAnd (.mk (bt w 25) (bf 3 w 22) (bf 3 w 19) (bf 3 w 16) (bf 3 w 13)))
      else if fld w 0 13 = 1024 then some (.plogOr (.mk (bt w 25) (bf 3 w 22) (bf 3 w 19) (bf 3 w 16) (bf 3 w 13)))
      else if fld w 0 13 = 2048 then some (.plogXor (.mk (bt w 25) (bf 3 w 22) (bf 3 w 19) (bf 3 w 16) (bf 3 w 13)))
      else if fld w 0 13 = 3072 then some (.plogAndn (.mk (bt w 25) (bf 3 w 22) (bf 3 w 19) (bf 3 w 16) (bf 3 w 13)))
      else if fld w 0 13 = 4096 then some (.plogOrn (.mk (bt w 25) (bf 3 w 22) (bf 3 w 19) (bf 3 w 16) (bf 3 w 13)))
      else if fld w 0 13 = 5120 then some (.plogNand (.mk (bt w 25) (bf 3 w 22) (bf 3 w 19) (bf 3 w 16) (bf 3 w 13)))
      else if fld w 0 13 = 6144 then some (.plogNor (.mk (bt w 25) (bf 3 w 22) (bf 3 w 19) (bf 3 w 16) (bf 3 w 13)))
      else if fld w 0 13 = 7168 then some (.plogXnor (.mk (bt w 25) (bf 3 w 22) (bf 3 w 19) (bf 3 w 16) (bf 3 w 13)))
      else none
  | 13 =>
      if fld w 0 12 = 0 ∧ fld w 17 5 = 0 then some (.pset (.mk (bt w 25) (bf 3 w 22) (bf 5 w 12)))
      else if fld w 0 17 = 1 then some (.pget (.mk (bt w 25) (bf 3 w 22) (bf 5 w 17)))
      else none
  | 14 =>
      if fld w 0 4 = 0 then some (.sel (.mk (bt w 25) (bf 3 w 22) (bf 5 w 17) (bf 5 w 12) (bf 5 w 7) (bf 3 w 4)))
      else none
  | 15 =>
      if fld w 12 5 = 0 then some (.mfc (.mk (bt w 25) (bf 3 w 22) (bf 5 w 17) (bf 12 w 0)))
      else none
  | 16 =>
      if fld w 17 5 = 0 ∧ fld w 25 1 = 0 then some (.mtc (.mk (bf 3 w 22) (bf 5 w 12) (bf 12 w 0)))
      else none
  | 17 =>
      some (.ld (.mk (bt w 25) (bf 3 w 22) (bf 5 w 17) (bf 5 w 12) (bf 2 w 10) (bf 2 w 8) (bt w 7) (bf 7 w 0)))
  | 18 =>
      if fld w 7 1 = 0 ∧ fld w 25 1 = 0 then some (.st (.mk (bf 3 w 22) (bf 5 w 17) (bf 5 w 12) (bf 2 w 10) (bf 2 w 8) (bf 7 w 0)))
      else none
  | 19 =>
      if fld w 5 2 = 0 then some (.ldx (.mk (bt w 25) (bf 3 w 22) (bf 5 w 17) (bf 5 w 12) (bf 5 w 7) (bt w 4) (bf 2 w 2) (bf 2 w 0)))
      else none
  | 20 =>
      if fld w 4 3 = 0 ∧ fld w 25 1 = 0 then some (.stx (.mk (bf 3 w 22) (bf 5 w 17) (bf 5 w 12) (bf 5 w 7) (bf 2 w 2) (bf 2 w 0)))
      else none
  | 21 =>
      if fld w 2 5 = 0 then some (.ldg (.mk (bt w 25) (bf 3 w 22) (bf 5 w 17) (bf 5 w 12) (bf 5 w 7) (bf 2 w 0)))
      else none
  | 22 =>
      if fld w 3 4 = 0 ∧ fld w 25 1 = 0 then some (.atomAdd (.mk (bf 3 w 22) (bf 5 w 17) (bf 5 w 12) (bf 5 w 7) (bf 3 w 0)))
      else if fld w 3 4 = 1 ∧ fld w 25 1 = 0 then some (.atomAnd (.mk (bf 3 w 22) (bf 5 w 17) (bf 5 w 12) (bf 5 w 7) (bf 3 w 0)))
      else if fld w 3 4 = 2 ∧ fld w 25 1 = 0 then some (.atomOr (.mk (bf 3 w 22) (bf 5 w 17) (bf 5 w 12) (bf 5 w 7) (bf 3 w 0)))
      else if fld w 3 4 = 3 ∧ fld w 25 1 = 0 then some (.atomXor (.mk (bf 3 w 22) (bf 5 w 17) (bf 5 w 12) (bf 5 w 7) (bf 3 w 0)))
      else if fld w 3 4 = 4 ∧ fld w 25 1 = 0 then some (.atomMin (.mk (bf 3 w 22) (bf 5 w 17) (bf 5 w 12) (bf 5 w 7) (bf 3 w 0)))
      else if fld w 3 4 = 5 ∧ fld w 25 1 = 0 then some (.atomMax (.mk (bf 3 w 22) (bf 5 w 17) (bf 5 w 12) (bf 5 w 7) (bf 3 w 0)))
      else if fld w 3 4 = 6 ∧ fld w 25 1 = 0 then some (.atomMinu (.mk (bf 3 w 22) (bf 5 w 17) (bf 5 w 12) (bf 5 w 7) (bf 3 w 0)))
      else if fld w 3 4 = 7 ∧ fld w 25 1 = 0 then some (.atomMaxu (.mk (bf 3 w 22) (bf 5 w 17) (bf 5 w 12) (bf 5 w 7) (bf 3 w 0)))
      else if fld w 3 4 = 8 ∧ fld w 25 1 = 0 then some (.atomSwap (.mk (bf 3 w 22) (bf 5 w 17) (bf 5 w 12) (bf 5 w 7) (bf 3 w 0)))
      else if fld w 3 4 = 9 ∧ fld w 25 1 = 0 then some (.atomCas (.mk (bf 3 w 22) (bf 5 w 17) (bf 5 w 12) (bf 5 w 7) (bf 3 w 0)))
      else none
  | 23 =>
      if fld w 7 3 = 0 ∧ fld w 17 5 = 0 ∧ fld w 25 1 = 0 then some (.pref (.mk (bf 3 w 22) (bf 5 w 12) (bf 2 w 10) (bf 7 w 0)))
      else none
  | 24 =>
      if fld w 0 7 = 0 ∧ fld w 25 1 = 0 then some (.bpref (.mk (bf 3 w 22) (bf 5 w 17) (bf 5 w 12) (bf 5 w 7)))
      else none
  | 25 =>
      if fld w 25 1 = 0 then some (.br (.mk (bf 3 w 22) (bf 3 w 19) (bt w 18) (bf 18 w 0)))
      else none
  | 26 =>
      if fld w 25 1 = 0 then some (.jmp (.mk (bf 3 w 22) (bf 22 w 0)))
      else none
  | 27 =>
      if fld w 25 1 = 0 then some (.call (.mk (bf 3 w 22) (bf 22 w 0)))
      else none
  | 28 =>
      if fld w 0 12 = 0 ∧ fld w 17 5 = 0 ∧ fld w 25 1 = 0 then some (.jmpr (.mk (bf 3 w 22) (bf 5 w 12)))
      else none
  | 29 =>
      if fld w 0 12 = 0 ∧ fld w 17 5 = 0 ∧ fld w 25 1 = 0 then some (.callr (.mk (bf 3 w 22) (bf 5 w 12)))
      else none
  | 30 =>
      if fld w 0 7 = 0 ∧ fld w 17 5 = 0 ∧ fld w 25 1 = 0 then some (.semAdd (.mk (bf 3 w 22) (bf 5 w 12) (bf 5 w 7)))
      else if fld w 0 7 = 1 ∧ fld w 17 5 = 0 ∧ fld w 25 1 = 0 then some (.semWait (.mk (bf 3 w 22) (bf 5 w 12) (bf 5 w 7)))
      else if fld w 0 7 = 2 ∧ fld w 25 1 = 0 then some (.semTry (.mk (bf 3 w 22) (bf 5 w 17) (bf 5 w 12) (bf 5 w 7)))
      else if fld w 0 12 = 3 ∧ fld w 25 1 = 0 then some (.semRd (.mk (bf 3 w 22) (bf 5 w 17) (bf 5 w 12)))
      else if fld w 0 7 = 4 ∧ fld w 17 5 = 0 ∧ fld w 25 1 = 0 then some (.semSet (.mk (bf 3 w 22) (bf 5 w 12) (bf 5 w 7)))
      else none
  | 31 =>
      if fld w 0 7 = 0 ∧ fld w 17 5 = 0 ∧ fld w 25 1 = 0 then some (.sig (.mk (bf 3 w 22) (bf 5 w 12) (bf 5 w 7)))
      else none
  | 32 =>
      if fld w 0 7 = 0 ∧ fld w 25 1 = 0 then some (.barArr (.mk (bf 3 w 22) (bf 5 w 17) (bf 5 w 12) (bf 5 w 7)))
      else if fld w 0 7 = 1 ∧ fld w 17 5 = 0 ∧ fld w 25 1 = 0 then some (.barWait (.mk (bf 3 w 22) (bf 5 w 12) (bf 5 w 7)))
      else if fld w 0 12 = 2 ∧ fld w 25 1 = 0 then some (.tbarArr (.mk (bf 3 w 22) (bf 5 w 17) (bf 5 w 12)))
      else if fld w 0 7 = 3 ∧ fld w 17 5 = 0 ∧ fld w 25 1 = 0 then some (.tbarExp (.mk (bf 3 w 22) (bf 5 w 12) (bf 5 w 7)))
      else if fld w 0 7 = 4 ∧ fld w 25 1 = 0 then some (.tbarWait (.mk (bf 3 w 22) (bf 5 w 17) (bf 5 w 12) (bf 5 w 7)))
      else none
  | 33 =>
      if fld w 0 6 = 0 ∧ fld w 12 5 = 0 ∧ fld w 25 1 = 0 then some (.twaitf (.mk (bf 3 w 22) (bf 5 w 17) (bf 6 w 6)))
      else if fld w 0 6 = 1 ∧ fld w 12 5 = 0 ∧ fld w 25 1 = 0 then some (.twaite (.mk (bf 3 w 22) (bf 5 w 17) (bf 6 w 6)))
      else if fld w 0 6 = 2 ∧ fld w 25 1 = 0 then some (.tsetf (.mk (bf 3 w 22) (bf 5 w 17) (bf 5 w 12) (bf 6 w 6)))
      else if fld w 0 6 = 3 ∧ fld w 12 10 = 0 ∧ fld w 25 1 = 0 then some (.tsete (.mk (bf 3 w 22) (bf 6 w 6)))
      else if fld w 0 6 = 4 ∧ fld w 12 5 = 0 ∧ fld w 25 1 = 0 then some (.qwaitf (.mk (bf 3 w 22) (bf 5 w 17) (bf 6 w 6)))
      else if fld w 0 6 = 5 ∧ fld w 12 5 = 0 ∧ fld w 25 1 = 0 then some (.qwaite (.mk (bf 3 w 22) (bf 5 w 17) (bf 6 w 6)))
      else if fld w 0 6 = 6 ∧ fld w 25 1 = 0 then some (.qpush (.mk (bf 3 w 22) (bf 5 w 17) (bf 5 w 12) (bf 6 w 6)))
      else if fld w 0 6 = 7 ∧ fld w 12 10 = 0 ∧ fld w 25 1 = 0 then some (.qpop (.mk (bf 3 w 22) (bf 6 w 6)))
      else if fld w 0 6 = 8 ∧ fld w 17 5 = 0 ∧ fld w 25 1 = 0 then some (.qcfg (.mk (bf 3 w 22) (bf 5 w 12) (bf 6 w 6)))
      else none
  | 34 =>
      if fld w 0 12 = 0 ∧ fld w 17 5 = 0 ∧ fld w 25 1 = 0 then some (.lnchMe (.mk (bf 3 w 22) (bf 5 w 12)))
      else if fld w 0 12 = 1 ∧ fld w 17 5 = 0 ∧ fld w 25 1 = 0 then some (.lnchVe (.mk (bf 3 w 22) (bf 5 w 12)))
      else none
  | 35 =>
      if fld w 0 7 = 0 ∧ fld w 25 1 = 0 then some (.cpy (.mk (bf 3 w 22) (bf 5 w 17) (bf 5 w 12) (bf 5 w 7)))
      else none
  | 36 =>
      if fld w 0 7 = 0 ∧ fld w 12 5 = 0 ∧ fld w 25 1 = 0 then some (.spawnTake (.mk (bf 3 w 22) (bf 5 w 17) (bf 5 w 7)))
      else if fld w 0 7 = 0 ∧ fld w 25 1 = 0 then some (.spawn (.mk (bf 3 w 22) (bf 5 w 17) (bf 5 w 12) (bf 5 w 7)))
      else none
  | 37 =>
      if fld w 0 7 = 0 ∧ fld w 17 5 = 0 ∧ fld w 25 1 = 0 then some (.hstep (.mk (bf 3 w 22) (bf 5 w 12) (bf 5 w 7)))
      else if fld w 0 7 = 1 ∧ fld w 17 5 = 0 ∧ fld w 25 1 = 0 then some (.hwait (.mk (bf 3 w 22) (bf 5 w 12) (bf 5 w 7)))
      else if fld w 0 7 = 2 ∧ fld w 25 1 = 0 then some (.hqry (.mk (bf 3 w 22) (bf 5 w 17) (bf 5 w 12) (bf 5 w 7)))
      else none
  | _ => none

/-- A D-word: `none` where R51 or R89 makes it illegal. A word whose row has no Q must have bit 25 zero. -/
def decodeD (w : Nat) : Option Instr := keepWf (decodeDRaw w)

/-- An engine control word, template index 63 (R65), by its ECOP. -/
def decodeEcRaw (w : Nat) : Option Instr :=
  match fld w 20 6 with
  | 0 => if fld w 6 14 = 0 then some (.enop (efl w)) else none
  | 1 => if fld w 6 14 = 0 then some (.eend (efl w)) else none
  | 2 => if fld w 14 6 = 0 then some (.emark (.mk (bf 8 w 6) (efl w))) else none
  | 3 => if fld w 12 8 = 0 then some (.waitf (.mk (bf 6 w 6) (efl w))) else none
  | 4 => if fld w 12 8 = 0 then some (.waite (.mk (bf 6 w 6) (efl w))) else none
  | 5 => if fld w 12 8 = 0 then some (.setf (.mk (bf 6 w 6) (efl w))) else none
  | 6 => if fld w 12 8 = 0 then some (.sete (.mk (bf 6 w 6) (efl w))) else none
  | 7 => if fld w 12 8 = 0 then some (.qpope (.mk (bf 6 w 6) (efl w))) else none
  | 8 => if fld w 12 8 = 0 then some (.qpushe (.mk (bf 6 w 6) (efl w))) else none
  | 9 => some (.esem (.mk (bf 10 w 10) (bf 4 w 6) (efl w)))
  | 10 => if fld w 12 8 = 0 then some (.tpld (.mk (bf 6 w 6) (efl w))) else none
  | 11 => if fld w 13 7 = 0 then some (.lexit (.mk (bf 3 w 10) (bt w 9) (bf 3 w 6) (efl w))) else none
  | 12 => if fld w 6 14 = 0 then some (.efence (efl w)) else none
  | _ => none

/-- An engine control word: `none` where R65 makes it illegal. -/
def decodeEc (w : Nat) : Option Instr := if fld w 26 6 = 63 then keepWf (decodeEcRaw w) else none

/-- The fields of a 128-bit template (R63), with the flags of the issuing P-word. -/
def tplFields (t : Nat) (fl : EFlags) : EngW :=
  ⟨bf 8 t 112, bf 8 t 104, bf 8 t 96, bf 8 t 88, bf 3 t 85, bt t 84, bf 4 t 80, bf 3 t 77, bf 2 t 75, bf 8 t 64,
    bf 16 t 48, bf 16 t 32, bf 32 t 0, fl⟩

/-- A VE template by its OP (R69). VMBX is two rows: MOD[0] chooses (spec/07_vector.md R184). -/
def decodeVeRaw (t : Nat) (fl : EFlags) : Option Instr :=
  match fld t 120 8 with
  | 1 => some (.vadd (tplFields t fl))
  | 2 => some (.vsub (tplFields t fl))
  | 3 => some (.vmul (tplFields t fl))
  | 4 => some (.vfma (tplFields t fl))
  | 5 => some (.vfms (tplFields t fl))
  | 6 => some (.vfnma (tplFields t fl))
  | 7 => some (.vmin (tplFields t fl))
  | 8 => some (.vmax (tplFields t fl))
  | 9 => some (.vabs (tplFields t fl))
  | 10 => some (.vneg (tplFields t fl))
  | 11 => some (.vdiv (tplFields t fl))
  | 12 => some (.vsqrt (tplFields t fl))
  | 13 => some (.vrcp (tplFields t fl))
  | 14 => some (.vrsq (tplFields t fl))
  | 16 => some (.vand (tplFields t fl))
  | 17 => some (.vor (tplFields t fl))
  | 18 => some (.vxor (tplFields t fl))
  | 19 => some (.vshl (tplFields t fl))
  | 20 => some (.vshr (tplFields t fl))
  | 21 => some (.vsra (tplFields t fl))
  | 22 => some (.vmulh (tplFields t fl))
  | 24 => some (.vcmp (tplFields t fl))
  | 25 => some (.vsel (tplFields t fl))
  | 26 => some (.vclass (tplFields t fl))
  | 32 => some (.vcvt (tplFields t fl))
  | 33 => some (.vqmx (tplFields t fl))
  | 34 => some (.vdqmx (tplFields t fl))
  | 35 => some (.vpack (tplFields t fl))
  | 36 => some (.vunpk (tplFields t fl))
  | 40 => some (.vrsum (tplFields t fl))
  | 41 => some (.vrmax (tplFields t fl))
  | 42 => some (.vrmin (tplFields t fl))
  | 43 => some (.vscan (tplFields t fl))
  | 48 => some (.vperm (tplFields t fl))
  | 49 => some (.vbcast (tplFields t fl))
  | 50 => some (.vslide (tplFields t fl))
  | 51 => some (.vmov (tplFields t fl))
  | 52 => some (.vldi (tplFields t fl))
  | 56 => some (.vtint (tplFields t fl))
  | 57 => some (.vtld (tplFields t fl))
  | 64 => some (.vld (tplFields t fl))
  | 65 => some (.vst (tplFields t fl))
  | 66 => some (.vlds (tplFields t fl))
  | 67 => some (.vsts (tplFields t fl))
  | 68 => some (.vgath (tplFields t fl))
  | 69 => some (.vscat (tplFields t fl))
  | 70 => some (.vldt (tplFields t fl))
  | 71 => some (.vstt (tplFields t fl))
  | 72 => some (.vldg (tplFields t fl))
  | 73 => some (.vstg (tplFields t fl))
  | 80 => some (.vdefer (tplFields t fl))
  | 81 => some (.vdrain (tplFields t fl))
  | 82 => some (.vtqry (tplFields t fl))
  | 88 => some (.mand (tplFields t fl))
  | 89 => some (.mor (tplFields t fl))
  | 90 => some (.mxor (tplFields t fl))
  | 91 => some (.mnot (tplFields t fl))
  | 92 => some (.mpopc (tplFields t fl))
  | 96 => if bt t 64 then some (.vmbxWrite (tplFields t fl)) else some (.vmbxRead (tplFields t fl))
  | _ => none

/-- A patched VE template (R64): reserved bits [74:72] zero, then the field checks of its operation. -/
def decodeVe (t : Nat) (fl : EFlags) : Option Instr :=
  if fld t 72 3 = 0 then keepWf (decodeVeRaw t fl) else none

/-- An ME template by its OP (R70). -/
def decodeMeRaw (t : Nat) (fl : EFlags) : Option Instr :=
  match fld t 120 8 with
  | 1 => some (.mma (tplFields t fl))
  | 2 => some (.mdrn (tplFields t fl))
  | 3 => some (.mdrnp (tplFields t fl))
  | 4 => some (.macld (tplFields t fl))
  | 5 => some (.mclr (tplFields t fl))
  | 6 => some (.mcoma (tplFields t fl))
  | _ => none

/-- A patched ME template (R64, R70). -/
def decodeMe (t : Nat) (fl : EFlags) : Option Instr :=
  if fld t 72 3 = 0 then keepWf (decodeMeRaw t fl) else none

/-- The patch of a P-word's field select and value (R62): the patched template, or none where the value has a bit that
the table declares zero or the code is 15. -/
def patchTpl (t code v : Nat) : Option Nat :=
  let put (lo n x : Nat) : Nat := t - up (fld t lo n) lo + up (fld x 0 n) lo
  match code with
  | 0 => if v = 0 then some t else none
  | 1 => if v < 2^8 then some (put 112 8 v) else none
  | 2 => if v < 2^8 then some (put 104 8 v) else none
  | 3 => if v < 2^8 then some (put 96 8 v) else none
  | 4 => if v < 2^8 then some (put 88 8 v) else none
  | 5 => if v < 2^4 then some (put 84 4 (v % 8 * 2 + v / 8)) else none
  | 6 => if v < 2^9 then some (put 75 9 v) else none
  | 7 => if v < 2^8 then some (put 64 8 v) else none
  | 8 => some (put 48 16 v)
  | 9 => some (put 32 16 v)
  | 10 => some (put 0 16 v)
  | 11 => some (put 16 16 v)
  | 12 => some (put 0 29 (fld t 0 29 + (if v < 2^15 then v else v + 2^29 - 2^16)))
  | 13 => some (put 48 16 (fld t 48 16 + v))
  | 14 => some (put 32 16 (fld t 32 16 + v))
  | _ => none

/-- A Grailo op by its OPC (spec/16_launch.md R357). -/
def decodeGrRaw (w : Nat) : Option Instr :=
  match fld w 26 6 with
  | 0 => if fld w 0 26 = 0 then some (.grailoEnd) else none
  | 1 => if fld w 0 14 = 0 then some (.grailoAdd (.mk (bf 4 w 22) (bf 4 w 18) (bf 4 w 14))) else none
  | 2 => if fld w 0 14 = 0 then some (.grailoSub (.mk (bf 4 w 22) (bf 4 w 18) (bf 4 w 14))) else none
  | 3 => if fld w 0 14 = 0 then some (.grailoAnd (.mk (bf 4 w 22) (bf 4 w 18) (bf 4 w 14))) else none
  | 4 => if fld w 0 14 = 0 then some (.grailoOr (.mk (bf 4 w 22) (bf 4 w 18) (bf 4 w 14))) else none
  | 5 => if fld w 0 14 = 0 then some (.grailoXor (.mk (bf 4 w 22) (bf 4 w 18) (bf 4 w 14))) else none
  | 6 => if fld w 14 4 = 0 then some (.grailoAddi (.mk (bf 4 w 22) (bf 4 w 18) (bf 14 w 0))) else none
  | 7 => if fld w 6 12 = 0 then some (.grailoShli (.mk (bf 4 w 22) (bf 4 w 18) (bf 6 w 0))) else none
  | 8 => if fld w 6 12 = 0 then some (.grailoShri (.mk (bf 4 w 22) (bf 4 w 18) (bf 6 w 0))) else none
  | 9 => if fld w 14 8 = 0 then some (.grLdk (.mk (bf 4 w 22) (bf 14 w 0))) else none
  | 10 => if fld w 16 2 = 0 then some (.grLdm (.mk (bf 4 w 22) (bf 4 w 18) (bf 2 w 14) (bf 14 w 0))) else none
  | 11 => if fld w 16 2 = 0 then some (.grStm (.mk (bf 4 w 22) (bf 4 w 18) (bf 2 w 14) (bf 14 w 0))) else none
  | 12 => if fld w 14 4 = 0 ∧ fld w 22 4 = 0 then some (.grBrz (.mk (bf 4 w 18) (bf 14 w 0))) else none
  | 13 => if fld w 14 4 = 0 ∧ fld w 22 4 = 0 then some (.grBrnz (.mk (bf 4 w 18) (bf 14 w 0))) else none
  | 14 => if fld w 14 4 = 0 ∧ fld w 22 4 = 0 then some (.grLoop (.mk (bf 4 w 18) (bf 6 w 8) (bf 8 w 0))) else none
  | 15 => if fld w 0 18 = 0 then some (.grEmit (.mk (bf 4 w 22) (bf 4 w 18))) else none
  | 16 => if fld w 14 12 = 0 then some (.grFault (.mk (bf 14 w 0))) else none
  | _ => none

/-- A Grailo op: `none` where the load-time checks of R358 on one op refuse it. -/
def decodeGr (w : Nat) : Option Instr := keepWf (decodeGrRaw w)

/-- The bits of the table's row number `w`, given to the decoder of the stream that runs such words: D-words and engine
control words first, Grailo ops where neither of them is legal, templates at 128 bits (VE before ME). -/
def decodeTableWord (nbits w : Nat) : Option Instr :=
  let z : EFlags := ⟨false, 0, false, false⟩
  if nbits ≤ 32 then
    (decodeD w).orElse fun _ => (decodeEc w).orElse fun _ => decodeGr w
  else (decodeVe w z).orElse fun _ => decodeMe w z

/-! The encoder, from the same tables: the number of bits and the bits of a word, none for an event. -/

/-- A template's bits with operation code `op` (R63). -/
def tplBits (op : Nat) (w : EngW) : Nat :=
  up op 120 + up w.d.toNat 112 + up w.a.toNat 104 + up w.b.toNat 96 + up w.c.toNat 88 + up w.m.toNat 85
    + up w.neg.toNat 84 + up w.fmt.toNat 80 + up w.rnd.toNat 77 + up w.ovf.toNat 75 + up w.mod.toNat 64
    + up w.immA.toNat 48 + up w.immB.toNat 32 + w.addr.toNat

/-- The operand bits of G3. -/
def bitsG3 (w : G3) : Nat := up w.q.toNat 25 + up w.st.toNat 22 + up w.d.toNat 17 + up w.a.toNat 12 + up w.b.toNat 7
/-- The operand bits of G2. -/
def bitsG2 (w : G2) : Nat := up w.q.toNat 25 + up w.st.toNat 22 + up w.d.toNat 17 + up w.a.toNat 12
/-- The operand bits of RiW. -/
def bitsRiW (w : RiW) : Nat := up w.q.toNat 25 + up w.st.toNat 22 + up w.d.toNat 17 + up w.a.toNat 12 + w.i.toNat
/-- The operand bits of ShW. -/
def bitsShW (w : ShW) : Nat := up w.q.toNat 25 + up w.st.toNat 22 + up w.d.toNat 17 + up w.a.toNat 12 + w.n.toNat
/-- The operand bits of RlW. -/
def bitsRlW (w : RlW) : Nat := up w.q.toNat 25 + up w.st.toNat 22 + up w.d.toNat 17 + w.i.toNat
/-- The operand bits of LdhiW. -/
def bitsLdhiW (w : LdhiW) : Nat := up w.q.toNat 25 + up w.st.toNat 22 + up w.d.toNat 17 + w.i.toNat
/-- The operand bits of CmpW. -/
def bitsCmpW (w : CmpW) : Nat := up w.q.toNat 25 + up w.st.toNat 22 + up w.p.toNat 19 + up w.c.toNat 17 + up w.a.toNat 12 + up w.b.toNat 7 + up w.n.toNat 4
/-- The operand bits of CmpiW. -/
def bitsCmpiW (w : CmpiW) : Nat := up w.q.toNat 25 + up w.st.toNat 22 + up w.p.toNat 19 + up w.c.toNat 17 + up w.a.toNat 12 + up w.n.toNat 9 + w.i.toNat
/-- The operand bits of PlW. -/
def bitsPlW (w : PlW) : Nat := up w.q.toNat 25 + up w.st.toNat 22 + up w.d.toNat 19 + up w.a.toNat 16 + up w.b.toNat 13
/-- The operand bits of PsetW. -/
def bitsPsetW (w : PsetW) : Nat := up w.q.toNat 25 + up w.st.toNat 22 + up w.a.toNat 12
/-- The operand bits of PgetW. -/
def bitsPgetW (w : PgetW) : Nat := up w.q.toNat 25 + up w.st.toNat 22 + up w.d.toNat 17
/-- The operand bits of SelW. -/
def bitsSelW (w : SelW) : Nat := up w.q.toNat 25 + up w.st.toNat 22 + up w.d.toNat 17 + up w.a.toNat 12 + up w.b.toNat 7 + up w.p.toNat 4
/-- The operand bits of MfcW. -/
def bitsMfcW (w : MfcW) : Nat := up w.q.toNat 25 + up w.st.toNat 22 + up w.d.toNat 17 + w.c.toNat
/-- The operand bits of MtcW. -/
def bitsMtcW (w : MtcW) : Nat := up w.st.toNat 22 + up w.a.toNat 12 + w.c.toNat
/-- The operand bits of LdW. -/
def bitsLdW (w : LdW) : Nat := up w.q.toNat 25 + up w.st.toNat 22 + up w.d.toNat 17 + up w.a.toNat 12 + up w.z.toNat 10 + up w.o.toNat 8 + up w.x.toNat 7 + w.i.toNat
/-- The operand bits of StW. -/
def bitsStW (w : StW) : Nat := up w.st.toNat 22 + up w.t.toNat 17 + up w.a.toNat 12 + up w.z.toNat 10 + up w.o.toNat 8 + w.i.toNat
/-- The operand bits of LdxW. -/
def bitsLdxW (w : LdxW) : Nat := up w.q.toNat 25 + up w.st.toNat 22 + up w.d.toNat 17 + up w.a.toNat 12 + up w.b.toNat 7 + up w.x.toNat 4 + up w.o.toNat 2 + w.z.toNat
/-- The operand bits of StxW. -/
def bitsStxW (w : StxW) : Nat := up w.st.toNat 22 + up w.t.toNat 17 + up w.a.toNat 12 + up w.b.toNat 7 + up w.o.toNat 2 + w.z.toNat
/-- The operand bits of LdgW. -/
def bitsLdgW (w : LdgW) : Nat := up w.q.toNat 25 + up w.st.toNat 22 + up w.d.toNat 17 + up w.a.toNat 12 + up w.b.toNat 7 + w.z.toNat
/-- The operand bits of AtomW. -/
def bitsAtomW (w : AtomW) : Nat := up w.st.toNat 22 + up w.d.toNat 17 + up w.a.toNat 12 + up w.b.toNat 7 + w.e.toNat
/-- The operand bits of PrefW. -/
def bitsPrefW (w : PrefW) : Nat := up w.st.toNat 22 + up w.a.toNat 12 + up w.z.toNat 10 + w.i.toNat
/-- The operand bits of D3W. -/
def bitsD3W (w : D3W) : Nat := up w.st.toNat 22 + up w.d.toNat 17 + up w.a.toNat 12 + up w.b.toNat 7
/-- The operand bits of BrW. -/
def bitsBrW (w : BrW) : Nat := up w.st.toNat 22 + up w.p.toNat 19 + up w.n.toNat 18 + w.i.toNat
/-- The operand bits of JW. -/
def bitsJW (w : JW) : Nat := up w.st.toNat 22 + w.i.toNat
/-- The operand bits of A1W. -/
def bitsA1W (w : A1W) : Nat := up w.st.toNat 22 + up w.a.toNat 12
/-- The operand bits of A2W. -/
def bitsA2W (w : A2W) : Nat := up w.st.toNat 22 + up w.a.toNat 12 + up w.b.toNat 7
/-- The operand bits of D2W. -/
def bitsD2W (w : D2W) : Nat := up w.st.toNat 22 + up w.d.toNat 17 + up w.a.toNat 12
/-- The operand bits of TileDW. -/
def bitsTileDW (w : TileDW) : Nat := up w.st.toNat 22 + up w.d.toNat 17 + up w.i.toNat 6
/-- The operand bits of TileFW. -/
def bitsTileFW (w : TileFW) : Nat := up w.st.toNat 22 + up w.d.toNat 17 + up w.a.toNat 12 + up w.i.toNat 6
/-- The operand bits of TileIW. -/
def bitsTileIW (w : TileIW) : Nat := up w.st.toNat 22 + up w.i.toNat 6
/-- The operand bits of QcfgW. -/
def bitsQcfgW (w : QcfgW) : Nat := up w.st.toNat 22 + up w.a.toNat 12 + up w.i.toNat 6
/-- The operand bits of TakeW. -/
def bitsTakeW (w : TakeW) : Nat := up w.st.toNat 22 + up w.d.toNat 17 + up w.b.toNat 7
/-- The operand bits of S0W. -/
def bitsS0W (w : S0W) : Nat := up w.st.toNat 22
/-- The operand bits of SevW. -/
def bitsSevW (w : SevW) : Nat := up w.st.toNat 22 + w.m.toNat
/-- The operand bits of ImmW. -/
def bitsImmW (w : ImmW) : Nat := up w.st.toNat 22 + w.i.toNat
/-- The operand bits of FenceW. -/
def bitsFenceW (w : FenceW) : Nat := up w.st.toNat 22 + up w.e.toNat 4
/-- The operand bits of TlbW. -/
def bitsTlbW (w : TlbW) : Nat := up w.st.toNat 22 + w.r.toNat
/-- The operand bits of CacheW. -/
def bitsCacheW (w : CacheW) : Nat := up w.st.toNat 22 + up w.r.toNat 6 + up w.l.toNat 4
/-- The operand bits of CacheAllW. -/
def bitsCacheAllW (w : CacheAllW) : Nat := up w.st.toNat 22 + up w.l.toNat 4
/-- The operand bits of EFlags. -/
def bitsEFlags (w : EFlags) : Nat := up w.q.toNat 5 + up w.st.toNat 2 + up w.f.toNat 1 + w.l.toNat
/-- The operand bits of EmarkW. -/
def bitsEmarkW (w : EmarkW) : Nat := up w.m.toNat 6 + up w.fl.q.toNat 5 + up w.fl.st.toNat 2 + up w.fl.f.toNat 1 + w.fl.l.toNat
/-- The operand bits of EIdW. -/
def bitsEIdW (w : EIdW) : Nat := up w.i.toNat 6 + up w.fl.q.toNat 5 + up w.fl.st.toNat 2 + up w.fl.f.toNat 1 + w.fl.l.toNat
/-- The operand bits of EsemW. -/
def bitsEsemW (w : EsemW) : Nat := up w.d.toNat 10 + up w.e.toNat 6 + up w.fl.q.toNat 5 + up w.fl.st.toNat 2 + up w.fl.f.toNat 1 + w.fl.l.toNat
/-- The operand bits of TpldW. -/
def bitsTpldW (w : TpldW) : Nat := up w.e.toNat 6 + up w.fl.q.toNat 5 + up w.fl.st.toNat 2 + up w.fl.f.toNat 1 + w.fl.l.toNat
/-- The operand bits of LexitW. -/
def bitsLexitW (w : LexitW) : Nat := up w.m.toNat 10 + up w.y.toNat 9 + up w.v.toNat 6 + up w.fl.q.toNat 5 + up w.fl.st.toNat 2 + up w.fl.f.toNat 1 + w.fl.l.toNat
/-- The operand bits of GrW. -/
def bitsGrW (w : GrW) : Nat := up w.d.toNat 22 + up w.a.toNat 18 + up w.b.toNat 14
/-- The operand bits of GrIW. -/
def bitsGrIW (w : GrIW) : Nat := up w.d.toNat 22 + up w.a.toNat 18 + w.i.toNat
/-- The operand bits of GrSW. -/
def bitsGrSW (w : GrSW) : Nat := up w.d.toNat 22 + up w.a.toNat 18 + w.n.toNat
/-- The operand bits of GrKW. -/
def bitsGrKW (w : GrKW) : Nat := up w.d.toNat 22 + w.i.toNat
/-- The operand bits of GrMW. -/
def bitsGrMW (w : GrMW) : Nat := up w.d.toNat 22 + up w.a.toNat 18 + up w.w.toNat 14 + w.i.toNat
/-- The operand bits of GrBW. -/
def bitsGrBW (w : GrBW) : Nat := up w.a.toNat 18 + w.n.toNat
/-- The operand bits of GrLW. -/
def bitsGrLW (w : GrLW) : Nat := up w.a.toNat 18 + up w.l.toNat 8 + w.u.toNat
/-- The operand bits of GrEW. -/
def bitsGrEW (w : GrEW) : Nat := up w.d.toNat 22 + up w.a.toNat 18
/-- The operand bits of GrFW. -/
def bitsGrFW (w : GrFW) : Nat := w.i.toNat

/-- The words of an instruction: (bits, value). -/
def encode : Instr → Option (Nat × Nat)
  | .add w => some (32, 0x04000000 + bitsG3 w)
  | .sub w => some (32, 0x04000001 + bitsG3 w)
  | .and w => some (32, 0x04000002 + bitsG3 w)
  | .or w => some (32, 0x04000003 + bitsG3 w)
  | .xor w => some (32, 0x04000004 + bitsG3 w)
  | .andn w => some (32, 0x04000005 + bitsG3 w)
  | .shl w => some (32, 0x04000006 + bitsG3 w)
  | .shr w => some (32, 0x04000007 + bitsG3 w)
  | .sra w => some (32, 0x04000008 + bitsG3 w)
  | .rol w => some (32, 0x04000009 + bitsG3 w)
  | .mul w => some (32, 0x0400000A + bitsG3 w)
  | .mulh w => some (32, 0x0400000B + bitsG3 w)
  | .mulhu w => some (32, 0x0400000C + bitsG3 w)
  | .madd w => some (32, 0x0400000D + bitsG3 w)
  | .div w => some (32, 0x0400000E + bitsG3 w)
  | .divu w => some (32, 0x0400000F + bitsG3 w)
  | .rem w => some (32, 0x04000010 + bitsG3 w)
  | .remu w => some (32, 0x04000011 + bitsG3 w)
  | .min w => some (32, 0x04000012 + bitsG3 w)
  | .max w => some (32, 0x04000013 + bitsG3 w)
  | .minu w => some (32, 0x04000014 + bitsG3 w)
  | .maxu w => some (32, 0x04000015 + bitsG3 w)
  | .clz w => some (32, 0x04000016 + bitsG2 w)
  | .ctz w => some (32, 0x04000017 + bitsG2 w)
  | .popc w => some (32, 0x04000018 + bitsG2 w)
  | .sext w => some (32, 0x04000019 + bitsG3 w)
  | .zext w => some (32, 0x0400001A + bitsG3 w)
  | .bswap w => some (32, 0x0400001B + bitsG2 w)
  | .addi w => some (32, 0x08000000 + bitsRiW w)
  | .andi w => some (32, 0x0C000000 + bitsRiW w)
  | .ori w => some (32, 0x10000000 + bitsRiW w)
  | .xori w => some (32, 0x14000000 + bitsRiW w)
  | .shli w => some (32, 0x18000000 + bitsShW w)
  | .shri w => some (32, 0x18000400 + bitsShW w)
  | .srai w => some (32, 0x18000800 + bitsShW w)
  | .roli w => some (32, 0x18000C00 + bitsShW w)
  | .muli w => some (32, 0x1C000000 + bitsRiW w)
  | .ldi w => some (32, 0x20000000 + bitsRlW w)
  | .ldhi w => some (32, 0x24000000 + bitsLdhiW w)
  | .cmp w => some (32, 0x28000000 + bitsCmpW w)
  | .cmpi w => some (32, 0x2C000000 + bitsCmpiW w)
  | .plogAnd w => some (32, 0x30000000 + bitsPlW w)
  | .plogOr w => some (32, 0x30000400 + bitsPlW w)
  | .plogXor w => some (32, 0x30000800 + bitsPlW w)
  | .plogAndn w => some (32, 0x30000C00 + bitsPlW w)
  | .plogOrn w => some (32, 0x30001000 + bitsPlW w)
  | .plogNand w => some (32, 0x30001400 + bitsPlW w)
  | .plogNor w => some (32, 0x30001800 + bitsPlW w)
  | .plogXnor w => some (32, 0x30001C00 + bitsPlW w)
  | .pset w => some (32, 0x34000000 + bitsPsetW w)
  | .pget w => some (32, 0x34000001 + bitsPgetW w)
  | .sel w => some (32, 0x38000000 + bitsSelW w)
  | .mfc w => some (32, 0x3C000000 + bitsMfcW w)
  | .mtc w => some (32, 0x40000000 + bitsMtcW w)
  | .ld w => some (32, 0x44000000 + bitsLdW w)
  | .st w => some (32, 0x48000000 + bitsStW w)
  | .ldx w => some (32, 0x4C000000 + bitsLdxW w)
  | .stx w => some (32, 0x50000000 + bitsStxW w)
  | .ldg w => some (32, 0x54000000 + bitsLdgW w)
  | .atomAdd w => some (32, 0x58000000 + bitsAtomW w)
  | .atomAnd w => some (32, 0x58000008 + bitsAtomW w)
  | .atomOr w => some (32, 0x58000010 + bitsAtomW w)
  | .atomXor w => some (32, 0x58000018 + bitsAtomW w)
  | .atomMin w => some (32, 0x58000020 + bitsAtomW w)
  | .atomMax w => some (32, 0x58000028 + bitsAtomW w)
  | .atomMinu w => some (32, 0x58000030 + bitsAtomW w)
  | .atomMaxu w => some (32, 0x58000038 + bitsAtomW w)
  | .atomSwap w => some (32, 0x58000040 + bitsAtomW w)
  | .atomCas w => some (32, 0x58000048 + bitsAtomW w)
  | .pref w => some (32, 0x5C000000 + bitsPrefW w)
  | .bpref w => some (32, 0x60000000 + bitsD3W w)
  | .br w => some (32, 0x64000000 + bitsBrW w)
  | .jmp w => some (32, 0x68000000 + bitsJW w)
  | .call w => some (32, 0x6C000000 + bitsJW w)
  | .jmpr w => some (32, 0x70000000 + bitsA1W w)
  | .callr w => some (32, 0x74000000 + bitsA1W w)
  | .semAdd w => some (32, 0x78000000 + bitsA2W w)
  | .semWait w => some (32, 0x78000001 + bitsA2W w)
  | .semTry w => some (32, 0x78000002 + bitsD3W w)
  | .semRd w => some (32, 0x78000003 + bitsD2W w)
  | .semSet w => some (32, 0x78000004 + bitsA2W w)
  | .sig w => some (32, 0x7C000000 + bitsA2W w)
  | .barArr w => some (32, 0x80000000 + bitsD3W w)
  | .barWait w => some (32, 0x80000001 + bitsA2W w)
  | .tbarArr w => some (32, 0x80000002 + bitsD2W w)
  | .tbarExp w => some (32, 0x80000003 + bitsA2W w)
  | .tbarWait w => some (32, 0x80000004 + bitsD3W w)
  | .twaitf w => some (32, 0x84000000 + bitsTileDW w)
  | .twaite w => some (32, 0x84000001 + bitsTileDW w)
  | .tsetf w => some (32, 0x84000002 + bitsTileFW w)
  | .tsete w => some (32, 0x84000003 + bitsTileIW w)
  | .qwaitf w => some (32, 0x84000004 + bitsTileDW w)
  | .qwaite w => some (32, 0x84000005 + bitsTileDW w)
  | .qpush w => some (32, 0x84000006 + bitsTileFW w)
  | .qpop w => some (32, 0x84000007 + bitsTileIW w)
  | .qcfg w => some (32, 0x84000008 + bitsQcfgW w)
  | .lnchMe w => some (32, 0x88000000 + bitsA1W w)
  | .lnchVe w => some (32, 0x88000001 + bitsA1W w)
  | .cpy w => some (32, 0x8C000000 + bitsD3W w)
  | .spawn w => some (32, 0x90000000 + bitsD3W w)
  | .spawnTake w => some (32, 0x90000000 + bitsTakeW w)
  | .hstep w => some (32, 0x94000000 + bitsA2W w)
  | .hwait w => some (32, 0x94000001 + bitsA2W w)
  | .hqry w => some (32, 0x94000002 + bitsD3W w)
  | .nop w => some (32, 0x00000000 + bitsS0W w)
  | .exit w => some (32, 0x00010000 + bitsS0W w)
  | .yield w => some (32, 0x00020000 + bitsS0W w)
  | .mark w => some (32, 0x00030000 + bitsS0W w)
  | .wfe w => some (32, 0x00040000 + bitsS0W w)
  | .sev w => some (32, 0x00050000 + bitsSevW w)
  | .trapWord w => some (32, 0x00060000 + bitsImmW w)
  | .eret w => some (32, 0x00070000 + bitsS0W w)
  | .uiret w => some (32, 0x00080000 + bitsS0W w)
  | .ret w => some (32, 0x00090000 + bitsS0W w)
  | .fenceFull w => some (32, 0x000A0000 + bitsFenceW w)
  | .fenceAcq w => some (32, 0x000A0001 + bitsFenceW w)
  | .fenceRel w => some (32, 0x000A0002 + bitsFenceW w)
  | .fenceEng w => some (32, 0x000A0003 + bitsFenceW w)
  | .bkpt w => some (32, 0x000B0000 + bitsImmW w)
  | .tlbinv w => some (32, 0x000C0000 + bitsTlbW w)
  | .cacheInv w => some (32, 0x000D0000 + bitsCacheW w)
  | .cacheClean w => some (32, 0x000D0001 + bitsCacheW w)
  | .cacheFlush w => some (32, 0x000D0002 + bitsCacheW w)
  | .cacheInvall w => some (32, 0x000D0003 + bitsCacheAllW w)
  | .cacheCleanall w => some (32, 0x000D0004 + bitsCacheAllW w)
  | .enop w => some (32, 0xFC000000 + bitsEFlags w)
  | .eend w => some (32, 0xFC100000 + bitsEFlags w)
  | .emark w => some (32, 0xFC200000 + bitsEmarkW w)
  | .waitf w => some (32, 0xFC300000 + bitsEIdW w)
  | .waite w => some (32, 0xFC400000 + bitsEIdW w)
  | .setf w => some (32, 0xFC500000 + bitsEIdW w)
  | .sete w => some (32, 0xFC600000 + bitsEIdW w)
  | .qpope w => some (32, 0xFC700000 + bitsEIdW w)
  | .qpushe w => some (32, 0xFC800000 + bitsEIdW w)
  | .esem w => some (32, 0xFC900000 + bitsEsemW w)
  | .tpld w => some (32, 0xFCA00000 + bitsTpldW w)
  | .lexit w => some (32, 0xFCB00000 + bitsLexitW w)
  | .efence w => some (32, 0xFCC00000 + bitsEFlags w)
  | .vadd w => some (128, tplBits 1 w)
  | .vsub w => some (128, tplBits 2 w)
  | .vmul w => some (128, tplBits 3 w)
  | .vfma w => some (128, tplBits 4 w)
  | .vfms w => some (128, tplBits 5 w)
  | .vfnma w => some (128, tplBits 6 w)
  | .vmin w => some (128, tplBits 7 w)
  | .vmax w => some (128, tplBits 8 w)
  | .vabs w => some (128, tplBits 9 w)
  | .vneg w => some (128, tplBits 10 w)
  | .vdiv w => some (128, tplBits 11 w)
  | .vsqrt w => some (128, tplBits 12 w)
  | .vrcp w => some (128, tplBits 13 w)
  | .vrsq w => some (128, tplBits 14 w)
  | .vand w => some (128, tplBits 16 w)
  | .vor w => some (128, tplBits 17 w)
  | .vxor w => some (128, tplBits 18 w)
  | .vshl w => some (128, tplBits 19 w)
  | .vshr w => some (128, tplBits 20 w)
  | .vsra w => some (128, tplBits 21 w)
  | .vmulh w => some (128, tplBits 22 w)
  | .vcmp w => some (128, tplBits 24 w)
  | .vsel w => some (128, tplBits 25 w)
  | .vclass w => some (128, tplBits 26 w)
  | .vcvt w => some (128, tplBits 32 w)
  | .vqmx w => some (128, tplBits 33 w)
  | .vdqmx w => some (128, tplBits 34 w)
  | .vpack w => some (128, tplBits 35 w)
  | .vunpk w => some (128, tplBits 36 w)
  | .vrsum w => some (128, tplBits 40 w)
  | .vrmax w => some (128, tplBits 41 w)
  | .vrmin w => some (128, tplBits 42 w)
  | .vscan w => some (128, tplBits 43 w)
  | .vperm w => some (128, tplBits 48 w)
  | .vbcast w => some (128, tplBits 49 w)
  | .vslide w => some (128, tplBits 50 w)
  | .vmov w => some (128, tplBits 51 w)
  | .vldi w => some (128, tplBits 52 w)
  | .vtint w => some (128, tplBits 56 w)
  | .vtld w => some (128, tplBits 57 w)
  | .vld w => some (128, tplBits 64 w)
  | .vst w => some (128, tplBits 65 w)
  | .vlds w => some (128, tplBits 66 w)
  | .vsts w => some (128, tplBits 67 w)
  | .vgath w => some (128, tplBits 68 w)
  | .vscat w => some (128, tplBits 69 w)
  | .vldt w => some (128, tplBits 70 w)
  | .vstt w => some (128, tplBits 71 w)
  | .vldg w => some (128, tplBits 72 w)
  | .vstg w => some (128, tplBits 73 w)
  | .vdefer w => some (128, tplBits 80 w)
  | .vdrain w => some (128, tplBits 81 w)
  | .vtqry w => some (128, tplBits 82 w)
  | .mand w => some (128, tplBits 88 w)
  | .mor w => some (128, tplBits 89 w)
  | .mxor w => some (128, tplBits 90 w)
  | .mnot w => some (128, tplBits 91 w)
  | .mpopc w => some (128, tplBits 92 w)
  | .vmbxRead w => some (128, tplBits 96 w)
  | .vmbxWrite w => some (128, tplBits 96 w)
  | .mma w => some (128, tplBits 1 w)
  | .mdrn w => some (128, tplBits 2 w)
  | .mdrnp w => some (128, tplBits 3 w)
  | .macld w => some (128, tplBits 4 w)
  | .mclr w => some (128, tplBits 5 w)
  | .mcoma w => some (128, tplBits 6 w)
  | .grailoEnd => some (32, 0x00000000)
  | .grailoAdd w => some (32, 0x04000000 + bitsGrW w)
  | .grailoSub w => some (32, 0x08000000 + bitsGrW w)
  | .grailoAnd w => some (32, 0x0C000000 + bitsGrW w)
  | .grailoOr w => some (32, 0x10000000 + bitsGrW w)
  | .grailoXor w => some (32, 0x14000000 + bitsGrW w)
  | .grailoAddi w => some (32, 0x18000000 + bitsGrIW w)
  | .grailoShli w => some (32, 0x1C000000 + bitsGrSW w)
  | .grailoShri w => some (32, 0x20000000 + bitsGrSW w)
  | .grLdk w => some (32, 0x24000000 + bitsGrKW w)
  | .grLdm w => some (32, 0x28000000 + bitsGrMW w)
  | .grStm w => some (32, 0x2C000000 + bitsGrMW w)
  | .grBrz w => some (32, 0x30000000 + bitsGrBW w)
  | .grBrnz w => some (32, 0x34000000 + bitsGrBW w)
  | .grLoop w => some (32, 0x38000000 + bitsGrLW w)
  | .grEmit w => some (32, 0x3C000000 + bitsGrEW w)
  | .grFault w => some (32, 0x40000000 + bitsGrFW w)
  | .landing _ => none
  | .shutterPublish _ => none
  | .selChange _ => none
  | .publishAck _ => none
  | .logResponse _ => none
  | .bprefComplete _ => none
  | .sigApply _ => none
  | .hssEngineUpdate _ => none
  | .knock _ => none
  | .packageRecovery _ => none
  | .flitTransmit _ => none
  | .relayForward _ => none
  | .msixModeration _ => none
  | .budgetPeriodEnd _ => none
  | .remoteRequest _ => none
  | .remoteResponse _ => none
  | .endToEndArrival _ => none
  | .mbdoor _ => none
  | .resultWritten => none
  | .kStep => none
  | .rowFold => none
  | .commit => none
  | .macldRow => none
  | .launchStart => none
  | .levelEntry => none
  | .iterationMark => none
  | .launchEnd => none
  | .engf => none
  | .acceptance => none
  | .automaticMark => none
  | .budgetTrap => none
  | .scyStopat => none
  | .watchdog => none
  | .parityAlarm => none
  | .protocolAlarm => none
  | .eclipse => none
  | .rotationEclipse => none
  | .coreReset => none
  | .dieReset => none
  | .powerOnReset => none
  | .ceLin => none
  | .ceBox => none
  | .ceCvt => none
  | .ceWin => none
  | .ceFill => none
  | .cePublish => none
  | .pfonly => none
  | .sectorGroupMark => none
  | .packetCompletion => none
  | .slotWaitTimeout => none
  | .queueScan => none
  | .allred => none
  | .redscat => none
  | .allgath => none
  | .bcast => none
  | .all2all => none
  | .partialArrival => none
  | .collectiveCompletion => none
  | .faceFill => none
  | .stripLanding => none
  | .gridLoadTimeout => none
  | .knockScan => none
  | .reconcilePass => none
  | .cpSlice => none
  | .cpGraph => none
  | .waitHss => none
  | .waitMemory => none
  | .signalHss => none
  | .signalMemory => none
  | .cpChain => none
  | .launchNop => none
  | .cpCustom => none
  | .memoryWaitReread => none
  | .sliceHandover => none
  | .crewBind => none
  | .quantumExpiry => none
  | .budgetExhausted => none
  | .sliceComplete => none
  | .pcreate => none
  | .pdestroy => none
  | .importBlob => none
  | .attest => none
  | .manifest => none
  | .progreg => none
  | .debugCmd => none
  | .hssread => none
  | .fwload => none
  | .recover => none
  | .unknownCommand => none
  | .traceRecordWrite => none
  | .requestAcknowledged => none
  | .pageWalk _ => none
  | .fqretRetire _ => none
  | .fqretFail _ => none
  | .hostRequest _ => none
  | .cxlMemAccess _ => none
  | .hssScrub _ => none
  | .spScrub _ => none
  | .conjunctionBoundary _ => none
  | .conjunctionHeader _ => none
  | .flitReceive _ => none
  | .linkNak _ => none
  | .lossOfLight _ => none
  | .restripeMarker _ => none
  | .bankRetired _ => none
  | .portLive _ => none
  | .bindRecord _ => none
  | .bindExtend _ => none
  | .bindCancel _ => none
  | .eqhead _ => none
  | .powerCompare _ => none
  | .pwrcap _ => none
  | .i3cRequest _ => none
  | .fetchBlockFill _ => none
  | .peeridWrite _ => none
  | .shutterEntryWrite _ => none
  | .queueRegistration _ => none
  | .hostSnoop _ => none
  | .tdispRequest _ => none
  | .bar0Write _ => none

end Sys2Proof
end

