-- ==== Sys2Proof/Machine/Bits.lean ====
section
/-! DEFINITION. Sparse tables, byte storage in canonical form, and the bit-field, sign-extension and byte-order helpers
of the machine. -/

namespace Sys2Proof.Machine

/-! Sparse tables. -/

/-- The entry of `t` at `k`, or `d`. -/
def tget {α : Type} (t : Tab α) (k : Nat) (d : α) : α :=
  match t with
  | [] => d
  | (a, x) :: r => if a = k then x else tget r k d

/-- The entry of `t` at `k`, if it has one. -/
def tget? {α : Type} (t : Tab α) (k : Nat) : Option α :=
  match t with
  | [] => none
  | (a, x) :: r => if a = k then some x else tget? r k

/-- `t` with entry `k` set to `v`; the keys of a sorted table stay sorted. -/
def tput {α : Type} (t : Tab α) (k : Nat) (v : α) : Tab α :=
  match t with
  | [] => [(k, v)]
  | (a, x) :: r => if k < a then (k, v) :: (a, x) :: r else if k = a then (k, v) :: r else (a, x) :: tput r k v

/-- `t` without entry `k`. -/
def tdel {α : Type} (t : Tab α) (k : Nat) : Tab α := t.filter fun e => e.1 != k

/-- The element of a list at `n`, or `d`. -/
def nth {α : Type} (l : List α) (n : Nat) (d : α) : α :=
  match l, n with
  | [], _ => d
  | x :: _, 0 => x
  | _ :: r, n + 1 => nth r n d

/-- A list with element `n` replaced; unchanged past its end. -/
def setNth {α : Type} (l : List α) (n : Nat) (v : α) : List α :=
  match l, n with
  | [], _ => []
  | _ :: r, 0 => v :: r
  | x :: r, n + 1 => x :: setNth r n v

/-- k, k + 1, …, k + n - 1. -/
def countUp (n k : Nat) : List Nat :=
  match n with
  | 0 => []
  | n + 1 => k :: countUp n (k + 1)

/-- 0, 1, …, n - 1. -/
def upto (n : Nat) : List Nat := countUp n 0

/-! Byte storage: strictly rising keys, no entry equal to zero, the value an unlisted key reads as
(spec/06_scratchpad.md R139). -/

/-- The byte at a key. -/
def bget (m : List Host.Cell) (k : Nat) : Byte :=
  match m with
  | [] => 0
  | (a, x) :: r => if a = k then x else bget r k

/-- Storage with key `k` absent. -/
def bdel (m : List Host.Cell) (k : Nat) : List Host.Cell := m.filter fun e => e.1 != k

/-- Storage with the nonzero byte `v` at key `k`. -/
def bins (m : List Host.Cell) (k : Nat) (v : Byte) : List Host.Cell :=
  match m with
  | [] => [(k, v)]
  | (a, x) :: r => if k < a then (k, v) :: (a, x) :: r else if k = a then (k, v) :: r else (a, x) :: bins r k v

/-- Write one byte, keeping the canonical form. -/
def bput (m : List Host.Cell) (k : Nat) (v : Byte) : List Host.Cell := if v = 0 then bdel m k else bins m k v

/-- Every key lies above `lo`, keys rise strictly, and no byte listed is zero. -/
def wfAbove (lo : Nat) (m : List Host.Cell) : Bool :=
  match m with
  | [] => true
  | (a, x) :: r => decide (lo < a) && decide (x ≠ 0) && wfAbove a r

/-- The canonical form of memory. -/
def Memory.wf (m : List Host.Cell) : Bool :=
  match m with
  | [] => true
  | (a, x) :: r => decide (x ≠ 0) && wfAbove a r

/-- `n` bytes from key `k` as a little-endian number (spec/00_scope.md R2). -/
def rdN (m : List Host.Cell) (k n : Nat) : Nat :=
  match n with
  | 0 => 0
  | n + 1 => (bget m k).toNat + 256 * rdN m (k + 1) n

/-- Write the low `n` bytes of `v`, little-endian. -/
def wrN (m : List Host.Cell) (k n v : Nat) : List Host.Cell :=
  match n with
  | 0 => m
  | n + 1 => wrN (bput m k (BitVec.ofNat 8 v)) (k + 1) n (v / 256)

/-- `n` bytes from key `k`. -/
def rdBytes (m : List Host.Cell) (k n : Nat) : List Byte :=
  match n with
  | 0 => []
  | n + 1 => bget m k :: rdBytes m (k + 1) n

/-- Write a list of bytes from key `k`. -/
def wrBytes (m : List Host.Cell) (k : Nat) (l : List Byte) : List Host.Cell :=
  match l with
  | [] => m
  | b :: r => wrBytes (bput m k b) (k + 1) r

/-- A list of bytes as a little-endian number. -/
def bytesNat (l : List Byte) : Nat :=
  match l with
  | [] => 0
  | b :: r => b.toNat + 256 * bytesNat r

/-- The low `n` bytes of a number. -/
def natBytes (n v : Nat) : List Byte :=
  match n with
  | 0 => []
  | n + 1 => BitVec.ofNat 8 v :: natBytes n (v / 256)

/-! Bit fields. -/

/-- Bits `lo` to `lo + n - 1` of a word, as a number. -/
def fieldOf (x : Word) (lo n : Nat) : Nat := x.toNat / 2^lo % 2^n

/-- `n` bits of a number from bit `lo`. -/
def nbits (x lo n : Nat) : Nat := x / 2^lo % 2^n

/-- A number sign-extended from `n` bits, as an integer. -/
def sgn (n x : Nat) : Int := if x % 2^n < 2^(n - 1) then (x % 2^n : Nat) else (x % 2^n : Nat) - (2^n : Nat)

/-- An integer as a word, modulo 2^64. -/
def wordOfInt (x : Int) : Word := BitVec.ofInt 64 x

/-- The low `8 * 2^size` bits of a word, sign- or zero-extended to 64 (spec/06_scratchpad.md R147). -/
def extendLoad (sx : Bool) (size x : Nat) : Word :=
  if sx then wordOfInt (sgn (8 * 2^size) x) else BitVec.ofNat 64 (x % 2^(8 * 2^size))

/-- A sum clamped to the signed 64-bit range (spec/12_semaphores.md R270). -/
def sat64 (x : Int) : Int :=
  if x < -(2^63 : Nat) then -(2^63 : Nat) else if (2^63 : Nat) - 1 < x then (2^63 : Nat) - 1 else x

/-- A list without its repeats of `x`. -/
def without {α : Type} [BEq α] (l : List α) (x : α) : List α := l.filter fun y => !(y == x)

/-- `x` added at the end of a list unless it is there. -/
def withOne {α : Type} [BEq α] (l : List α) (x : α) : List α := if l.contains x then l else l ++ [x]

end Sys2Proof.Machine
end

