-- ==== Sys2Proof/Machine/State.lean ====
section
/-! DEFINITION. The state of the package as plain data, and the state after a power-on reset. Tables list only the
entries that differ from the default named in their docstring, so a reset table is empty. A cycle is a core cycle
(spec/01_device.md R9); 'due' times are values of `now`. -/

namespace Sys2Proof.Machine

/-- How a machine stops with a fault: no path of this model does, since every stop that the spec describes is a trap, an engine fault or a
recorded status, after which the machine goes on. -/
inductive Fault where
  /-- Raised by nothing. Safe: it stands for no behaviour. -/
  | unreached
  deriving DecidableEq, Repr

/-- Why an instruction has no next state. -/
inductive Refusal where
  /-- An instruction whose meaning is not written yet. Safe: nothing is claimed of it. -/
  | notModelled (mnemonic : String)
  deriving DecidableEq, Repr

/-! Control contexts (spec/04_contexts.md, spec/05_registers.md, spec/18_recovery.md). -/

/-- A load or atomic whose answer from a peer is outstanding (spec/15_fabric.md R331): the request's id, its VA, the address of its
word, the wait kind of a word that reads the result (R379), the size and extension of the value. -/
structure Await where
  id : Nat
  va : Word
  pc : Word
  kind : Nat
  size : Nat
  sx : Bool
  /-- The word is an acquire: it acquires with its answer (spec/11_ordering.md R252). -/
  acquires : Bool := false
  deriving DecidableEq, Repr

/-- A result in flight (R56 to R60): destination, value, the cycle from which it may be read, whether a reader waits
(R57), whether a taken branch kills it (R59), the answer that brings its value, if one does. `dst` is a physical scalar register number,
32 to 39 + 24 the shadow bank. -/
structure Pend where
  dst : Nat
  val : Word
  due : Nat
  lock : Bool
  q : Bool
  await : Option Await := none
  deriving DecidableEq, Repr

/-- A request entry (R85): held until cycle `due`, or, with none, until the response with this id arrives. -/
structure Req where
  id : Nat
  due : Option Nat
  deriving DecidableEq, Repr

/-- A user-interrupt record (R104). -/
structure UiRec where
  va : Word
  kind : BitVec 8
  status : BitVec 16
  deriving DecidableEq, Repr

/-- A blocked word: wait kind (R379, R407), object, the cycle from which bound cycles count; for a counter of the HSS its die,
index and threshold, whether a value has met it (spec/12_semaphores.md R271), and the LAST of the update that did. -/
structure Waiting where
  kind : Nat
  obj : Word
  since : Nat
  sem : Option (Nat × Nat × Int) := none
  met : Bool := false
  lastu : Nat := 0
  /-- TVAL of a grid load whose step check fails (spec/14_grids.md R313). -/
  val : Word := 0
  /-- The value of the counter that met the wait (spec/19_observation.md R403, R407). -/
  seen : Nat := 0
  deriving DecidableEq, Repr

/-- What FENCE.ENG waits for (spec/11_ordering.md R257): a launch by ticket, a copy packet, a halo step. -/
inductive EngOut where
  | launch (eng : EngSel) (ticket : BitVec 16)
  | copy (core : CoreId) (slot : BitVec 4) (seq : BitVec 32)
  | halo (grid : BitVec 16) (idx : Nat) (step : BitVec 32)
  deriving DecidableEq, Repr

/-- The remote read that a word needs before it can be performed (spec/10_pages.md R242). -/
inductive RemoteState where
  | idle
  | sent (id : Nat)
  | refused
  deriving DecidableEq, Repr

/-- A context's mark between its word and its acceptance (spec/18_recovery.md R383, R389): the cycle of acceptance, the mark area and
the length of the replay log that are in force until then, the slots that it will empty, the address that it saves. -/
structure MarkWait where
  at_ : Nat
  area : List Byte
  logN : Nat
  slots : List (Nat × Nat)
  pc : Word
  /-- The record whose acceptance took the mark, entries of the old log that are owed a value, the branch count of the mark before. -/
  uq : Option UiRec := none
  owed : List (Nat × Nat) := []
  br : Nat := 0
  deriving DecidableEq, Repr

/-- One control context. -/
structure Ctx where
  /-- The mark that is on its way. -/
  accept : Option MarkWait := none
  /-- The stream runs: bound, and EXIT not executed (R99). -/
  live : Bool := false
  /-- Program counter: VA of the next word (R46). -/
  pc : Word := 0
  /-- g1 to g31 by number, shadow g24 to g31 as 56 to 63 (R110, R107); default 0. -/
  g : Tab Word := []
  /-- p0 to p7; bit 0 always reads true (R90, R132). -/
  p : BitVec 8 := 1
  /-- Event latch (R279), the cycle in which it was set; it has been set again in a later cycle than the one whose setting a sleeping WFE, not
  yet evaluated, takes. -/
  latch : Bool := false
  latchAt : Nat := 0
  relatch : Bool := false
  /-- CTXST.PRIV (R102). -/
  priv : Bool := false
  /-- CTXST.PPRIV. -/
  ppriv : Bool := false
  /-- CTXST.UIE. -/
  uie : Bool := false
  /-- CTXST.UIACT. -/
  uiact : Bool := false
  /-- Pending user-interrupt queue (R105), oldest first; CTXST.UIPEND is its length. -/
  uq : List UiRec := []
  /-- UVEC.HBLK × 64 (R103). -/
  uvec : Word := 0
  /-- TCAUSE (R397). -/
  tcause : BitVec 8 := 0
  /-- TPC. -/
  tpc : Word := 0
  /-- TVAL. -/
  tval : Word := 0
  /-- TVEC.HBLK × 64. -/
  tvec : Word := 0
  /-- TOKENS.INFL (R262). -/
  tokens : BitVec 16 := 0
  /-- RERR.VA (R225). -/
  rerrVa : BitVec 56 := 0
  /-- RERR.VALID. -/
  rerrValid : Bool := false
  /-- WPT (R410). -/
  wpt : BitVec 56 := 0
  /-- MBXSEL (R73). -/
  mbxsel : Bool := false
  /-- CREWB (R274): BASE, DIE and VALID as bits [18:0]. -/
  crewb : BitVec 19 := 0
  /-- ENGF pending from the ME, with the record's VA (R400). -/
  engfMe : Option Word := none
  /-- ENGF pending from the VE. -/
  engfVe : Option Word := none
  /-- UIRQ pending, with the VA of the dropped record (R105). -/
  uirq : Option Word := none
  /-- Results in flight, in issue order. -/
  pend : List Pend := []
  /-- Request entries held (R85). -/
  reqs : List Req := []
  /-- The context's next word issues no earlier than this cycle (R55, R88). -/
  ready : Nat := 0
  /-- Until that cycle the word at pc waits (R84): an event at the boundary before it is taken at once (R106). -/
  rests : Bool := false
  /-- The wait of a blocked word. -/
  waiting : Option Waiting := none
  /-- The remote access of the blocked word. -/
  remote : RemoteState := .idle
  /-- What the remote accesses of the word at pc have answered, in order, and how many of these its evaluation has used. -/
  got : List Nat := []
  used : Nat := 0
  /-- Acquiring accesses whose answer is outstanding: later memory words wait for it (spec/11_ordering.md R252). -/
  acq : List Nat := []
  /-- A load or atomic that its peer refused, a SEM or BAR word that the store of another die did: the address of its word, TVAL and the
  trap code. The trap is due at the next boundary (log 8). -/
  refused : Option (Word × Word × Nat) := none
  /-- A trap's handler issues no word before every result of earlier words is written (R60). -/
  drain : Bool := false
  /-- Atomics sent to a peer: the id, and the entry of the replay log that the answer completes (R391). -/
  owed : List (Nat × Nat) := []
  /-- Launches, packets and steps not completed. -/
  engOut : List EngOut := []
  /-- Entries of the replay log (R391); the log itself lies in the mark area. -/
  logN : Nat := 0
  /-- Logged words since the mark or the restore (R392). -/
  ord : Nat := 0
  /-- Logged words with a smaller ordinal are not performed (R392). -/
  replayTo : Nat := 0
  /-- Mark index, modulo 2^32 (R389). -/
  markIdx : BitVec 32 := 0
  /-- SCY at the last mark (R390). -/
  markScy : Nat := 0
  /-- Taken branches since sampling began (R403); those at the last mark; those whose record a replay does not write again (R412). -/
  branches : Nat := 0
  markBr : Nat := 0
  brDone : Nat := 0
  /-- The word at this address was the cause of a debug stop: it issues without its breakpoint or watchpoint (R101, R410). -/
  passAt : Option Word := none
  deriving DecidableEq, Repr

/-! The memory system (spec/10_pages.md, spec/11_ordering.md). -/

/-- A translation (R226): partition, level 2 to 4, VA without its low bits, the leaf. -/
structure TlbE where
  part : BitVec 3
  lvl : Nat
  vpn : Nat
  pte : Word
  deriving DecidableEq, Repr

/-- A core's L1 copy of a remote-homed line, or a die's L2 copy of one: bytes, dirty bytes, cores that read it, cores it
is dirty for (R249). -/
structure LineCopy where
  data : BitVec 1024 := 0
  dirty : BitVec 128 := 0
  readers : List Nat := []
  writers : List Nat := []
  /-- 8-byte words with an uncorrectable error. -/
  err : BitVec 16 := 0
  deriving DecidableEq, Repr

/-- A store into the bytes of a full slot: its keys, who stored, the slot's consumer (spec/06_scratchpad.md R144). -/
structure Spoil where
  lo : Nat
  hi : Nat
  by_ : Agent
  cons : Nat
  deriving DecidableEq, Repr

/-- One request held on the fault queue. -/
inductive Held where
  | copy (core : CoreId)
  | copyQueue (core : CoreId) (slot : BitVec 4)
  | image (core : CoreId) (eng : EngSel)
  | halo (die : DieId) (op : Nat)
  | collective (die : DieId) (slot : BitVec 4)
  | launchQueue (die : DieId) (queue : BitVec 12)
  | graph (die : DieId) (tok : Nat)
  | record (die : DieId) (n : Nat)
  | dispatch (die : DieId)
  deriving DecidableEq, Repr

/-- A request that met a full fault queue: unit kind, core, the 64 KiB granule of its VA, the cycle of its last try (R229). -/
structure FqWait where
  kind : Nat
  core : Nat
  gran : Nat
  at_ : Nat
  deriving DecidableEq, Repr

/-- A fault-queue entry (R231). -/
structure FqE where
  va : Word := 0
  part : BitVec 3 := 0
  write : Bool := false
  fetch : Bool := false
  reason : Nat := 0
  waiters : Nat := 0
  unitKind : Nat := 0
  core : Nat := 0
  seq : Nat := 0
  state : Nat := 0
  held : List Held := []
  deriving DecidableEq, Repr

/-- A memory range of a partition (R236), in 64 KiB granules. -/
structure Range where
  base : Nat
  limit : Nat
  owners : BitVec 10
  isSealed : Bool
  deriving DecidableEq, Repr

/-- A partition (R236): fixed by the root of trust at creation. -/
structure Part where
  valid : Bool := false
  isSealed : Bool := false
  /-- Core set over package core ids. -/
  cores : BitVec 128 := 0
  /-- Peer map: peer number to byte (R240); default 0, unpopulated. -/
  peers : Tab Byte := []
  /-- NBV.VER (R120). -/
  nbv : BitVec 8 := 3
  /-- MODE[7:0] (R378). -/
  mode : BitVec 8 := 0x80
  /-- PTBR (R225). -/
  ptbr : Word := 0
  /-- EXPBR (R225). -/
  expbr : Word := 0
  /-- GRIDBR.BASE × 4096 (spec/14_grids.md R302). -/
  gridbr : Word := 0
  /-- HSSR (R265). -/
  hssBase : Nat := 0
  hssCount : Nat := 0
  /-- BCAP, and the cap on TOKENS (R369). -/
  bcap : Nat := 0
  tokCap : Nat := 0
  /-- TRCTL.EN, SMP and BRLOG (R406). -/
  trEn : Bool := false
  trSmp : BitVec 3 := 0
  trBrlog : Nat := 0
  /-- The record classes formed: bit 0 program, bit 1 event (R406). -/
  trCls : BitVec 2 := 3
  /-- Cycle in which the first slice of an id was handed over (R413). -/
  began : Tab Nat := []
  /-- Granted slots per period, by (resource, class) number (R376). -/
  slots : Tab Nat := []
  /-- Image frames free (R401). -/
  frames : Nat := 0
  /-- Digests of the program images loaded, ascending (R414). -/
  progs : List (BitVec 256) := []
  /-- Sessions of the key exchange already used (R239). -/
  sessions : List (BitVec 32) := []
  /-- Team code ranges registered (R414). -/
  codeRanges : List (Word × Word) := []
  /-- Its number among all partitions created: it names its keys (R238, R239). -/
  serial : Nat := 0
  deriving DecidableEq, Repr

/-- A shutter entry (R233). -/
structure Shutter where
  back0 : Nat := 0
  back1 : Nat := 0
  size : Nat := 0
  sel : Bool := false
  en : Bool := false
  owner : BitVec 3 := 0
  gen : BitVec 16 := 0
  /-- The key of its last publish: CE, queue, SEQ, GROUPS (spec/13_copy.md R291). -/
  key : Option (Nat × Nat × Nat × Nat) := none
  deriving DecidableEq, Repr

/-- A publish requested and not complete (R235): shutter, partition, the packet's key (CE, queue, SEQ, GROUPS), whether it has
begun, and the dies that have still to acknowledge. -/
structure Publish where
  shutter : ShutterId
  part : BitVec 3
  core : CoreId
  queue : Nat
  seq : Nat
  groups : Nat
  begun : Bool := false
  waitingDies : List Nat := []
  deriving DecidableEq, Repr

/-! Launch engines (spec/07_vector.md, spec/08_sequencer.md, spec/09_accumulators.md). -/

/-- A vector register with its tag (R154, R34). -/
structure VReg where
  bits : VBits := 0
  tag : FTag := 0
  deriving DecidableEq, Repr

/-- A result of the VE in flight: the register, mask, mailbox and h position it goes to, its bits, the bits it writes,
its tag, the cycle from which it may be read, and whether a reader waits (R57) or an exit kills it (R59). -/
structure VPend where
  reg : Option Nat := none
  hpos : Option Nat := none
  msk : Option Nat := none
  mbx : Option Nat := none
  bits : VBits := 0
  wm : VBits := 0
  tag : FTag := 0
  due : Nat := 0
  lock : Bool := false
  q : Bool := false
  deriving DecidableEq, Repr

/-- A table of the TIU (R171). -/
structure TiuTab where
  x0 : Word32
  lsp : Int
  mode : Nat
  low : Nat
  high : Nat
  segs : List (Word32 × Word32)
  poisoned : Bool := false
  deriving DecidableEq, Repr

/-- What the sequencer does next at its position (R194). -/
inductive SeqPhase where
  | entry | body | mark | finish
  deriving DecidableEq, Repr

/-- The counters of a transom (R179). -/
structure Transom where
  id : Nat
  twr : Nat
  trd : Nat
  tcnt : Nat
  deriving DecidableEq, Repr

/-- A progress mark of an engine (R197, R212). -/
structure EMark where
  ticket : BitVec 16
  idx : List Nat
  trip : List Nat
  lvl : Nat
  pc : Nat
  phase : SeqPhase
  wregs : Tab VReg := []
  masks : Tab MBits := []
  transoms : List Transom := []
  tplSrc : Tab Nat := []
  ptag : Tab FTag := []
  issued : Tab Nat := []
  drains : Nat := 0
  emask : BitVec 8 := 0
  deriving DecidableEq, Repr

/-- The sequencer of an engine: its launch queue, whose entries lie in the system area, and the launch it runs. -/
structure Seqr where
  /-- Queue entry at the head, entries queued, and the VA of the record of each entry (R188, R189). -/
  head : Nat := 0
  count : Nat := 0
  recVa : Tab Word := []
  /-- Launch ticket of the next record accepted (R188). -/
  ticket : BitVec 16 := 0
  /-- A launch runs, taken from entry `head`. -/
  running : Bool := false
  /-- The image read is held on the fault queue (R190). -/
  heldImage : Bool := false
  /-- Taken at the start and kept to the end (R120, R378): NBV, CHECK, ACCP; and the partition and issuing context. -/
  nbv : Nat := 3
  check : Bool := false
  accp : Bool := false
  part : BitVec 3 := 0
  issuer : CtxSel := .L
  /-- Instruction buffer and loaded template entries (R81). -/
  words : List Nat := []
  tpl : Tab Nat := []
  tplSrc : Tab Nat := []
  /-- idx[0..5], trip[0..5], the innermost level entered, the word index (R194). -/
  idx : List Nat := [0, 0, 0, 0, 0, 0]
  trip : List Nat := [0, 0, 0, 0, 0, 0]
  lvl : Nat := 0
  pc : Nat := 0
  phase : SeqPhase := .entry
  /-- The next word issues no earlier. -/
  ready : Nat := 0
  waiting : Option Waiting := none
  /-- Mark index, updates since that mark (R195), the last mark. -/
  markIdx : BitVec 32 := 0
  ordinal : Nat := 0
  mark : Option EMark := none
  /-- Save mask of the launch's most recent EMARK (R131). -/
  emask : BitVec 8 := 0
  /-- Issues of each word so far in the launch (R29). -/
  issued : Tab Nat := []
  /-- Watchdog: the cycle of the last mark or record, and the cycles since that do not count (R384). -/
  wdFrom : Nat := 0
  wdIdle : Nat := 0
  /-- Rings and tiles filled since the last mark, with the number in issue order of the word; and those of them whose fills a replay from that
  mark has still to pass (log 39). -/
  fills : List (Nat × Nat) := []
  refill : List Nat := []
  /-- Writes to launch records that are held: VA and bytes (spec/10_pages.md R230). -/
  puts : List (Nat × List Byte) := []
  /-- What the slots that the VE has written into and not filled held at the mark, by scratchpad offset: length and cells
  (spec/18_recovery.md R385). -/
  undo : Tab (Nat × List Host.Cell) := []
  /-- Cycle of the last eclipse (R386), and of the last rotation eclipse (R387). -/
  eclAt : Option Nat := none
  rotAt : Nat := 0
  /-- The launch's last mark follows every word it issued (R191). -/
  endMarked : Bool := false
  deriving DecidableEq, Repr

/-- The vector engine. -/
structure Ve where
  q : Seqr := {}
  /-- v0 to v63 and w0 to w15 by specifier; default zero, tag NONE (R131). -/
  regs : Tab VReg := []
  /-- m1 to m7; default 0 (R128). -/
  masks : Tab MBits := []
  /-- k0 to k15 (R130). -/
  k : Tab Word32 := []
  /-- The last-result file: position ids, newest first, their values, and the next id (R125). -/
  hids : List Nat := []
  hval : Tab VReg := []
  hnext : Nat := 0
  /-- User tables 4 to 15, absent until loaded (R174), and the cycle their load completes. -/
  tabs : Tab TiuTab := []
  tabDue : Tab Nat := []
  /-- Mailboxes (R193). -/
  mbx : Tab Word32 := []
  pend : List VPend := []
  /-- Pending tag of a slot, by id × 64 + slot (R177). -/
  ptag : Tab FTag := []
  /-- TFREE of a transom (R179). -/
  tfree : Tab Nat := []
  /-- Cycle from which every earlier scratchpad write is performed for every observer. -/
  memDue : Nat := 0
  deriving DecidableEq, Repr

/-- An open accumulator bank (R204): 4,096 lanes and the poison map in row order, and W. -/
structure Bank where
  lanes : List Int
  poison : List Bool
  w : Int
  /-- Cycle from which a following word may use it (R215). -/
  due : Nat := 0
  deriving DecidableEq, Repr

/-- A coma entry (R207): position is row × 64 + column. -/
structure ComaE where
  bank : Nat
  pos : Nat
  count : Int
  deriving DecidableEq, Repr

/-- An MMA whose K-steps are in progress (R205, R217). -/
structure MmaJob where
  bank : Nat
  /-- Its rings or tiles, and the slots it reads. -/
  qa : Nat
  qb : Nat
  sa : Nat
  sb : Nat
  fa : Nat
  fb : Nat
  stopFull : Bool
  t : Nat
  due : Nat
  issueNo : Nat
  /-- The word's index. -/
  pc : Nat
  /-- Positions of the current K-step done before a wait for the coma (R208). -/
  pos : Nat := 0
  deriving DecidableEq, Repr

/-- A drain in progress (R214). -/
structure DrainJob where
  bank : Nat
  /-- The output ring or tile; the addend's, and the slot at its HEAD. -/
  out : Nat
  addend : Option Nat
  addSlot : Nat := 0
  wide : Bool
  fmt : Nat
  rnd : Nat
  ovf : Nat
  swz : Nat
  alpha : Option Word32
  seed : Word32
  nth : Nat
  row : Nat
  start : Nat
  issueNo : Nat
  /-- The word's index, and the mark of the position after it (R212). -/
  pc : Nat
  snap : Option EMark := none
  /-- idx[0] at the word. -/
  step : Nat := 0
  poisonOut : Bool := false
  /-- The outputs of the rows folded, by offset in the slot: nothing of a commit is visible before it (R212). -/
  outs : List (Nat × List Byte) := []
  deriving DecidableEq, Repr

/-- A MACLD in progress (R215). -/
structure LoadJob where
  bank : Nat
  src : Nat
  swz : Nat
  stopFull : Bool
  row : Nat
  start : Nat
  issueNo : Nat
  /-- The word's index; positions of the current row done before a wait for the coma. -/
  pc : Nat
  pos : Nat := 0
  deriving DecidableEq, Repr

/-- The matrix engine. -/
structure Me where
  q : Seqr := {}
  /-- Open banks 0 to 3 (R204). -/
  banks : Tab Bank := []
  coma : List ComaE := []
  /-- HIGH of MCOMA (R216). -/
  high : Nat := 0
  mbx : Tab Word32 := []
  /-- MMAs in progress, oldest first: the next may issue before the last three K-steps of one (R217). -/
  mma : List MmaJob := []
  drain : Option DrainJob := none
  load : Option LoadJob := none
  /-- Slots popped since the last commit: ring, slot, the popping word's number (R210, R212). -/
  popped : List (Nat × Nat × Nat) := []
  issueNo : Nat := 0
  /-- MDRN issues in the launch (R29). -/
  drains : Nat := 0
  /-- k15 of the launch. -/
  k15 : Word32 := 0
  /-- Mailbox writes of MCOMA in flight: number, value, cycle (R216). -/
  mbxPend : List (Nat × Word32 × Nat) := []
  /-- Banks that an MCLR closes, with the cycle (R217). -/
  closing : List (Nat × Nat) := []
  deriving DecidableEq, Repr

/-! Units to be completed. -/

/-- A registered copy queue (spec/13_copy.md R280): the descriptor's VA, the partition, and whether an overrun has left its
packets unspecified (R281). -/
structure CopyQ where
  desc : Word
  part : BitVec 3
  overrun : Bool := false
  /-- An examination of the queue is held on the fault queue (spec/10_pages.md R230). -/
  held : Bool := false
  /-- Its packet stands in a saved image, or waits for the engine after a restore (spec/18_recovery.md R401). -/
  away : Bool := false
  deriving DecidableEq, Repr

/-- The packet a copy engine performs (R282): queue, index, its 64 bytes and VA; NBV and slot-wait limit taken at its start. -/
structure CopyJob where
  queue : Nat
  idx : Nat
  pkt : List Byte
  va : Nat
  part : BitVec 3
  nbv : Nat
  limit : Nat := 0
  /-- MARK.GROUPS and STAGE (R295), destination bytes moved. -/
  groups : Nat := 0
  stage : Nat := 0
  next : Nat := 0
  /-- The destination slot: core, id, slot, once it was found empty; the cycle from which it has been waited for. -/
  slot : Option (Nat × Nat × Nat) := none
  since : Nat := 0
  /-- A request is held on the fault queue (R230). -/
  held : Bool := false
  /-- A remote read in flight, and its bytes; remote writes not acknowledged; the status of a refused one. -/
  rd : Option Nat := none
  rdata : Option (List Byte) := none
  outs : List Nat := []
  refused : Option Nat := none
  /-- The shutter written through (R291); its publish has been requested. -/
  shut : Option Nat := none
  asked : Bool := false
  /-- Converted runs of the current sector group with their VAs, the newest first, kept until the whole group is known not to overflow
  under OVF 11; the runs of a group that is (spec/02_numbers.md R31). -/
  buf : List (Nat × List Byte) := []
  flush : List (Nat × List Byte) := []
  /-- After an eclipse: the record is to be read again (R299). -/
  reload : Bool := false
  /-- STATUS RUNNING is still to be written, and the checks to be made (R286). -/
  start : Bool := false
  /-- The packet ends with this status; its record is written, RIDX is not (R282). -/
  fin : Option (Nat × Bool) := none
  /-- The write to another package that is being gathered: VA, bytes (spec/25_prog_remote.md R435). -/
  wr : Option (Nat × List Byte) := none
  /-- The cycle from which a packet that is ready to fill its slot waits for it to be at TAIL and empty again. -/
  taken : Option Nat := none
  deriving DecidableEq, Repr

/-- What the supervisor keeps of a CE, HE or XE: the cycle from which its watchdog counts, the cycle since which it does not count,
the cycle of the last rotation eclipse (spec/18_recovery.md R384, R387). -/
structure Watch where
  since : Nat := 0
  hold : Option Nat := none
  rotAt : Nat := 0
  deriving DecidableEq, Repr

/-- The copy engine (spec/13_copy.md R280 to R299). -/
structure Ce where
  slots : Tab CopyQ := []
  /-- The queue served last. -/
  last : Nat := 15
  job : Option CopyJob := none
  /-- Packets of restored teams that wait for the engine. -/
  parked : List CopyJob := []
  ready : Nat := 0
  /-- Cycle of the last examination of every queue (R281); a packet has ended, or an examination could not be made, since then (R282). -/
  scan : Nat := 0
  fresh : Bool := false
  /-- Cycle of its last eclipse (spec/18_recovery.md R386). -/
  eclAt : Option Nat := none
  wd : Watch := {}
  deriving DecidableEq, Repr

/-- A grid that a halo engine has registered (spec/14_grids.md R302): partition, grid id, the 256 bytes of its descriptor and
the entries of its partition map. -/
structure Grid where
  part : BitVec 3
  id : Nat
  desc : List Byte
  map : List Nat
  deriving DecidableEq, Repr

/-- A committed step whose faces are not all complete (R309): grid, partition index, step, the interior cells as staged (cell
number in the frame, bytes), the faces whose fill is made or whose strip is formed, the issuing core and context. -/
structure HaloStage where
  part : BitVec 3
  grid : Nat
  idx : Nat
  step : Nat
  cells : List (Nat × List Byte)
  handled : List Nat := []
  deriving DecidableEq, Repr

/-- A strip in staging (R310): the receiving partition and face, its step, its cells; whose SENT bit its landing sets: a
partition and face of this package, or the peer and the transaction that brought its tag. -/
structure Strip where
  part : BitVec 3
  grid : Nat
  idx : Nat
  face : Nat
  step : Nat
  cells : List (Nat × List Byte)
  sender : Option (Nat × Nat)
  /-- For a peer's strip: the signal that carries its tag, once it has arrived; for one sent to a peer: its request id. -/
  sig : Option Tx := none
  sent : Option Nat := none
  /-- Request ids of its data writes that the peer has not acknowledged; it has landed, and the sender's SENT bit is still to be set. -/
  outs : List Nat := []
  done : Bool := false
  /-- For a strip of this package: the cycle from which it can land. -/
  due : Nat := 0
  deriving DecidableEq, Repr

/-- An operation of the halo engine that a request on the fault queue stops (spec/10_pages.md R230): a committed step, or a
strip that is to land. -/
inductive HeOp where
  | step (t : HaloStage)
  | strip (x : Strip)
  deriving DecidableEq, Repr

/-- The halo engine (spec/14_grids.md). -/
structure He where
  grids : List Grid := []
  stages : List HaloStage := []
  strips : List Strip := []
  /-- The operations whose requests are held on the fault queue, by key; the next key; those that met a full queue, in age order
  (spec/10_pages.md R229, R230). -/
  held : Tab HeOp := []
  holds : Nat := 0
  full : List HeOp := []
  ready : Nat := 0
  /-- The cycle of its last write of a SENT bit, its mark (R318). -/
  sentAt : Option Nat := none
  eclAt : Option Nat := none
  wd : Watch := {}
  deriving DecidableEq, Repr
/-- What a rank contributes to a collective (spec/15_fabric.md R338, R339): the packet's 64 bytes, its partition, MODE.COLLORD
and NBV as its XE took them, the source's bytes. -/
structure Contrib where
  part : BitVec 3
  pkt : List Byte
  arrival : Bool
  nbv : Nat
  data : List Byte
  /-- It was sent on by an engine that found NRANK to differ (R339). -/
  onward : Bool := false
  deriving DecidableEq, Repr

/-- The contributions to one collective at an XE, by GROUP and INST of a partition, by cycle of arrival and rank; two of
them differ where R339 asks for agreement. -/
structure Coll where
  part : BitVec 3
  group : Nat
  inst : Nat
  got : List (Nat × Contrib) := []
  bad : Bool := false
  deriving DecidableEq, Repr

/-- A collective packet in service (R338): queue, index, packet, its VA, partition, the rank's core, NBV and COLLORD; whether the
contribution has left, a request is held; stages done; the destination's bytes once known, or the status it ends with; bytes
written; the stage of its completion. -/
structure XeJob where
  /-- It holds since it met a full fault queue (spec/10_pages.md R229). -/
  full : Bool := false
  queue : Nat
  idx : Nat
  pkt : List Byte
  va : Nat
  part : BitVec 3
  core : Option Nat := none
  nbv : Nat := 3
  arrival : Bool := false
  sent : Bool := false
  held : Bool := false
  stages : Nat := 0
  result : Option (List Byte) := none
  status : Nat := 2
  next : Nat := 0
  stage : Nat := 0
  /-- The rank table as it was read. -/
  table : List Nat := []
  /-- STATUS RUNNING is still to be written; the packet ends with this status, its record written or not (spec/10_pages.md R230). -/
  start : Bool := false
  fin : Option (Nat × Bool) := none
  deriving DecidableEq, Repr

/-- The collective engine (R338 to R341). -/
structure Xe where
  slots : Tab CopyQ := []
  last : Nat := 15
  jobs : Tab XeJob := []
  /-- Queue slots whose descriptor or packet read is held on the fault queue. -/
  held : List Nat := []
  /-- Contributions that have reached the die and are not taken yet, with the cycle of their arrival. -/
  inbox : List (Nat × Contrib) := []
  colls : List Coll := []
  ready : Nat := 0
  scan : Nat := 0
  eclAt : Option Nat := none
  wd : Watch := {}
  deriving DecidableEq, Repr
/-- A Grailo program under way (spec/16_launch.md R357): the next op, x1 to x15, the open loops (first op, op after the body,
iterations left), innermost first, ops executed, packets emitted. -/
structure Grailo where
  pc : Nat := 0
  x : Tab Word := []
  loops : List (Nat × Nat × Nat) := []
  ops : Nat := 0
  emits : Nat := 0
  deriving DecidableEq, Repr

/-- What stops a queue's decoding (R350, R354): a counter, with whether a value has met its threshold; a signal in memory, with the
cycle of its next read at the latest; an instance of a graph. -/
inductive LWait where
  | hss (die idx : Nat) (thr : Int) (met : Bool)
  | mem (va : Nat) (thr : Int) (due : Nat)
  | graph (va : Nat)
  deriving DecidableEq, Repr

/-- A launch queue in a hardware slot (R348): RIDX, CSTK, CIDX and STATE stand in its record; here the index up to which packets may be
fetched, the verified program, its run, the packet to be decoded, what it waits for, a request held on the fault queue, and the
cycle of its last use. -/
structure LQueue where
  limit : Nat
  prog : Option (List Nat) := none
  run : Option Grailo := none
  pkt : Option (List Byte) := none
  wait : Option LWait := none
  held : Bool := false
  used : Nat := 0
  /-- Its program is still to be read (R358). -/
  load : Bool := false
  deriving DecidableEq, Repr

/-- A completion record that a walk fault keeps from being written (R356, spec/10_pages.md R230): its number, queue, partition, VA, bytes,
whether it is held on the fault queue. -/
structure LateRecord where
  n : Nat
  queue : Nat
  part : BitVec 3
  va : Nat
  bytes : List Byte
  held : Bool := false
  deriving DecidableEq, Repr

/-- A packet that has been decoded and is not complete: its number, queue, partition, index, TYPE, FLAGS, the CHAINs it stands in,
whether its block is still decoded. -/
structure Flight where
  tok : Nat
  queue : Nat
  part : BitVec 3
  index : Nat
  typ : Nat
  flags : Nat
  parents : List Nat
  isOpen : Bool := false
  /-- What its slices that have completed were charged, in 2^-16 nJ (spec/19_observation.md R411). -/
  energy : Nat := 0
  deriving DecidableEq, Repr

/-- An instance of a graph (R354): its packet, the graph's VA, its frame and the frame's VA, the VAs of the slice records, the
edges, the slices handed over and complete, whether one did not end as done. -/
structure GraphInst where
  tok : Nat
  queue : Nat
  part : BitVec 3
  va : Nat
  frame : Nat
  frameVa : Nat
  slices : List Nat
  edges : List (Nat × Nat)
  handed : List Nat := []
  done : List Nat := []
  bad : Bool := false
  /-- Its next access is to be made again, or is held on the fault queue (spec/10_pages.md R229, R230). -/
  again : Bool := false
  held : Bool := false
  deriving DecidableEq, Repr

/-- The command processor (R342 to R358): LQBASE, the knock vector, the latched indices, the bit taken last, the resident queues by
number, queues armed at the HSS (queue, die, index), queues evicted while they waited for a graph and its VA, packets in flight, graph instances, open CHAINs by queue, innermost first. -/
structure Cp where
  lqbase : Nat := 0
  kvec : List Nat := []
  latch : Tab Nat := []
  scanPos : Nat := 4095
  scanReady : Nat := 0
  /-- Cycle of the last reconcile pass. -/
  recon : Nat := 0
  /-- Queues whose bit a knock has set, each with its cycle: the bit that is taken in that cycle stays set (R347). -/
  fresh : List (Nat × Nat) := []
  ready : Nat := 0
  /-- The queue served last, the number of the next packet. -/
  last : Nat := 4095
  tok : Nat := 0
  q : Tab LQueue := []
  armed : List (Nat × Nat × Nat) := []
  waitG : List (Nat × Nat) := []
  flights : List Flight := []
  graphs : List GraphInst := []
  chains : Tab (List Nat) := []
  /-- Decode state of queues that were evicted or parked while their program ran (log 35); completion records still to be written, and the
  number of the next. -/
  runs : Tab LQueue := []
  recs : List LateRecord := []
  recNext : Nat := 0
  deriving DecidableEq, Repr

/-- A write of dispatch to a slice record: partition, VA, bytes. -/
structure DispPut where
  part : BitVec 3
  va : Nat
  bytes : List Byte
  deriving DecidableEq, Repr

/-- A run of 16 counters reserved for a crew (spec/12_semaphores.md R274). -/
structure CrewRun where
  part : Nat
  base : Nat
  slice : Nat
  crew : Nat
  deriving DecidableEq, Repr

/-- The saved image of a team (spec/18_recovery.md R401): its core, the contexts, the engines, the scratchpad ranges with their nonzero
bytes, what the spec leaves open of them, SCY. -/
structure CoreImage where
  core : Nat
  /-- The rest of its header: slice id, crew and team index; the copy packets that the core's copy engine had under way for the partition. -/
  slid : Nat := 0
  crew : Nat := 0
  team : Nat := 0
  ces : List CopyJob := []
  l : Ctx
  c : Ctx
  s : Ctx
  me : Me
  ve : Ve
  ranges : List (Nat × Nat)
  cells : List Host.Cell
  spoiled : List Spoil
  ghostStale : List (Nat × Nat)
  scy : Nat
  /-- Cycle of the save. -/
  at_ : Nat
  deriving DecidableEq, Repr

/-- How a crew stands (spec/17_scheduling.md R361, R367, R370). -/
inductive CrewSt where
  | never | bound | saved | ended
  deriving DecidableEq, Repr

/-- A crew: its cores by team once it has been bound, the cycle from which it waits or holds its place, a pre-emption gives it its
place next (R372), its counters (R274), SCY of each team at its last charge (R368) and at its binding (R370), whether a checkpoint of it has
been decided (R372), its images. -/
structure Crew where
  st : CrewSt := .never
  cores : List Nat := []
  since : Nat := 0
  prio : Bool := false
  cb : Option Nat := none
  scy0 : List Nat := []
  scyAt : List Nat := []
  saving : Bool := false
  images : List CoreImage := []
  deriving DecidableEq, Repr

/-- A slice that waits for an RMU entry: its packet, its number in a graph, partition, queue, record's VA and bytes, a graph's frame. -/
structure Handover where
  tok : Nat
  node : Option Nat
  part : BitVec 3
  queue : Nat
  va : Nat
  bytes : List Byte
  param : Option Nat
  deriving DecidableEq, Repr

/-- A slice in an RMU entry (R362 to R373): where it comes from, its record, its number among all handovers and the cycle of its
handover, the deadline, tokens as clamped, the effective budget, team-cycles charged to crews that are not bound; the accepted bind
record; whether it is parked, binds no more crews, has been stopped by its budget, has ever been bound; the STATUS code; the claims
for which a pre-emption has been decided; the crews that differ from one never bound. -/
structure Slice where
  from_ : Handover
  num : Nat
  since : Nat
  deadline : Nat
  tokens : Nat
  eff : Nat
  used : Nat := 0
  bound : Bool := false
  home : BitVec 32 := 0
  dthr : Nat := 0
  kmarg : Nat := 0
  cancel : Bool := false
  parked : Bool := false
  nomore : Bool := false
  bstop : Bool := false
  ever : Bool := false
  code : Nat := 0
  decided : List (List Nat) := []
  crews : Tab Crew := []
  deriving DecidableEq, Repr

/-- Dispatch: SLTBASE, slices by RMU entry, slices that wait for one, handovers so far, counters reserved for crews. -/
structure Disp where
  sltbase : Nat := 0
  rmu : Tab Slice := []
  pending : List Handover := []
  handed : Nat := 0
  runs : List CrewRun := []
  ready : Nat := 0
  /-- Writes to slice records that are held, in their order (spec/10_pages.md R230); one of them stands on the fault queue. -/
  puts : List DispPut := []
  held : Bool := false
  deriving DecidableEq, Repr

/-- A request or signal that the package has issued and that is not answered (spec/15_fabric.md R328, R331): the peer, its PKT,
the model's id, what it is, the unit, the VA or id that a refusal reports. -/
structure Asked where
  peer : BitVec 12
  pkt : BitVec 24
  id : Nat
  kind : TxKind
  unitKind : BitVec 4
  who : BitVec 16
  va : Word
  deriving DecidableEq, Repr

/-- What a port puts on its fibre in a flit time (R322, R323, R334). -/
inductive PortOut where
  /-- A link-control flit with its payload: a conjunction header or a restripe marker. -/
  | control (f : Flit) (payload : List Byte)
  | flit (f : Flit)
  deriving DecidableEq, Repr

/-- A port (R319 to R336). -/
structure Port where
  /-- LIVE0 and LIVE1; the mask by which the port receives (R333, R334). -/
  live : BitVec 128 := BitVec.allOnes 128
  rxLive : BitVec 128 := BitVec.allOnes 128
  /-- Receive banks retired; the live slots S (R335). -/
  banks : List Nat := []
  slots : Nat := 8192
  /-- A boundary has been seen; PSTAT.CONJ; flit times used (R319, R322). -/
  synced : Bool := false
  conj : Nat := 0
  time : Nat := 0
  /-- The partner's header has arrived; it came from the wrong package (R321). -/
  hdrSeen : Bool := false
  wrong : Bool := false
  /-- The partner advertised slots of VC2. -/
  adv2 : Bool := false
  /-- The sender's counts by VC, and slots to be returned by VC (R326). -/
  credit : Tab Nat := []
  ret : Tab Nat := []
  /-- Next LSEQ; the retry buffer, oldest first; how many of its newest flits are to be sent again (R327). -/
  lseq : Nat := 0
  retry : List Flit := []
  replay : Nat := 0
  /-- The LSEQ expected next; an acknowledgement is owed; a NAK is owed. -/
  rxNext : Nat := 0
  ackOwed : Bool := false
  nak : Bool := false
  /-- A restripe marker is owed; the groups of losses of light whose event is raised after it and its replay (R334). -/
  marker : Bool := false
  los : List Nat := []
  /-- FLITTX, FLITRX, REPLAY, CRCERR, LOSCNT (R336). -/
  flitTx : Nat := 0
  flitRx : Nat := 0
  replays : Nat := 0
  crcErr : Nat := 0
  losCnt : Nat := 0
  /-- Optics tuning registers (spec/20_host.md R424): HTR, MPD, RMAP by wavelength, 128 + wavelength on the receive fibre; SAT of both. -/
  htr : Tab (BitVec 12) := []
  mpd : Tab (BitVec 16) := []
  rmap : Tab (BitVec 8) := []
  sat : BitVec 128 := 0
  satRx : BitVec 128 := 0
  /-- What the port sent last. -/
  out : Option PortOut := none
  deriving DecidableEq, Repr

/-- The fabric side of the package (R319 to R337). -/
structure Fabric where
  /-- Transactions to be routed: for one destination in PKT order. -/
  sendq : List Tx := []
  /-- PKT of the next request to a peer (R328). -/
  pktNext : Tab (BitVec 24) := []
  asked : List Asked := []
  /-- SIGs that wait for earlier writes, with the peers and PKTs of those (spec/12_semaphores.md R273). -/
  sigs : List (Tx × List (BitVec 12 × BitVec 24)) := []
  ports : Tab Port := []
  /-- Ports in service and ports that accept VC0, of every peer (R322). -/
  masks : Tab (BitVec 64 × BitVec 64) := []
  /-- Peers that sent no header in the last conjunction with them (R332); transactions that have been transmitted before and are queued again
  (R327; spec/25_prog_remote.md R436). -/
  silent : List Nat := []
  again : List Tx := []
  /-- NEXT by source; arrivals held; statuses of the last 1,024 applied, newest first (R328). -/
  rxNext : Tab (BitVec 24) := []
  held : List Tx := []
  rxStatus : Tab (List (BitVec 24 × BitVec 8)) := []
  /-- Relayed transactions held, with the VC of their second hop (R330). -/
  relay : List (Tx × BitVec 2) := []
  /-- Contributions to collectives of which part has arrived from a peer: peer, number, bytes. -/
  parts : List (Nat × Nat × List Byte) := []
  deriving DecidableEq, Repr
/-- A host event queue (spec/20_host.md R419, R420): EQBASE, EQHEAD, EQTAIL, EQDROP, EQCTL.LOG, EN, VEC, MOD. -/
structure EvQueue where
  base : Nat := 0
  head : Nat := 0
  tail : Nat := 0
  drop : Nat := 0
  log : Nat := 0
  en : Bool := false
  vec : Nat := 0
  mod : Nat := 0
  /-- Records dropped and not yet told by an OVERFLOW record. -/
  lost : Nat := 0
  /-- Records written since the last message. -/
  unsent : Bool := false
  deriving DecidableEq, Repr

/-- A management mailbox (R421): request and response buffers, MBSTAT. -/
structure Mbox where
  req : List Byte := []
  resp : List Byte := []
  done : Bool := false
  busy : Bool := false
  ovr : Bool := false
  stat : BitVec 8 := 0
  deriving DecidableEq, Repr

/-- The host link: queues and mailboxes by function, 0 the PF, n + 1 VF n; messages sent, newest first; the states of the
TDIs (R416); P2PSEL (R418); completions of host requests, newest first. -/
structure HostSt where
  evq : Tab EvQueue := []
  mbox : Tab Mbox := []
  /-- Functions whose accepted requests wait for the root of trust, oldest first. -/
  doorbells : List Nat := []
  msix : List (Nat × Nat) := []
  tdi : Tab TdiState := []
  p2psel : BitVec 2 := 0
  replies : List (Bool × List Byte) := []
  /-- Answers of the I3C target, newest first (R425). -/
  i3c : List Word := []
  deriving DecidableEq, Repr
/-- The root of trust: SVROT (spec/18_recovery.md R387), the management firmware in force (R421), partitions created so far, the
cycle from which it serves a request. -/
structure Rot where
  /-- SVROT.IVMS. -/
  svrot : BitVec 16 := 10000
  /-- Key slots: the partition's key pair, named by the partition's number among all created (R238). -/
  keys : Tab Nat := []
  fw : List Byte := []
  created : Nat := 0
  ready : Nat := 0
  deriving DecidableEq, Repr
/-- The power controller (R423): CAPW, THR, j, the mode: 0 ACTIVE, 1 IDLE, 2 SLEEP. -/
structure Power where
  capw : Nat := 3000
  thr : Bool := false
  j : Nat := 0
  mode : Nat := 0
  deriving DecidableEq, Repr

/-! A core. -/

/-- The team bound to a core (spec/17_scheduling.md R366): RMU entry, crew, team, partition. -/
structure Team where
  slice : Nat
  crew : Nat
  team : Nat
  part : BitVec 3
  deriving DecidableEq, Repr

/-- A slot whose state changed in a cycle, and its state before (spec/06_scratchpad.md R145). -/
structure SlotOld where
  cycle : Nat
  id : Nat
  slot : Nat
  old : Nat
  deriving DecidableEq, Repr

/-- One core. -/
structure CoreSt where
  l : Ctx := {}
  c : Ctx := {}
  s : Ctx := {}
  me : Me := {}
  ve : Ve := {}
  ce : Ce := {}
  /-- The bound team, if any. -/
  team : Option Team := none
  /-- The team is marked as yielding (R100). -/
  yieldAt : Option Nat := none
  /-- SCY is `scyBase` plus the cycles since `scyFrom` while a team is bound and the core is not stopped (R408). -/
  scyBase : Nat := 0
  scyFrom : Nat := 0
  /-- DBGCTL.BKSTOP, WPSTOP, SCYSTOP as bits 0 to 2 (R409). -/
  dbg : BitVec 3 := 0
  /-- DBGCTL.STOPPED. -/
  stopped : Bool := false
  /-- STOPAT. -/
  stopat : Word := 0
  /-- SVSTAT.ECL, CRST, LOGW (R388). -/
  ecl : BitVec 24 := 0
  crst : BitVec 16 := 0
  logw : BitVec 4 := 0
  /-- Cycle of the last core reset (R386). -/
  resetAt : Option Nat := none
  /-- Instruction cache: 64-byte blocks by PA / 64 (R46, R48). -/
  icache : Tab (BitVec 512) := []
  /-- Micro-TLB (R226), newest first. -/
  utlb : List TlbE := []
  /-- L1 copies of remote-homed lines, by PA / 128 (R249). -/
  l1 : Tab LineCopy := []
  /-- Full slots that were stored into: what their consumer then reads is unspecified (R144). -/
  spoiled : List Spoil := []
  /-- The mark areas of the ME and the VE that a mark has been written to: their inner layout is not given (R382). -/
  meMarked : Bool := false
  veMarked : Bool := false
  /-- Faces, by grid id and face, whose fill regions read unspecified values until they are tagged (spec/14_grids.md R316). -/
  ghostStale : List (Nat × Nat) := []
  /-- Slots that changed in the cycle of the last change: waiting words of that cycle see the old states (R145). -/
  slotOld : List SlotOld := []
  deriving DecidableEq, Repr

/-! A die. -/

/-- A segment of an at-most-once window (spec/12_semaphores.md R268): engine, record, mark index, highest ordinal. -/
structure Segment where
  engine : Nat
  record : Nat
  mark : BitVec 32
  ordinal : Nat
  deriving DecidableEq, Repr

/-- A trace record before it is written (spec/19_observation.md R403). -/
structure TraceRec where
  kind : Nat
  cls : Nat
  part : BitVec 3
  isSealed : Bool
  unitKind : Nat
  core : Nat
  ctx : Nat
  cyc : Nat
  scy : Nat
  pc : Nat
  obj : Nat
  a : Nat
  b : Nat
  seq : Nat
  lastu : Nat
  deriving DecidableEq, Repr

/-- An event record sent to the management firmware (spec/17_scheduling.md R364, R365, R369, R371): kind and what it carries. -/
structure FwEvent where
  kind : Nat
  args : List Nat
  deriving DecidableEq, Repr

/-- One die. -/
structure Die where
  /-- DIECYC is `now` plus this (R119, R395). -/
  cycAdd : Nat := 0
  /-- L2 copies of lines homed on other dies, by PA / 128 (spec/11_ordering.md R249). -/
  l2 : Tab LineCopy := []
  /-- Shared TLB (R226), newest first. -/
  tlb : List TlbE := []
  /-- Fault queue entries 0 to 255 (R229), the allocation count, FQBASE (R231). -/
  fq : Tab FqE := []
  fqSeq : Nat := 0
  /-- Requesters that met a full fault queue, in age order (spec/10_pages.md R229). -/
  fqWait : List FqWait := []
  fqbase : Nat := 0
  /-- The HSS: counters, poisoned indices, LAST (R263, R267), windows (R268). -/
  hss : Tab Int := []
  hssPoison : List Nat := []
  hssLast : Tab (BitVec 32) := []
  window : List Segment := []
  /-- The die's copies of shutter SEL (R235). -/
  sel : Tab Bool := []
  /-- Errors corrected: the error counters of the die (spec/06_scratchpad.md R135). -/
  corrected : Nat := 0
  /-- TRSTAT.DROP and WRAP, records dropped since the last DROP record, staging, the record count, the ring (R405, R406). -/
  drop : BitVec 24 := 0
  wrap : BitVec 24 := 0
  dropped : Nat := 0
  /-- The partition of the record dropped last (log 93). -/
  dropPart : Nat := 0
  staging : List TraceRec := []
  trSeq : Nat := 0
  trBase : Nat := 0
  trSize : Nat := 2^28
  trPos : Nat := 0
  /-- Records written since the region was placed. -/
  trCount : Nat := 0
  /-- ENBASE in 2^-16 nJ at the last power-on; what has been added since is a free value (R411; log 52). -/
  enbase : Nat := 0
  he : He := {}
  xe : Xe := {}
  cp : Cp := {}
  disp : Disp := {}
  /-- Events to the firmware, oldest first. -/
  fw : List FwEvent := []
  /-- PAs of the firmware's refused accesses, and what its reads got, newest first (spec/10_pages.md R237). -/
  fwFaults : List Nat := []
  fwGot : List (List Byte) := []
  /-- Cycle of the last die reset (R386). -/
  resetAt : Option Nat := none
  deriving DecidableEq, Repr

/-! The package. -/

/-- An event for the machine to take: the unit it concerns and, where it is not that unit's own next action, the row. -/
structure Sched where
  who : Agent
  what : Option Instr
  deriving DecidableEq, Repr

/-- An input, or a chosen interleaving, and the cycle from which it is taken. -/
structure Input where
  time : Nat
  ev : Sched
  deriving DecidableEq, Repr

/-- A write of a shared CSR in the current cycle: what another context's MFC in that cycle still reads
(spec/05_registers.md R117). -/
structure CsrOld where
  cycle : Nat
  num : Nat
  group : Nat
  writer : Agent
  old : Word
  deriving DecidableEq, Repr

/-- What a semaphore word of another die's core does at the counter when it arrives there (spec/12_semaphores.md R266, R270, R275). -/
inductive FarOp where
  | add (b : Word)
  | set (b : Word) (priv : Bool)
  | try_ (b : Word)
  | rd
  | arr (n : Nat)
  deriving DecidableEq, Repr

/-- A request on its way to the store of another die: the cycle of its arrival, the counter, what it does, the issuing context, the
address of its word, the id its result answers; for a SIGNAL packet the die and queue of its command processor and the packet's number
(spec/16_launch.md R350). -/
structure FarSem where
  due : Nat
  die : Nat
  idx : Nat
  op : FarOp
  core : Nat
  sel : CtxSel
  part : Nat
  pc : Word
  id : Nat
  cp : Option (Nat × Nat × Nat) := none
  deriving DecidableEq, Repr

/-- A read that a unit, or a word that has not issued, makes of another package's memory for itself (spec/10_pages.md R241): who made it,
partition, peer, offset of the 64 bytes, VA, the request's id, what is held for it; the answer, if it has come, whether it is a refusal, and
whether the bytes have been used. -/
structure FarRead where
  who : Agent
  part : Nat
  peer : Nat
  off : Nat
  va : Nat
  id : Nat
  held : List Held
  data : Option (List Byte) := none
  bad : Bool := false
  used : Bool := false
  deriving DecidableEq, Repr

/-- A barrier whose generation advanced in a cycle, and the one before (R278). -/
structure GenOld where
  cycle : Nat
  key : Nat
  old : Nat
  deriving DecidableEq, Repr

/-- The machine. -/
structure State where
  /-- The model's own: inputs and chosen interleavings, each taken before anything else from its cycle on (log 2). -/
  agenda : List Input := []
  /-- The model's own: events that units have brought about and that are not taken yet, oldest first (log 2). -/
  events : List Sched := []
  /-- The model's own: the unit whose action runs (log 2). -/
  cur : Agent := .ctx 0 .L
  /-- Core cycles since the power-on reset (R9). -/
  now : Nat := 0
  /-- The model's own: the counter of the free values (log 1). -/
  free : Nat := 0
  /-- The model's own: ids of requests that wait for an answer. -/
  reqId : Nat := 0
  /-- Device DRAM and host memory by PA below 2^52, then the scratchpads, 2^52 + core × 2^22 + offset. -/
  mem : List Host.Cell := []
  /-- 8-byte words of `mem` with an uncorrectable error, by key / 8 (R135, R36). -/
  bad : List Nat := []
  cores : Tab CoreSt := []
  dies : Tab Die := []
  parts : Tab Part := []
  /-- Memory ranges of the partitions (R236). -/
  ranges : List Range := []
  shutters : Tab Shutter := []
  /-- Publishes in progress, oldest first (R235). -/
  pubs : List Publish := []
  /-- PEERID (R118). -/
  peer : BitVec 12 := 0
  peerValid : Bool := false
  /-- Shared CSRs written in this cycle, with their values before it. -/
  csrOld : List CsrOld := []
  fab : Fabric := {}
  host : HostSt := {}
  rot : Rot := {}
  power : Power := {}
  /-- Slots used in the current period, by resource (R376). -/
  slotsUsed : Tab Nat := []
  /-- Requests of contexts to the counters of other dies, in the order of their arrival (spec/12_semaphores.md R266). -/
  farSems : List FarSem := []
  /-- Barriers that advanced in the cycle of the last advance: waiting words of that cycle see the old generation (R278). -/
  genOld : List GenOld := []
  /-- Reads of other packages that units make for themselves (spec/10_pages.md R241). -/
  farReads : List FarRead := []
  deriving DecidableEq, Repr

/-- The machine right after a power-on reset (R17): every table empty, every field at the default its docstring gives. -/
def State.reset : State := {}

end Sys2Proof.Machine
end

