-- ==== Sys2Proof/Machine/Ops.lean ====
section
/-! DEFINITION. Named operations over the state: reaching a core, a context, a die; scalar registers and results in
flight; retiring a word, branching, taking a trap and returning from it. -/

namespace Sys2Proof.Machine

open Host (Outcome)

/-- Why a word does not complete. -/
inductive Stop where
  /-- A trap; the word has no effect. -/
  | trap (code : Nat) (val : Word)
  /-- A trap that leaves the fault queue or an event queue changed. -/
  | trapIn (s : State) (code : Nat) (val : Word)
  /-- The word waits; wait kind of R379 and R407, 0 where none is recorded; the object. -/
  | wait (kind : Nat) (obj : Word)
  /-- The word waits for a counter of the HSS: die, index, threshold (R271). -/
  | waitSem (kind : Nat) (obj : Word) (die idx : Nat) (thr : Int)
  /-- The word waits, a request having left. -/
  | waitIn (s : State) (kind : Nat) (obj : Word)
  /-- A grid load's step check fails for now: the object, and the TVAL it would raise (spec/14_grids.md R313). -/
  | waitGrid (obj val : Word)
  /-- The word waits for an interlocked result until this cycle (R57). -/
  | till (t : Nat)
  /-- The word waits until this cycle for earlier words of its own stream. -/
  | rest (t : Nat)
  /-- The word, an atomic, has issued in this state; its result comes with a peer's answer. -/
  | asked (s : State) (a : Await)
  /-- The state after the word, which did not complete, is this one. -/
  | left (s : State)
  /-- A debug stop at the word (spec/19_observation.md R409). -/
  | debug (cause : Nat)

/-- An operation that may stop. -/
abbrev Op (α : Type) := StateT State (Except Stop) α

/-! Trap codes (spec/18_recovery.md R399). -/
def tILLOP : Nat := 0x01
def tPRIV : Nat := 0x02
def tALIGNBR : Nat := 0x03
def tALIGN : Nat := 0x04
def tSHORT : Nat := 0x05
def tTAG : Nat := 0x06
def tSWZ : Nat := 0x07
def tXLATE : Nat := 0x08
def tPROT : Nat := 0x09
def tABSENT : Nat := 0x0A
def tDENIED : Nat := 0x0B
def tACCOVF : Nat := 0x0C
def tCVTOVF : Nat := 0x0D
def tFPX : Nat := 0x0E
def tHALO : Nat := 0x0F
def tBUDGET : Nat := 0x10
def tENGF : Nat := 0x11
def tRING : Nat := 0x12
def tPOISON : Nat := 0x13
def tSEAL : Nat := 0x14
def tTRAPI : Nat := 0x15
def tBKPT : Nat := 0x16
def tWATCH : Nat := 0x17
def tRANGE : Nat := 0x18
def tUIRQ : Nat := 0x19

/-- A number as a word. -/
def wd (n : Nat) : Word := BitVec.ofNat 64 n

/-- The word of an instruction, for TVAL (R399). -/
def wordOf (i : Instr) : Word :=
  match encode i with
  | some (_, w) => wd w
  | none => 0

/-! Reaching the parts of the state. -/

/-- A core. -/
def coreOf (s : State) (c : Nat) : CoreSt := tget s.cores c {}
/-- Change a core. -/
def modCore (s : State) (c : Nat) (f : CoreSt → CoreSt) : State := { s with cores := tput s.cores c (f (coreOf s c)) }
/-- A context of a core. -/
def CoreSt.ctx (k : CoreSt) (x : CtxSel) : Ctx :=
  match x with
  | .L => k.l
  | .C => k.c
  | .S => k.s
/-- A core with a context replaced. -/
def CoreSt.setCtx (k : CoreSt) (x : CtxSel) (v : Ctx) : CoreSt :=
  match x with
  | .L => { k with l := v }
  | .C => { k with c := v }
  | .S => { k with s := v }
/-- A context. -/
def ctxOf (s : State) (c : Nat) (x : CtxSel) : Ctx := (coreOf s c).ctx x
/-- Replace a context. -/
def putCtx (s : State) (c : Nat) (x : CtxSel) (v : Ctx) : State := modCore s c fun k => k.setCtx x v
/-- Change a context. -/
def modCtx (s : State) (c : Nat) (x : CtxSel) (f : Ctx → Ctx) : State := putCtx s c x (f (ctxOf s c x))
/-- A die. -/
def dieOf (s : State) (d : Nat) : Die := tget s.dies d {}
/-- Change a die. -/
def modDie (s : State) (d : Nat) (f : Die → Die) : State := { s with dies := tput s.dies d (f (dieOf s d)) }
/-- A partition. -/
def partOf (s : State) (p : Nat) : Part := tget s.parts p {}
/-- Change a partition. -/
def modPart (s : State) (p : Nat) (f : Part → Part) : State := { s with parts := tput s.parts p (f (partOf s p)) }
/-- The die of a core (R8). -/
def dieOfCore (c : Nat) : Nat := c / 32 % 4
/-- The partition of the team bound to a core. -/
def corePart (s : State) (c : Nat) : Nat :=
  match (coreOf s c).team with
  | some t => t.part.toNat
  | none => 0
/-- Context number (R118): also the unit kind of R141. -/
def ctxNum (x : CtxSel) : Nat :=
  match x with
  | .L => 0
  | .C => 1
  | .S => 2
/-- The context of a number; 3 reads as S. -/
def ctxOfNum (n : Nat) : CtxSel := if n = 0 then .L else if n = 1 then .C else .S
/-- The core of an agent; 0 for units that belong to none. -/
def agentCore (a : Agent) : Nat :=
  match a with
  | .ctx c _ => c.toNat
  | .me c => c.toNat
  | .ve c => c.toNat
  | .ce c => c.toNat
  | _ => 0
/-- The die of an agent; 0 for units of the package. -/
def agentDie (a : Agent) : Nat :=
  match a with
  | .ctx c _ => dieOfCore c.toNat
  | .me c => dieOfCore c.toNat
  | .ve c => dieOfCore c.toNat
  | .ce c => dieOfCore c.toNat
  | .he d => d.toNat
  | .xe d => d.toNat
  | .cp d => d.toNat
  | .mgmt d => d.toNat
  | .hss d => d.toNat
  | .dispatch d => d.toNat
  | .l2dir d => d.toNat
  | _ => 0
/-- The context whose word runs; context L of the agent's core for an agent that is no context. -/
def curCore (s : State) : Nat := agentCore s.cur
/-- The issuing context. -/
def curSel (s : State) : CtxSel :=
  match s.cur with
  | .ctx _ x => x
  | _ => .L
/-- The issuing context's state. -/
def curCtx (s : State) : Ctx := ctxOf s (curCore s) (curSel s)
/-- Change the issuing context. -/
def modCur (s : State) (f : Ctx → Ctx) : State := modCtx s (curCore s) (curSel s) f
/-- The partition of the issuing core. -/
def curPart (s : State) : Nat := corePart s (curCore s)
/-- What shared CSR `num` of `group` held before another agent than the acting one wrote it in this cycle (R117). -/
def oldCsr (s : State) (num group : Nat) : Option Word :=
  (s.csrOld.find? fun e => e.cycle = s.now && e.num = num && e.group = group && e.writer != s.cur).map (·.old)
/-- A partition as the acting agent sees it: an MTC of another takes effect at the end of its cycle (R117). -/
def seenPart (s : State) (p : Nat) : Part :=
  let q := partOf s p
  if s.csrOld.isEmpty then q
  else
    { q with
      nbv := ((oldCsr s 0x000 p).map (·.setWidth 8)).getD q.nbv
      mode := ((oldCsr s 0x001 p).map (·.setWidth 8)).getD q.mode
      ptbr := (oldCsr s 0x020 p).getD q.ptbr
      expbr := (oldCsr s 0x023 p).getD q.expbr
      gridbr := (oldCsr s 0x026 p).getD q.gridbr }
/-- DBGCTL.BKSTOP, WPSTOP and SCYSTOP of the issuing core as the acting agent sees them (R117). -/
def curDbg (s : State) : BitVec 3 := ((oldCsr s 0x027 (1000 + curCore s)).map (·.setWidth 3)).getD (coreOf s (curCore s)).dbg
/-- MODE of the issuing partition (R378). -/
def curMode (s : State) : BitVec 8 := (seenPart s (curPart s)).mode

/-- DIECYC (R119). DESIGN CHOICE (log 66): the counters of the four dies agree, each being the cycle of the package; R9 of
spec/01_device.md gives dies no common time base. -/
def diecyc (s : State) (d : Nat) : Nat := s.now + (dieOf s d).cycAdd
/-- SCY of a core (R408). -/
def scyOf (s : State) (c : Nat) : Nat :=
  let k := coreOf s c
  if k.team.isNone then 0 else if k.stopped then k.scyBase else k.scyBase + (s.now - k.scyFrom)

/-! Contexts and their saved images (spec/18_recovery.md R401). -/

/-- Change the contexts in the images of a core. -/
def modImages (s : State) (core : Nat) (f : CtxSel → Ctx → Ctx) : State :=
  { s with
    dies := s.dies.map fun e =>
      (e.1, { e.2 with
        disp := { e.2.disp with
          rmu := e.2.disp.rmu.map fun x =>
            (x.1, { x.2 with
              crews := x.2.crews.map fun k =>
                (k.1, { k.2 with
                  images := k.2.images.map fun i =>
                    if i.core = core then { i with l := f .L i.l, c := f .C i.c, s := f .S i.s } else i }) }) } }) }

/-- Change the contexts of a core, bound and saved. -/
def modAllCtx (s : State) (core : Nat) (f : CtxSel → Ctx → Ctx) : State :=
  modImages (modCore s core fun k => { k with l := f .L k.l, c := f .C k.c, s := f .S k.s }) core f

/-! The operation monad. -/

/-- Fail. -/
def stop {α : Type} (e : Stop) : Op α := fun _ => .error e
/-- Raise a trap. -/
def raise {α : Type} (code : Nat) (val : Word) : Op α := stop (.trap code val)
/-- The state. -/
def gets {α : Type} (f : State → α) : Op α := fun s => .ok (f s, s)
/-- Change the state. -/
def upd (f : State → State) : Op Unit := fun s => .ok ((), f s)
/-- Raise a trap if a condition holds. -/
def raiseIf (b : Bool) (code : Nat) (val : Word) : Op Unit := if b then raise code val else pure ()
/-- Wait while a condition holds (R84). -/
def waitIf (b : Bool) (kind : Nat) (obj : Word) : Op Unit := if b then stop (.wait kind obj) else pure ()
/-- A fresh free value: the counter before the step to the next. -/
def fresh : Op Nat := fun s => .ok (s.free, { s with free := s.free + 1 })

/-! Trace records (spec/19_observation.md R403 to R406). -/

/-- Records that the 64 KiB staging buffer holds. -/
def stagingCap : Nat := 1024

/-- Hand a record of a class that its partition traces to staging, or drop and count it. -/
def pushTrace (d : Nat) (r : TraceRec) (s : State) : State :=
  modDie s d fun x =>
    if !(partOf s r.part.toNat).trCls.getLsbD r.cls then x
    else if x.staging.length < stagingCap then { x with staging := x.staging ++ [{ r with seq := x.trSeq }], trSeq := x.trSeq + 1 }
    else { x with drop := if x.drop = BitVec.allOnes 24 then x.drop else x.drop + 1, dropped := x.dropped + 1, dropPart := r.part.toNat }

/-- A record of a context: class 0 program, 1 event. -/
def traceCtx (kind cls obj a b lastu : Nat) (s : State) : State :=
  let c := curCore s
  let p := corePart s c
  pushTrace (dieOfCore c)
    { kind := kind, cls := cls, part := BitVec.ofNat 3 p, isSealed := (partOf s p).isSealed, unitKind := ctxNum (curSel s),
      core := c, ctx := ctxNum (curSel s), cyc := diecyc s (dieOfCore c), scy := scyOf s c, pc := (curCtx s).pc.toNat,
      obj := obj, a := a, b := b, seq := 0, lastu := lastu } s

/-- A record of an engine, a die unit, or a context named by its unit kind. -/
def traceUnit (d unitKind core part kind cls pc obj a b lastu : Nat) (s : State) : State :=
  pushTrace d
    { kind := kind, cls := cls, part := BitVec.ofNat 3 part, isSealed := (partOf s part).isSealed, unitKind := unitKind,
      core := core, ctx := min unitKind 3, cyc := diecyc s d, scy := if unitKind < 6 then scyOf s core else 0, pc := pc, obj := obj, a := a, b := b,
      seq := 0, lastu := lastu } s

/-! Host event queues (spec/20_host.md R419, R420) and events to the firmware. -/

/-- A TDI in LOCKED or RUN admits only requests protected by IDE on its own stream (R416). -/
def fnShut (s : State) (fn : Nat) (ide : Bool) : Bool := fn != 0 && tget s.host.tdi (fn - 1) .unlocked != .unlocked && !ide

/-- A queue of function `fn`: 0 the PF, n + 1 VF n. -/
def evqOf (s : State) (fn : Nat) : EvQueue := tget s.host.evq fn {}
/-- Change an event queue. -/
def modEvq (s : State) (fn : Nat) (f : EvQueue → EvQueue) : State :=
  { s with host := { s.host with evq := tput s.host.evq fn (f (evqOf s fn)) } }
/-- Records of the ring: another LOG than 6 to 16 was written as 6. -/
def EvQueue.size (q : EvQueue) : Nat := 2^q.log
/-- The queue is full. -/
def EvQueue.full (q : EvQueue) : Bool := (q.tail + 1) % q.size = q.head
/-- The key of host memory behind a host address. -/
def hostKey (a : Nat) : Nat := 2^51 + a % 2^51

/-- Send an MSI-X message. -/
def sendMsix (s : State) (fn vec : Nat) : State := { s with host := { s.host with msix := (fn, vec) :: s.host.msix } }

/-- Write one record to a queue with room. Bytes that the spec does not lay out are free values (log 1). -/
def putRecord (s : State) (fn kind : Nat) (known : List (Nat × Nat)) : State :=
  let q := evqOf s fn
  let bytes := (upto 32).map fun i => if i = 0 then BitVec.ofNat 8 kind else
    match tget? known i with
    | some b => BitVec.ofNat 8 b
    | none => Config.freeByte (s.free + i)
  let t := { s with mem := wrBytes s.mem (hostKey (q.base + 32 * q.tail)) bytes, free := s.free + 32 }
  let u := modEvq t fn fun q => { q with tail := (q.tail + 1) % q.size, unsent := q.mod != 0 }
  if q.mod = 0 then sendMsix u fn q.vec else u

/-- An OVERFLOW record, once there is space for it (R420). -/
def tellLost (fn : Nat) (s : State) : State :=
  let q := evqOf s fn
  if q.en && q.lost != 0 && !q.full then
    modEvq (putRecord s fn 1 ((upto 4).map fun i => (4 + i, q.lost / 256^i % 256))) fn fun q => { q with lost := 0 }
  else s

/-- An event of kind `kind` for a queue: an OVERFLOW record first where records were lost and there is room, else a drop. -/
def sendEvent (fn kind : Nat) (known : List (Nat × Nat)) (s : State) : State :=
  let s1 := tellLost fn s
  let q1 := evqOf s1 fn
  if q1.en && !q1.full then putRecord s1 fn kind known
  else modEvq s1 fn fun q => { q with drop := min (2^32 - 1) (q.drop + 1), lost := q.lost + 1 }

/-- Number the bytes of a record. -/
def numberedBytes (i : Nat) (l : List Byte) : List (Nat × Nat) :=
  match l with
  | [] => []
  | b :: r => (i, b.toNat) :: numberedBytes (i + 1) r

/-- Tell the firmware of a die. -/
def tellFw (d kind : Nat) (args : List Nat) (s : State) : State := modDie s d fun x => { x with fw := x.fw ++ [⟨kind, args⟩] }

/-! Scalar registers (spec/05_registers.md R110, R112) and results in flight (spec/03_encoding.md R56 to R60). -/

/-- The register that a name reaches: the shadow bank while a user-interrupt handler runs (R107). -/
def physReg (x : Ctx) (r : Nat) : Nat := if x.uiact && decide (24 ≤ r) then r + 32 else r

/-- The value of a physical register once the results in `l` are written in issue order (R58). -/
def overlay (l : List Pend) (k : Nat) (v : Word) : Word :=
  match l with
  | [] => v
  | p :: r => overlay r k (if p.dst = k then p.val else v)

/-- What a register holds once every result in flight is written: the value that later words are meant to read. -/
def gFinal (x : Ctx) (r : Nat) : Word := if r = 0 then 0 else overlay x.pend (physReg x r) (tget x.g (physReg x r) 0)

/-- What a register holds in cycle `now`. -/
def gNow (x : Ctx) (now r : Nat) : Word :=
  if r = 0 then 0 else overlay (x.pend.filter fun p => decide (p.due ≤ now)) (physReg x r) (tget x.g (physReg x r) 0)

/-- The cycle from which the latest result for a register may be read, 0 with none in flight. -/
def dueOf (l : List Pend) (k : Nat) : Nat :=
  match l with
  | [] => 0
  | p :: r => if p.dst = k && r.all (fun e => e.dst != k) then p.due else dueOf r k

/-- The cycle in which the interlocked results for a register are written, 0 with none in flight. -/
def lockDue (l : List Pend) (k : Nat) : Nat :=
  match l with
  | [] => 0
  | p :: r => if p.dst = k && p.lock then max p.due (lockDue r k) else lockDue r k

/-- The latest interlock among registers a word names. -/
def lockAll (x : Ctx) (rs : List Nat) : Nat :=
  match rs with
  | [] => 0
  | r :: t => max (lockDue x.pend (physReg x r)) (lockAll x t)

/-- The outstanding answer that one of the registers takes its value from. -/
def awaited (x : Ctx) (rs : List Nat) : Option Await :=
  x.pend.findSome? fun p => if rs.any (fun r => physReg x r == p.dst) then p.await else none

/-- Wait for the interlocked results of the sources and of the destination (R57, R84). g0 as a source waits for nothing;
as a destination it waits for an outstanding result that names it (R110). A wait for a peer's answer is one of R379. -/
def operands (srcs dsts : List Nat) : Op Unit := fun s =>
  let rs := srcs.filter (· != 0) ++ dsts
  let t := lockAll (curCtx s) rs
  match awaited (curCtx s) rs with
  | some a => .error (.wait a.kind a.va)
  | none => if s.now < t then .error (.till t) else .ok ((), s)

/-- Read a source (R112). An early read traps under CHECK, and otherwise obtains the old or the new value (R56, log 1). DESIGN CHOICE
(log 67): of two sources read early TVAL names the first in the order a, b, third. -/
def gr (r : Nat) : Op Word := fun s =>
  let x := curCtx s
  let t := dueOf x.pend (physReg x r)
  if r = 0 || t ≤ s.now then .ok (gFinal x r, s)
  else if (curMode s).getLsbD 0 then .error (.trap tSHORT (wd (r + 256 * (t - s.now))))
  else .ok (if Config.freeBool s.free then gFinal x r else gNow x s.now r, { s with free := s.free + 1 })

/-- Deliver a result to `dst` with latency `lat` (R56, R58, R87). A write to g0 is discarded (R110); an interlocked one is
still outstanding for its latency. -/
def putReg (dst : Nat) (v : Word) (lat : Nat) (lock q : Bool) (now : Nat) (x : Ctx) : Ctx :=
  let k := physReg x dst
  if lat ≤ 1 && x.pend.all (fun p => p.dst != k) then
    if dst = 0 then x else { x with g := tput x.g k v }
  else if dst = 0 && !lock then x
  else { x with pend := x.pend ++ [{ dst := k, val := v, due := now + lat, lock := lock, q := q }] }

/-- The result of a load or atomic that a peer is asked for: it holds a request entry until the answer (R85, spec/15_fabric.md R331). An
acquiring one keeps later memory words waiting (spec/11_ordering.md R252). -/
def putAwait (dst : Nat) (q : Bool) (a : Await) (x : Ctx) : Ctx :=
  { x with pend := x.pend ++ [{ dst := physReg x dst, val := 0, due := 0, lock := true, q := q, await := some a }]
           reqs := x.reqs ++ [⟨a.id, none⟩], acq := if a.acquires then x.acq ++ [a.id] else x.acq }

/-- Deliver a result of the issuing word. -/
def gw (dst : Nat) (v : Word) (lat : Nat) (lock q : Bool) : Op Unit := upd fun s => modCur s (putReg dst v lat lock q s.now)

/-- Write the results that have elapsed, in issue order: one waits for an earlier result to the same register. -/
def settleGo (now : Nat) (l kept : List Pend) (g : Tab Word) : List Pend × Tab Word :=
  match l with
  | [] => (kept, g)
  | p :: r =>
    if p.await.isNone && p.due ≤ now && kept.all (fun e => e.dst != p.dst) then settleGo now r kept (if p.dst = 0 then g else tput g p.dst p.val)
    else settleGo now r (kept ++ [p]) g

/-- Write the elapsed results of a context. -/
def settle (now : Nat) (x : Ctx) : Ctx :=
  let r := settleGo now x.pend [] x.g
  { x with pend := r.1, g := r.2 }

/-- Write every result in flight (R60). Those that a peer's answer brings are written when it comes, and no later word issues before. -/
def landAll (x : Ctx) : Ctx :=
  { x with pend := x.pend.filter fun p => p.await.isSome, drain := x.drain || x.pend.any (fun p => p.await.isSome)
           g := (x.pend.filter fun p => p.await.isNone).foldl (fun g p => if p.dst = 0 then g else tput g p.dst p.val) x.g }

/-- Kill the squashable words in flight at a taken branch (R59). -/
def killQ (now : Nat) (x : Ctx) : Ctx := { x with pend := x.pend.filter fun p => !(p.q && (p.await.isSome || decide (now < p.due))) }

/-- The predicate `p` (R90). -/
def prd (x : Ctx) (p : Nat) : Bool := p = 0 || x.p.getLsbD p

/-- Write a predicate; a write to p0 is discarded. -/
def setPrd (x : Ctx) (p : Nat) (b : Bool) : Ctx :=
  if p = 0 then x else { x with p := (x.p &&& ~~~(BitVec.ofNat 8 (2^p))) ||| (if b then BitVec.ofNat 8 (2^p) else 0) }

/-- The least of a list of cycles. -/
def leastOf (l : List Nat) : Option Nat :=
  match l with
  | [] => none
  | x :: r =>
    match leastOf r with
    | none => some x
    | some y => some (min x y)

/-! Retiring a word, waiting, branching. -/

/-- The limit of a wait in cycles, 0 for none (R378). -/
def stallLimit (s : State) (part : Nat) : Nat :=
  let n := (seenPart s part).mode.toNat / 16
  if n = 0 then 0 else 2^(n + 16)

/-- The kind of a wait that R84, R153 and R313 do not name: it has no WAIT record (R407). -/
def kQuiet : Nat := 10

/-- B of a WAIT record: the wait kind in bits [3:0]; above it, DESIGN CHOICE (log 88), the value seen that the table of R403 names. -/
def waitSeen (w : Waiting) : Nat := w.kind + 16 * (w.seen % 2^60)

/-- The WAIT record of a word that blocked for at least a cycle (R407). -/
def endWait (s : State) : State :=
  match (curCtx s).waiting with
  | none => s
  | some w =>
    let t := modCur s fun x => { x with waiting := none }
    if w.kind = kQuiet || s.now ≤ w.since then t else traceCtx 0x20 1 w.obj.toNat (s.now - w.since) (waitSeen w) w.lastu t

/-- The mark of a word that passes its debug stop, once the word at pc has issued. -/
def passGone (x : Ctx) : Option Word := if x.passAt == some x.pc then none else x.passAt

/-- The word at pc has issued: the next is the one after it, no earlier than now + 1 + STALL (R55). -/
def retire (st : Nat) (s : State) : State :=
  modCur (endWait s) fun x =>
    { x with pc := x.pc + 4, ready := s.now + 1 + st, passAt := passGone x, remote := .idle, got := [], used := 0 }

/-- The BRANCH record of a taken branch at `pc`, the context's `n`th (R403). -/
def traceBranch (pc tgt n : Nat) (s : State) : State :=
  let c := curCore s
  traceUnit (dieOfCore c) (ctxNum (curSel s)) c (corePart s c) 0x10 0 pc 0 tgt n 0 s

/-- A taken branch to `tgt` (R88, R59). A replay does not repeat a record of the original run (spec/19_observation.md R412). -/
def branchTo (tgt : Word) (st : Nat) (s : State) : State :=
  let c := curCore s
  let p := partOf s (corePart s c)
  let s1 := modCur (endWait s) fun x =>
    { killQ s.now x with pc := tgt, ready := s.now + max 3 (1 + st), passAt := passGone x, branches := x.branches + 1 }
  let n := (curCtx s).branches
  if p.trSmp.getLsbD (ctxNum (curSel s)) && n % 2^p.trBrlog = 0 && decide ((curCtx s).brDone ≤ n) then
    traceBranch (curCtx s).pc.toNat tgt.toNat n s1 else s1

/-- Requests of a die that hold since they met a full fault queue: those that were tried in the last 256 cycles (spec/10_pages.md R229). -/
def fqWaiters (s : State) (d : Nat) : List FqWait := (dieOf s d).fqWait.filter fun e => decide (s.now ≤ e.at_ + 256)

/-- The entry of a request among those that hold: each request of a unit has its own place (R229). -/
def FqWait.isOf (e : FqWait) (kind core va : Nat) : Bool := e.kind = kind && e.core = core && e.gran = va / 2^16

/-- A request meets a full fault queue: it takes its place in age order, or keeps it. -/
def fqHold (d kind core va : Nat) (s : State) : State :=
  let l := fqWaiters s d
  let mine (e : FqWait) : Bool := e.isOf kind core va
  modDie s d fun x =>
    { x with fqWait := if l.any mine then l.map fun e => if mine e then { e with at_ := s.now } else e else l ++ [⟨kind, core, va / 2^16, s.now⟩] }

/-- The state in which a wait of the word at pc begins or goes on: a wait for something else ends first, with its record. -/
def turnWait (kind : Nat) (obj : Word) (sem : Option (Nat × Nat × Int)) (s : State) : State :=
  match (curCtx s).waiting with
  | some w => if w.kind = kind && w.obj == obj && w.sem == sem then s else endWait s
  | none => s

/-- A wait that STALLTO limits (R379) has no sooner than this cycle lasted longer than it allows; the kinds it governs are 1 to 7. A wait
whose counter or event has come by the end of that cycle completes. -/
def limitAt (s : State) (part : Nat) (x : Ctx) : Option Nat :=
  match x.waiting with
  | none => none
  | some w =>
    let lim := stallLimit s part
    if 1 ≤ w.kind && w.kind ≤ 7 && lim ≠ 0 && !w.met && !(w.kind = 5 && x.latch) then some (w.since + lim + 1) else none

/-- The word at pc waits (R84): it is evaluated again in the next cycle. A wait that has lasted longer than STALLTO allows
ends with BUDGET at the end of the cycle (`limitAt`). -/
def blockOn (kind : Nat) (obj : Word) (sem : Option (Nat × Nat × Int)) (s0 : State) : State :=
  let s := turnWait kind obj sem s0
  let w := (curCtx s).waiting.getD { kind := kind, obj := obj, since := s.now, sem := sem }
  let u := if kind = 9 then fqHold (dieOfCore (curCore s)) (ctxNum (curSel s)) (curCore s) obj.toNat s else s
  modCur u fun x => { x with ready := s.now + 1, waiting := some w }

/-- The word at pc waits, for no counter. -/
def block (kind : Nat) (obj : Word) (s : State) : State := blockOn kind obj none s

/-- The word at pc waits for an interlocked result until cycle `t` (R84). -/
def blockTill (t : Nat) (s0 : State) : State :=
  let s := turnWait 0 0 none s0
  modCur s fun x => { x with ready := t, rests := true, waiting := some (x.waiting.getD { kind := 0, obj := 0, since := s.now }) }

/-- A grid load waits (kind 8); past 2^20 cycles its stall times out (spec/14_grids.md R313). -/
def blockGrid (obj val : Word) (s0 : State) : State :=
  let s := turnWait 8 obj none s0
  let since := ((curCtx s).waiting.map (·.since)).getD s.now
  let t := modCur s fun x => { x with ready := s.now + 1, waiting := some { kind := 8, obj := obj, since := since, val := val } }
  if 2^20 < s.now - since then { t with events := t.events ++ [⟨s.cur, some .gridLoadTimeout⟩] } else t

/-- Take a trap at the word at pc (spec/18_recovery.md R397, R60): words in flight complete, TCAUSE, TPC and TVAL are written,
PPRIV takes PRIV, the context runs privileged from TVEC in the third cycle. -/
def takeTrap (code : Nat) (val : Word) (s : State) : State :=
  let s1 := traceCtx 0x30 1 code val.toNat 0 0 (endWait s)
  modCur s1 fun x =>
    { landAll x with
      tcause := BitVec.ofNat 8 code, tpc := x.pc, tval := val, ppriv := x.priv, priv := true, pc := x.tvec,
      ready := s.now + 3, waiting := none, remote := .idle, got := [], used := 0 }

/-- Return from a trap (spec/04_contexts.md R98): to TPC with bits [1:0] ignored, PRIV from PPRIV. -/
def returnTrap (st : Nat) (s : State) : State :=
  let x := curCtx s
  modCur (branchTo (x.tpc &&& ~~~(3 : Word)) st s) fun y => { y with priv := x.ppriv }

/-- Freeze a core at one clock edge (spec/19_observation.md R409). -/
def debugStop (core cause : Nat) (s : State) : State :=
  let scy := scyOf s core
  let t := modCore s core fun k => { k with stopped := true, scyBase := scy, scyFrom := s.now }
  traceUnit (dieOfCore core) 0 core (corePart s core) 0x35 1 0 cause scy 0 0 t

/-- The outcome of a context's word whose operation stopped. -/
def stopped (e : Stop) (s : State) : State :=
  match e with
  | .trap code val => takeTrap code val s
  | .trapIn t code val => takeTrap code val t
  | .wait kind obj => block kind obj s
  | .waitIn t kind obj => block kind obj t
  | .waitGrid obj val => blockGrid obj val s
  | .waitSem kind obj die idx thr => blockOn kind obj (some (die, idx, thr)) s
  | .till t => blockTill t s
  | .rest t => modCur s fun x => { x with ready := t, rests := true }
  | .asked t _ => t
  | .left t => t
  | .debug cause => debugStop (curCore s) cause (modCur s fun x => { x with passAt := some x.pc })

/-- A word of a context that goes on to the next word. -/
def ctxWord (st : BitVec 3) (body : Op Unit) (s : State) : Outcome State Fault Refusal :=
  match body s with
  | .ok (_, t) => .next (retire st.toNat t)
  | .error e => .next (stopped e s)

/-- A word of a context that may branch: to the target answered, if any. -/
def ctxBranch (st : BitVec 3) (body : Op (Option Word)) (s : State) : Outcome State Fault Refusal :=
  match body s with
  | .ok (none, t) => .next (retire st.toNat t)
  | .ok (some tgt, t) => .next (branchTo tgt st.toNat t)
  | .error e => .next (stopped e s)

/-- A word of a context that sets its own continuation. -/
def ctxFree (body : Op Unit) (s : State) : Outcome State Fault Refusal :=
  match body s with
  | .ok (_, t) => .next t
  | .error e => .next (stopped e s)

/-- Privileged words raise PRIV at user level with TVAL the word (R98, R399). -/
def privileged (i : Instr) : Op Unit := do
  raiseIf (!(← gets curCtx).priv) tPRIV (wordOf i)

/-! Request entries (spec/04_contexts.md R85). -/

/-- The entries a context still holds. -/
def heldBy (now : Nat) (x : Ctx) : Nat :=
  (x.reqs.filter fun r => match r.due with
    | some t => decide (now < t)
    | none => true).length

/-- Whether a context that holds `own` may take an entry while the others hold `a` and `b`. -/
def entryFree (own a b : Nat) : Bool := own < 8 || (own + a + b < 64 && (8 - a) + (8 - b) ≤ 64 - (own + a + b + 1))

/-- What the other two contexts hold. -/
def othersHold (s : State) : Nat × Nat :=
  let k := coreOf s (curCore s)
  match curSel s with
  | .L => (heldBy s.now k.c, heldBy s.now k.s)
  | .C => (heldBy s.now k.l, heldBy s.now k.s)
  | .S => (heldBy s.now k.l, heldBy s.now k.c)

/-- Wait behind an acquiring access whose answer is outstanding (spec/11_ordering.md R252). -/
def waitAcquired : Op Unit := do
  waitIf (!(← gets curCtx).acq.isEmpty) kQuiet 0

/-- A request entry is free for the issuing context, and no acquiring access of it is outstanding. -/
def entryNow (s : State) : Bool :=
  (curCtx s).acq.isEmpty && entryFree (heldBy s.now (curCtx s)) (othersHold s).1 (othersHold s).2

/-- Wait for a free request entry, and behind an acquiring access whose answer is outstanding (spec/11_ordering.md R252). -/
def needEntry : Op Unit := do
  waitAcquired
  let s ← gets id
  let o := othersHold s
  waitIf (!entryFree (heldBy s.now (curCtx s)) o.1 o.2) 0 0

/-- Hold an entry until cycle `now + lat`. -/
def holdEntry (lat : Nat) : Op Unit := upd fun s => modCur s fun x => { x with reqs := x.reqs ++ [⟨0, some (s.now + lat)⟩] }

/-- The cycle by which every request and result of a context with a known end has completed; none while one waits for an
answer from outside. -/
def quietAt (x : Ctx) : Option Nat :=
  if x.reqs.all (fun r => r.due.isSome) then
    some ((x.reqs.map fun r => r.due.getD 0).foldl max ((x.pend.map (·.due)).foldl max (match x.accept with
      | some m => m.at_
      | none => 0)))
  else none

/-- Wait until every earlier word of the context has completed (R99). -/
def waitQuiet : Op Unit := do
  let s ← gets id
  match quietAt (curCtx s) with
  | some t => if s.now < t then stop (.rest t) else pure ()
  | none => stop (.wait kQuiet 0)

/-- The peers that the context awaits an answer from. -/
def openPeers (s : State) : List Nat :=
  (s.fab.asked.filter fun a => (curCtx s).reqs.any fun r => r.due.isNone && r.id == a.id).map (·.peer.toNat)

/-! Events of later cycles. -/

/-- Enter an input among those of its cycle. -/
def insertInput (x : Input) (l : List Input) : List Input :=
  match l with
  | [] => [x]
  | y :: r => if x.time < y.time then x :: y :: r else y :: insertInput x r

/-- An event of a later cycle, in its place among the actions of it. -/
def later (t : Nat) (e : Sched) (s : State) : State := { s with agenda := insertInput ⟨t, e⟩ s.agenda }

/-- A requester that the period's slots refuse is served in the next (spec/01_device.md R13). -/
def nextPeriod (i : Instr) (s : State) : State := later ((s.now / 4096 + 1) * 4096) ⟨s.cur, some i⟩ s

/-! Slots (spec/17_scheduling.md R376). Only those of trace and scrub are counted: the others change only timing (log 58). -/

/-- The number of a resource. -/
def resNum (r : Resource) : Nat :=
  match r with
  | .dram d c => 1000 * d.toNat + c % 1000
  | .l2 d n => 4000 + 32 * d.toNat + n.toNat
  | .bridge a b => 5000 + 4 * a.toNat + b.toNat
  | .port p => 6000 + p.toNat
  | .halo d => 7000 + d.toNat
  | .collective d => 7010 + d.toNat
  | .hss d => 7020 + d.toNat
  | .trace d => 7030 + d.toNat
  | .scrub d => 7040 + d.toNat

/-- The classes of a resource: demand, prefetch, write-back and host of a DRAM channel and an L2 slice (spec/11_ordering.md R255); data, HE
and XE of a die bridge; the four VCs and relay of a port; signal and wait of the semaphore store. -/
def resClasses (r : Resource) : Nat :=
  match r with
  | .dram _ _ => 4
  | .l2 _ _ => 4
  | .bridge _ _ => 3
  | .port _ => 5
  | .hss _ => 2
  | _ => 1

/-- The key of a partition's slots of a resource and class. -/
def slotKey (r : Resource) (p : Nat) (cls : Nat := 0) : Nat := 64 * resNum r + 8 * (cls % 8) + p % 8
/-- The resource of a key. -/
def slotRes (k : Nat) : Nat := k / 64

/-- Use a slot. -/
def useSlot (k : Nat) (s : State) : State := { s with slotsUsed := tput s.slotsUsed k (tget s.slotsUsed k 0 + 1) }
/-- The scrub slots of a die's period are used up. -/
def scrubFull (s : State) (d : Nat) : Bool := decide (4096 ≤ tget s.slotsUsed (slotKey (.scrub (BitVec.ofNat 2 d)) 0) 0)
/-- Use a scrub slot of a die: they have one class, the device's. -/
def useScrub (d : Nat) (s : State) : State := useSlot (slotKey (.scrub (BitVec.ofNat 2 d)) 0) s

end Sys2Proof.Machine
end

