-- ==== Sys2Proof/Machine/Frame.lean ====
section
/-! DEFINITION. Grid descriptors, frames and faces: geometry only (spec/14_grids.md R300 to R305). -/

namespace Sys2Proof.Machine

/-! Fields of a descriptor (R300). -/

/-- A field of a grid's descriptor. -/
def Grid.f (g : Grid) (off n : Nat) : Nat := bytesNat ((g.desc.drop off).take n)
def Grid.ndim (g : Grid) : Nat := g.f 0 1
def Grid.fmt (g : Grid) : Nat := g.f 1 1
def Grid.ncomp (g : Grid) : Nat := g.f 2 1
def Grid.gw (g : Grid) : Nat := g.f 3 1
def Grid.depth (g : Grid) : Nat := g.f 4 1
def Grid.size (g : Grid) (k : Nat) : Nat := g.f (8 + 4 * k) 4
def Grid.pcnt (g : Grid) (k : Nat) : Nat := g.f (0x14 + 2 * k) 2
/-- The boundary rule of a face. -/
def Grid.rule (g : Grid) (f : Nat) : Nat := nbits (g.f 0x1C 4) (3 * f) 3
def Grid.fixv (g : Grid) (f : Nat) : Nat := g.f (0x20 + 4 * f) 4
def Grid.pmap (g : Grid) : Nat := g.f 0x40 8
def Grid.state (g : Grid) : Nat := g.f 0x48 8

/-- Bits of an element of a format (spec/02_numbers.md R19): 32, 16 or 8. -/
def fmtBits (f : Nat) : Nat := if f = 1 || f = 5 then 32 else if f = 2 || f = 6 then 16 else 8
/-- Element bytes. -/
def Grid.eb (g : Grid) : Nat := fmtBits g.fmt / 8
/-- Bytes of a cell. -/
def Grid.cellBytes (g : Grid) : Nat := g.ncomp * g.eb

/-! Partitions of the grid and the map. -/

def mapPeer (e : Nat) : Nat := nbits e 0 12
def mapCore (e : Nat) : Nat := nbits e 12 7
def mapBase (e : Nat) : Nat := nbits e 32 22
/-- Partitions. -/
def Grid.parts (g : Grid) : Nat := g.pcnt 0 * g.pcnt 1 * g.pcnt 2
/-- Map entry `p`. -/
def Grid.entry (g : Grid) (p : Nat) : Nat := nth g.map p 0
/-- The partition whose frame lies on a core of a peer. -/
def Grid.idxOf (g : Grid) (peer core : Nat) : Option Nat :=
  (upto g.map.length).find? fun p => mapPeer (g.entry p) = peer && mapCore (g.entry p) = core
/-- Coordinate k of partition `p`. -/
def Grid.coord (g : Grid) (p k : Nat) : Nat :=
  match k with
  | 0 => p % max 1 (g.pcnt 0)
  | 1 => p / max 1 (g.pcnt 0) % max 1 (g.pcnt 1)
  | _ => p / max 1 (g.pcnt 0) / max 1 (g.pcnt 1)
/-- The partition at coordinates. -/
def Grid.idxAt (g : Grid) (c0 c1 c2 : Nat) : Nat := c0 + g.pcnt 0 * (c1 + g.pcnt 1 * c2)

/-! Frames (R303). -/

/-- Frame width along k. -/
def Grid.h (g : Grid) (k : Nat) : Nat := if k < g.ndim then g.gw * g.depth else 0
/-- Interior cells along k. -/
def Grid.n (g : Grid) (k : Nat) : Nat := g.size k / max 1 (g.pcnt k)
/-- Frame cells along k. -/
def Grid.ext (g : Grid) (k : Nat) : Nat := g.n k + 2 * g.h k
/-- Cells of a frame. -/
def Grid.cells (g : Grid) : Nat := g.ext 0 * g.ext 1 * g.ext 2
/-- Bytes of a frame. -/
def Grid.frameBytes (g : Grid) : Nat := g.cells * g.cellBytes
/-- Coordinate k of frame cell `i`. -/
def Grid.cellAt (g : Grid) (i k : Nat) : Int :=
  match k with
  | 0 => ((i % max 1 (g.ext 0) : Nat) : Int) - (g.h 0 : Nat)
  | 1 => ((i / max 1 (g.ext 0) % max 1 (g.ext 1) : Nat) : Int) - (g.h 1 : Nat)
  | _ => ((i / max 1 (g.ext 0) / max 1 (g.ext 1) : Nat) : Int) - (g.h 2 : Nat)
/-- Frame cell at coordinates. -/
def Grid.cellIdx (g : Grid) (i0 i1 i2 : Int) : Nat :=
  (((i2 + (g.h 2 : Nat)) * (g.ext 1 : Nat) + (i1 + (g.h 1 : Nat))) * (g.ext 0 : Nat) + (i0 + (g.h 0 : Nat))).toNat

/-! Faces (R304). -/

/-- The face that owns a coordinate of dimension k, if it lies outside the interior. -/
def Grid.sideOf (g : Grid) (i k : Nat) : Option Nat :=
  if g.cellAt i k < 0 then some (2 * k) else if (g.n k : Int) ≤ g.cellAt i k then some (2 * k + 1) else none
/-- The face that owns frame cell `i`; none for the interior. -/
def Grid.owner (g : Grid) (i : Nat) : Option Nat :=
  match g.sideOf i 2 with
  | some f => some f
  | none =>
    match g.sideOf i 1 with
    | some f => some f
    | none => g.sideOf i 0
/-- The fill region of a face. -/
def Grid.region (g : Grid) (f : Nat) : List Nat := (upto g.cells).filter fun i => g.owner i == some f
/-- The interior. -/
def Grid.interior (g : Grid) : List Nat := (upto g.cells).filter fun i => (g.owner i).isNone
/-- Used faces. -/
def Grid.faces (g : Grid) : Nat := 2 * g.ndim
/-- Face `f` of partition `p` lies on the edge of the grid. -/
def Grid.atEdge (g : Grid) (p f : Nat) : Bool :=
  if f % 2 = 0 then g.coord p (f / 2) = 0 else g.coord p (f / 2) + 1 = g.pcnt (f / 2)
/-- It is filled by a boundary rule: physical and not periodic (R305). -/
def Grid.physical (g : Grid) (p f : Nat) : Bool := g.atEdge p f && g.rule f != 0
/-- The partition beyond face `f`, around the edge where it is periodic. -/
def Grid.neighbour (g : Grid) (p f : Nat) : Nat :=
  let k := f / 2
  let m := max 1 (g.pcnt k)
  let c (j : Nat) : Nat :=
    if j = k then (if f % 2 = 0 then (g.coord p k + m - 1) % m else (g.coord p k + 1) % m) else g.coord p j
  g.idxAt (c 0) (c 1) (c 2)

/-! Frames of a core. -/

/-- The grids registered on a core's die whose map names the core: grid, partition index, FBASE. -/
def framesOf (s : State) (core : Nat) : List (Grid × Nat × Nat) :=
  (dieOf s (dieOfCore core)).he.grids.filterMap fun g =>
    match g.idxOf s.peer.toNat core with
    | some p => some (g, p, mapBase (g.entry p))
    | none => none

/-- The frame that holds a scratchpad byte. -/
def frameAt (s : State) (core off : Nat) : Option (Grid × Nat × Nat) :=
  (framesOf s core).find? fun x => decide (x.2.2 ≤ off) && decide (off < x.2.2 + x.1.frameBytes)

/-- The face that owns a byte of a frame. -/
def faceOfByte (g : Grid) (base off : Nat) : Option Nat := g.owner ((off - base) / max 1 g.cellBytes)

/-- A byte in a fill region whose contents are unspecified (R316). -/
def ghostOpen (s : State) (core off : Nat) : Bool :=
  !(coreOf s core).ghostStale.isEmpty &&
    match frameAt s core off with
    | some (g, _, base) =>
      match faceOfByte g base off with
      | some f => (coreOf s core).ghostStale.contains (g.id, f)
      | none => false
    | none => false

/-- A write of `n` bytes into a fill region, other than one of rule 5, leaves the region unspecified until its face is tagged
(R316). -/
def ghostNote (s : State) (core off n : Nat) : State :=
  if (framesOf s core).isEmpty then s else
  let hits := (upto n).filterMap fun i =>
    match frameAt s core (off + i) with
    | some (g, p, base) =>
      match faceOfByte g base (off + i) with
      | some f => if g.atEdge p f && g.rule f = 5 then none else some (g.id, f)
      | none => none
    | none => none
  if hits.isEmpty then s else modCore s core fun k => { k with ghostStale := k.ghostStale ++ hits.eraseDups }

end Sys2Proof.Machine
end

