-- ==== Sys2Proof/Machine/Access.lean ====
section
/-! DEFINITION. Memory as the machine reaches it: windows, translation, the fault queue, range checks, lines and their
copies on other dies, scratchpad bytes, acquire and release (spec/06_scratchpad.md, spec/10_pages.md,
spec/11_ordering.md). -/

namespace Sys2Proof.Machine

/-! Keys of `mem`. -/

/-- The key of a scratchpad byte. -/
def scrKey (core off : Nat) : Nat := 2^52 + core * 2^22 + off

/-- Whether a byte range holds an uncorrectable error. -/
def hasBad (s : State) (k n : Nat) : Bool := s.bad.any fun w => decide (k < 8 * w + 8) && decide (8 * w < k + n)

/-- Whether `k` lies in a listed range. -/
def inRanges (l : List (Nat × Nat)) (k : Nat) : Bool := l.any fun r => decide (r.1 ≤ k) && decide (k < r.2)

/-- The unit kind of an agent (spec/06_scratchpad.md R141); 15 for one that has none. -/
def agentKind (a : Agent) : Nat :=
  match a with
  | .ctx _ x => ctxNum x
  | .me _ => 3
  | .ve _ => 4
  | .ce _ => 5
  | .he _ => 6
  | .xe _ => 7
  | _ => 15

/-- A byte that the acting unit reads as the consumer of a full slot which another unit has stored into (R144). -/
def spoiledFor (s : State) (core off : Nat) : Bool :=
  let k := scrKey core off
  (coreOf s core).spoiled.any fun r =>
    decide (r.lo ≤ k) && decide (k < r.hi) && r.by_ != s.cur && r.cons = agentKind s.cur && agentCore s.cur = core

/-- A byte of an engine's mark that has been written: its inner layout is not given (spec/18_recovery.md R382). -/
def engMarkByte (k : CoreSt) (off : Nat) : Bool :=
  (k.meMarked && decide (0x2F2000 ≤ off) && decide (off < 0x2F2200)) || (k.veMarked && decide (0x2F2200 ≤ off) && decide (off < 0x2F3600))

/-- A scratchpad byte whose value the spec leaves open to the acting unit: in a full slot that was stored into (spec/06_scratchpad.md
R144), in an untagged ghost (spec/14_grids.md R316), or in an engine's mark. -/
def openByte (s : State) (core off : Nat) : Bool :=
  engMarkByte (coreOf s core) off || spoiledFor s core off || ghostOpen s core off

/-- A scratchpad byte as a reader obtains it; open bytes are free values (log 1). -/
def scrByte (s : State) (core off i : Nat) : Byte :=
  if openByte s core off then Config.freeByte (s.free + i) else bget s.mem (scrKey core off)

/-- `n` scratchpad bytes from `off`, `i` the number of the first. -/
def scrBytes (s : State) (core off i n : Nat) : List Byte :=
  match n with
  | 0 => []
  | n + 1 => scrByte s core off i :: scrBytes s core (off + 1) (i + 1) n

/-- `n` scratchpad bytes as a little-endian number. -/
def scrRead (s : State) (core off n : Nat) : Nat := bytesNat (scrBytes s core off 0 n)

/-- Storing removes the uncorrectable error of every 8-byte word that the store covers whole (R135). -/
def healBad (s : State) (k n : Nat) : State :=
  { s with bad := s.bad.filter fun w => !(decide (k ≤ 8 * w) && decide (8 * w + 8 ≤ k + n)) }

/-- Store bytes at a key. -/
def storeBytes (s : State) (k : Nat) (l : List Byte) : State :=
  let t := { s with mem := wrBytes s.mem k l }
  if s.bad.isEmpty then t else healBad t k l.length

/-- Store `n` bytes of a number in a scratchpad. -/
def scrWrite (s : State) (core off n v : Nat) : State := storeBytes s (scrKey core off) (natBytes n v)

/-- A system-area field of a core, read as the device keeps it. -/
def sysRead (s : State) (core off n : Nat) : Nat := rdN s.mem (scrKey core off) n
/-- Write a system-area field. -/
def sysWrite (s : State) (core off n v : Nat) : State := { s with mem := wrN s.mem (scrKey core off) n v }

/-! Ring and tile descriptors and slot headers (spec/06_scratchpad.md R138, R140, R142). -/

/-- Descriptor offset of ring or tile `id`. -/
def descOff (id : Nat) : Nat := if id < 16 then 0x2F4000 + 64 * id else 0x2F4400 + 16 * (id - 16)
/-- Header offset of slot `slot` of `id`. -/
def hdrOff (id slot : Nat) : Nat := if id < 16 then 0x2F8000 + 1024 * id + 16 * slot else 0x2F4600 + 16 * (id - 16)

/-- A descriptor's fields. -/
structure Desc where
  base : Nat
  slotb : Nat
  depth : Nat
  en : Bool
  transom : Bool
  prod : Nat
  cons : Nat
  head : Nat
  tail : Nat
  deriving DecidableEq, Repr

/-- Read a descriptor. -/
def descOf (s : State) (core id : Nat) : Desc :=
  let o := descOff id
  let f := sysRead s core (o + 9) 1
  let u := sysRead s core (o + 10) 1
  ⟨sysRead s core o 4 % 2^22, sysRead s core (o + 4) 4, sysRead s core (o + 8) 1, f % 2 = 1, f / 2 % 2 = 1, u % 16, u / 16,
    sysRead s core (o + 12) 1, sysRead s core (o + 13) 1⟩

/-- STATE of a slot: 0 empty, 1 full, 2 retired-pending. -/
def slotState (s : State) (core id slot : Nat) : Nat := sysRead s core (hdrOff id slot) 1 % 4
/-- Note that a slot's state changes in this cycle (R145). -/
def noteSlot (s : State) (core id slot : Nat) : State :=
  modCore s core fun k =>
    { k with slotOld := (k.slotOld.filter fun e => e.cycle = s.now) ++ [⟨s.now, id, slot, slotState s core id slot⟩] }
/-- The first change of a slot in this cycle that satisfies `f`. -/
def changed (s : State) (core id : Nat) (f : SlotOld → Bool) : Option SlotOld :=
  (coreOf s core).slotOld.find? fun e => e.cycle = s.now && e.id = id && f e
/-- The state of a slot as a waiting word of this cycle sees it (R145). -/
def slotSeen (s : State) (core id slot : Nat) : Nat :=
  match changed s core id fun e => e.slot = slot with
  | some e => e.old
  | none => slotState s core id slot
/-- HEAD as a waiting word of this cycle sees it. -/
def headSeen (s : State) (core id : Nat) (d : Desc) : Nat :=
  match changed s core id fun e => e.old = 1 with
  | some e => e.slot
  | none => d.head
/-- TAIL as a waiting word of this cycle sees it. -/
def tailSeen (s : State) (core id : Nat) (d : Desc) : Nat :=
  match changed s core id fun e => e.old = 0 with
  | some e => e.slot
  | none => d.tail
/-- Slot HEAD may be popped: it is full, and was when the cycle began. -/
def headFull (s : State) (core id : Nat) (d : Desc) : Bool :=
  slotState s core id d.head = 1 && slotSeen s core id d.head = 1
/-- Slot TAIL may be filled: it is empty, and was when the cycle began. -/
def tailEmpty (s : State) (core id : Nat) (d : Desc) : Bool :=
  slotState s core id d.tail = 0 && slotSeen s core id d.tail = 0
/-- TAG of a slot. -/
def slotTag (s : State) (core id slot : Nat) : Nat := sysRead s core (hdrOff id slot + 2) 2
/-- Scratchpad offset of a slot's data. -/
def slotBase (d : Desc) (slot : Nat) : Nat := d.base + slot * d.slotb

/-- The byte ranges of a core's full slots that meet the keys of a store. -/
def fullHit (s : State) (core off n : Nat) : List (Nat × Nat) :=
  ((upto 48).map fun id =>
    let d := descOf s core id
    if d.en then
      ((upto d.depth).filter fun i =>
        slotState s core id i = 1 && decide (off < slotBase d i + d.slotb) && decide (slotBase d i < off + n)).map fun i => (id, i)
    else []).flatten

/-- The acting unit replays words that have been performed before: its stores write the bytes that they wrote then (spec/18_recovery.md R392,
log 39). -/
def replaying (s : State) : Bool :=
  match s.cur with
  | .ctx _ _ => decide ((curCtx s).ord < (curCtx s).replayTo)
  | .me c => !(coreOf s c.toNat).me.q.refill.isEmpty
  | .ve c => !(coreOf s c.toNat).ve.q.refill.isEmpty
  | _ => false

/-- A store into the bytes of a full slot leaves what its consumer reads unspecified (R144), but for one made again in a replay. -/
def spoil (s : State) (core off n : Nat) : State :=
  if replaying s then s else
  let h := (fullHit s core off n).map fun p =>
    let d := descOf s core p.1
    (⟨scrKey core (slotBase d p.2), scrKey core (slotBase d p.2 + d.slotb), s.cur, d.cons⟩ : Spoil)
  if h.isEmpty then s else modCore s core fun k => { k with spoiled := k.spoiled ++ h.filter fun x => !k.spoiled.contains x }

/-- An uncorrectable error in the data of a full slot turns its TAG to POISON (R135, R143): the full slots that hold an erroneous word of
these bytes. -/
def poisonSlots (s : State) (core off n : Nat) : State :=
  let erroneous (p : Nat × Nat) : Bool :=
    let d := descOf s core p.1
    let lo := max off (slotBase d p.2)
    hasBad s (scrKey core lo) (min (off + n) (slotBase d p.2 + d.slotb) - lo)
  if !hasBad s (scrKey core off) n then s
  else ((fullHit s core off n).filter erroneous).foldl (fun t p => sysWrite t core (hdrOff p.1 p.2 + 2) 2 0xF000) s

/-- Stores to these offsets, taken together, heal the words that they cover whole (R135). -/
def healOffs (s : State) (core : Nat) (offs : List Nat) : State :=
  if s.bad.isEmpty then s
  else
    let ks := offs.map (scrKey core)
    { s with bad := s.bad.filter fun w => !(upto 8).all fun i => ks.contains (8 * w + i) }

/-- A store that covers part of an uncorrectable 8-byte word only (R135). -/
def badEdge (s : State) (k n : Nat) : Bool :=
  s.bad.any fun w => decide (k < 8 * w + 8) && decide (8 * w < k + n) && !(decide (k ≤ 8 * w) && decide (8 * w + 8 ≤ k + n))

/-- A slot that is filled afresh, or emptied, reads as stored again. -/
def unspoil (s : State) (core id slot : Nat) : State :=
  let d := descOf s core id
  let lo := scrKey core (slotBase d slot)
  if (coreOf s core).spoiled.isEmpty then s
  else modCore s core fun k => { k with spoiled := k.spoiled.filter fun e => !(e.lo = lo && e.hi = lo + d.slotb) }

/-! Physical memory. -/

/-- A PA in device DRAM (spec/10_pages.md R221). -/
def isDram (pa : Nat) : Bool := decide (pa < 2^38)
/-- A PA in host space. -/
def isHost (pa : Nat) : Bool := decide (2^51 ≤ pa) && decide (pa < 2^52)
/-- The home die of a PA in device DRAM (spec/11_ordering.md R247). -/
def homeDie (pa : Nat) : Nat := pa / 2^36 % 4
/-- The home slice of a PA. -/
def homeSlice (pa : Nat) : Nat := (pa / 2^7 % 32) ^^^ (pa / 2^12 % 32)

/-- ORD, COH and SHV of a leaf (spec/10_pages.md R223). -/
def pteOrd (e : Nat) : Nat := nbits e 6 2
def pteCoh (e : Nat) : Nat := nbits e 8 2
def pteShv (e : Nat) : Bool := nbits e 10 1 = 1

/-- COH in force: host space with COH 0 is uncached (spec/11_ordering.md R247). -/
def cohAt (pa e : Nat) : Nat := if isHost pa && pteCoh e = 0 then 2 else pteCoh e

/-- A remote-homed line that die `d` may hold a copy of: die-coherent (R247, R249). -/
def copyable (d pa e : Nat) : Bool := isDram pa && homeDie pa != d && cohAt pa e == 0

/-- Whether an access by a core of die `d` uses copies of this line: not a strong one, which is performed at its home (R251). -/
def copied (d pa e : Nat) : Bool := copyable d pa e && pteOrd e != 0

/-- The class of a requester in a range check (spec/10_pages.md R237): bit number in OWNERS, and whether it is a host
request. -/
structure ReqClass where
  bit : Nat
  fromHost : Bool

/-- The range check: none if allowed, else the trap code. -/
def rangeCheck (s : State) (pa : Nat) (r : ReqClass) : Option Nat :=
  if !isDram pa then none
  else
    match s.ranges.find? fun g => decide (g.base ≤ pa / 2^16) && decide (pa / 2^16 ≤ g.limit) with
    | some g =>
      if g.owners.getLsbD r.bit && !(g.isSealed && r.fromHost) then none else if g.isSealed then some tSEAL else some tPROT
    | none => some tPROT

/-- The range check of every byte from `pa`: the refusal at the first granule that has one. -/
def rangeCheckAll (s : State) (pa n : Nat) (r : ReqClass) : Option Nat :=
  (rangeCheck s pa r).orElse fun _ =>
    (countUp ((pa + n - 1) / 2^16 - pa / 2^16) (pa / 2^16 + 1)).findSome? fun g => rangeCheck s (g * 2^16) r

/-! The knock page (spec/16_launch.md R342, R344). -/

/-- The PA of a queue's record. -/
def lqRec (s : State) (d q : Nat) : Nat := (dieOf s d).cp.lqbase + 256 * q
/-- A PA of the map (R221). -/
def mapped (pa : Nat) : Bool := isDram pa || isHost pa

/-- Read `n` bytes at a PA for the hardware's own tables; a PA outside the map reads zero (spec/10_pages.md R221). -/
def hwRead (s : State) (pa n : Nat) : Nat := if mapped pa then rdN s.mem pa n else 0
/-- Write `n` bytes at a PA for the hardware's own tables; nothing is written outside the map. DESIGN CHOICE (log 83): the spec names no class for
what the hardware itself reads and writes by PA (launch-queue records, slot table, fault-queue mirror), and no range check is made. -/
def hwWrite (s : State) (pa n v : Nat) : State := if mapped pa then { s with mem := wrN s.mem pa n v } else s
/-- PART of a queue's record. -/
def lqPart (s : State) (d q : Nat) : Nat := hwRead s (lqRec s d q + 9) 1
/-- The knock word that a PA lies in: die and queue. A die whose LQBASE is zero has none. -/
def knockAt (s : State) (pa : Nat) : Option (Nat × Nat) :=
  match (upto 4).find? fun d =>
      let b := (dieOf s d).cp.lqbase
      b != 0 && decide (b + 2^20 ≤ pa) && decide (pa < b + 2^20 + 2^15) with
  | some d => some (d, (pa - (dieOf s d).cp.lqbase - 2^20) / 8)
  | none => none

/-! Translation (spec/10_pages.md R222 to R229). -/

/-- The index of a VA at a level. -/
def vaIndex (lvl va : Nat) : Nat :=
  match lvl with
  | 0 => nbits va 48 8
  | 1 => nbits va 39 9
  | 2 => nbits va 30 9
  | 3 => nbits va 21 9
  | _ => nbits va 16 5

/-- log2 of the bytes that a leaf at a level maps. -/
def lvlShift (lvl : Nat) : Nat := if lvl = 2 then 30 else if lvl = 3 then 21 else 16

/-- Whether a leaf is malformed at its level. -/
def badLeaf (lvl pte : Nat) : Bool :=
  decide (lvl < 2) || pteOrd pte == 3 || pteCoh pte == 3 || nbits pte 26 2 != 0 || (!pteShv pte && nbits pte 11 12 != 0) ||
    (decide (lvl = 3) && nbits pte 28 5 != 0) || (decide (lvl = 2) && nbits pte 28 14 != 0)

/-- Whether a non-leaf at a level is malformed: nonzero reserved bits, or a next table not aligned to its size (R222). -/
def badNode (lvl pte : Nat) : Bool :=
  decide (4 ≤ lvl) || nbits pte 2 6 != 0 || nbits pte 52 12 != 0 || (decide (lvl < 3) && nbits pte 8 4 != 0)

/-- A walk of partition `p` from a table at level `lvl`: a level and a leaf, or the reason of a walk fault, or 16 plus the trap code of a
refusal. An entry outside the map is walk fault 3 (R221); the range check covers the reads of tables too (R237). `fuel` is the levels
left. -/
def walkGo (s : State) (p va : Nat) (fuel lvl tbl : Nat) : Except Nat (Nat × Nat) :=
  match fuel with
  | 0 => .error 2
  | fuel + 1 =>
    let a := tbl + 8 * vaIndex lvl va
    if !mapped a then .error 3
    else
      match rangeCheck s a ⟨p, false⟩ with
      | some code => .error (16 + code)
      | none =>
        let pte := rdN s.mem a 8
        if pte % 2 = 0 then .error 1
        else if pte / 2 % 2 = 0 then
          if badNode lvl pte then .error 2 else walkGo s p va fuel (lvl + 1) (nbits pte 8 44 * 2^8)
        else if badLeaf lvl pte then .error 2
        else .ok (lvl, pte)

/-- A walk of partition `p`'s tables (R224). -/
def walk (s : State) (p va : Nat) : Except Nat (Nat × Nat) := walkGo s p va 5 0 (seenPart s p).ptbr.toNat

/-- An entry that translates `va` in partition `p`. -/
def tlbFind (l : List TlbE) (p va : Nat) : Option TlbE :=
  l.find? fun e => e.part.toNat = p && e.vpn = va / 2^lvlShift e.lvl

/-- Add an entry to a core's micro-TLB of 64 and its die's TLB of 32,768, the oldest giving way (R226, log 5). -/
def tlbFill (s : State) (core : Nat) (e : TlbE) : State :=
  let s1 := modCore s core fun k => { k with utlb := (e :: k.utlb).take 64 }
  modDie s1 (dieOfCore core) fun d => { d with tlb := (e :: d.tlb).take 32768 }

/-- What an access needs of a page. -/
structure Need where
  r : Bool
  w : Bool
  x : Bool
  /-- An atomic: a shuttered page is refused (R234). -/
  atomic : Bool := false

/-- Whether an access writes. -/
def Need.store (n : Need) : Bool := n.w

/-- The PA behind a shuttered page for a die (R234), or none where it raises PROT. -/
def shutterPa (s : State) (die p pte lvl va : Nat) (n : Need) : Option Nat :=
  let i := nbits pte 11 12
  let sh := tget s.shutters i {}
  let off := nbits pte 28 36 * 2^16 + va % 2^lvlShift lvl
  let front := tget (dieOf s die).sel i false
  if n.atomic || !sh.en || sh.owner.toNat != p || sh.size * 2^16 ≤ off then none
  else if front == n.w then some (sh.back0 + off) else some (sh.back1 + off)

/-- The outcome of translating an access. -/
inductive Xlat where
  | ok (pa pte : Nat)
  /-- A trap: PROT, or a table that the range check refuses. -/
  | refused (code : Nat)
  | walkFault (reason : Nat)
  deriving DecidableEq, Repr

/-- The outcome of a walk that yields no leaf. -/
def Xlat.ofWalk (r : Nat) : Xlat := if 16 ≤ r then .refused (r - 16) else .walkFault r

/-- The host refuses the translation of an access to its space (spec/20_host.md R416). -/
def atsRefused (s : State) (pa : Nat) : Bool := isHost pa && Config.atsRefuses (pa / 4096) s.now

/-- Permissions and the PA of a leaf (R224). -/
def checkLeaf (s : State) (die p : Nat) (user : Bool) (n : Need) (va lvl pte : Nat) : Xlat :=
  if nbits pte 23 3 != p || (user && nbits pte 5 1 = 0) || (n.r && nbits pte 2 1 = 0) || (n.w && nbits pte 3 1 = 0) ||
      (n.x && nbits pte 4 1 = 0) then .refused tPROT
  else
    match (if pteShv pte then shutterPa s die p pte lvl va n else some (nbits pte 28 36 * 2^16 + va % 2^lvlShift lvl)) with
    | none => .refused tPROT
    | some pa => if mapped pa && !atsRefused s pa then .ok pa pte else .walkFault 3

/-- What a TLB entry gives an access. A leaf whose PA lies outside the map serves none: its walk fault comes from the tables, which a
retirement of the fault reads again (R232). -/
def tlbServe (s : State) (d p : Nat) (user : Bool) (n : Need) (va : Nat) (e : Option TlbE) : Option (TlbE × Xlat) :=
  match e with
  | none => none
  | some e =>
    match checkLeaf s d p user n va e.lvl e.pte.toNat with
    | .walkFault _ => none
    | x => some (e, x)

/-- A walk for an access: what it yields fills a TLB, but for a leaf that is itself a walk fault (R224, R226, R232). -/
def walkFill (s : State) (d p : Nat) (user : Bool) (n : Need) (va : Nat) (fill : TlbE → State) : Xlat × State :=
  match walk s p va with
  | .error r => (.ofWalk r, s)
  | .ok (lvl, pte) =>
    match checkLeaf s d p user n va lvl pte with
    | .walkFault r => (.walkFault r, s)
    | x => (x, fill ⟨BitVec.ofNat 3 p, lvl, va / 2^lvlShift lvl, wd pte⟩)

/-- Translate for a core's context or copy engine: micro-TLB, shared TLB, walk; the TLBs take what a walk yields. -/
def translate (s : State) (core p : Nat) (user : Bool) (n : Need) (va : Nat) : Xlat × State :=
  let d := dieOfCore core
  match tlbServe s d p user n va (tlbFind (coreOf s core).utlb p va) with
  | some r => (r.2, s)
  | none =>
    match tlbServe s d p user n va (tlbFind (dieOf s d).tlb p va) with
    | some r => (r.2, modCore s core fun k => { k with utlb := (r.1 :: k.utlb).take 64 })
    | none => walkFill s d p user n va (tlbFill s core)

/-- Translate for a unit that uses only the shared TLB of its die (R226). -/
def translateDie (s : State) (d p : Nat) (n : Need) (va : Nat) : Xlat × State :=
  match tlbServe s d p true n va (tlbFind (dieOf s d).tlb p va) with
  | some r => (r.2, s)
  | none => walkFill s d p true n va fun e => modDie s d fun x => { x with tlb := (e :: x.tlb).take 32768 }

/-! The fault queue (R229 to R231). -/

/-- Write the mirror of a fault-queue entry at FQBASE (R231). -/
def fqMirror (s : State) (d i : Nat) : State :=
  let x := dieOf s d
  let e := tget x.fq i {}
  let info := e.part.toNat + 8 * e.write.toNat + 16 * e.fetch.toNat + 32 * (e.reason % 16) + 2^16 * e.waiters
  let a := x.fqbase + 32 * i
  if !mapped a then s else
  { s with mem := wrN (wrN (wrN (wrN (wrN (wrN s.mem a 8 e.va.toNat) (a + 8) 4 info) (a + 12) 4 (e.unitKind + 16 * e.core))
      (a + 16) 4 e.seq) (a + 20) 4 e.state) (a + 24) 8 0 }

/-- A pending entry of the same partition and 64 KiB granule. -/
def fqMatch (x : Die) (p va i : Nat) : Bool :=
  let e := tget x.fq i {}
  e.state = 1 && e.part.toNat = p && e.va.toNat / 2^16 = va / 2^16

/-- Enter a walk fault of die `d` (R229): the new state, or none where the queue is full or an
older request holds for it. An event of kind PAGEFAULT goes to the
partition's host queue. DESIGN CHOICE (log 79): SEQ is the count of the allocations before it, so that the first entry has 0. -/
def fqEnter (s : State) (d p va : Nat) (write fetch : Bool) (reason unitKind core : Nat)
    (held : List Held) : Option State :=
  let x := dieOf s d
  match (upto 256).find? (fqMatch x p va) with
  | some i =>
    let e := tget x.fq i {}
    some (fqMirror (modDie s d fun y =>
      { y with fq := tput y.fq i { e with waiters := min 65535 (e.waiters + 1), held := e.held ++ held } }) d i)
  | none =>
    let mine (e : FqWait) : Bool := e.isOf unitKind core va
    let first := match fqWaiters s d with
      | [] => true
      | e :: _ => mine e
    match (if first then (upto 256).find? fun i => (tget x.fq i {}).state != 1 else none) with
    | none => none
    | some i =>
      let e : FqE := ⟨wd va, BitVec.ofNat 3 p, write, fetch, reason, 1, unitKind, core, x.fqSeq, 1, held⟩
      let t := fqMirror (modDie s d fun y =>
        { y with fq := tput y.fq i e, fqSeq := y.fqSeq + 1, fqWait := y.fqWait.filter fun e => !mine e }) d i
      some (traceUnit d unitKind core p 0x33 1 0 i va 0 0 (sendEvent (p + 1) 0x20 [] t))

/-! Lines and copies (spec/11_ordering.md R247 to R249). -/

/-- 128 bytes from a key as bits. -/
def lineBits (m : List Host.Cell) (k : Nat) : BitVec 1024 := BitVec.ofNat 1024 (rdN m k 128)

/-- Write the dirty bytes of a copy to its home. -/
def writeBackGo (m : List Host.Cell) (k : Nat) (c : LineCopy) (n : Nat) : List Host.Cell :=
  match n with
  | 0 => m
  | n + 1 =>
    let m1 := writeBackGo m k c n
    if c.dirty.getLsbD n then bput m1 (k + n) (c.data.extractLsb' (8 * n) 8) else m1

/-- What a write-back does to the errors of the home: a dirty word that fails its check is poisoned there (spec/02_numbers.md R36), one
that is whole and sound is healed. -/
def badAfter (bad : List Nat) (line : Nat) (c : LineCopy) : List Nat :=
  let dirt (w : Nat) : Nat := nbits c.dirty.toNat (8 * w) 8
  let lost := (upto 16).filter fun w => dirt w != 0 && c.err.getLsbD w
  let kept := if bad.isEmpty then bad else bad.filter fun x => !(x / 16 = line && dirt (x % 16) = 255 && !c.err.getLsbD (x % 16))
  lost.foldl (fun l w => withOne l (16 * line + w)) kept

/-- Write a die's copy of a line back to its home, under a check of its ECC, if it is dirty. -/
def writeBack (s : State) (d line : Nat) : State :=
  let c := tget (dieOf s d).l2 line {}
  if c.dirty = 0 then s
  else
    modDie { s with mem := writeBackGo s.mem (128 * line) c 128, bad := badAfter s.bad line c } d fun x =>
      { x with l2 := tput x.l2 line { c with dirty := 0, writers := [] } }

/-- Write back and drop a die's copy of a line. -/
def dropL2 (s : State) (d line : Nat) : State :=
  modDie (writeBack s d line) d fun x => { x with l2 := tdel x.l2 line }

/-- A release of package scope or wider: every line dirty for the core is written back (R249). -/
def releaseLines (s : State) (core : Nat) : State :=
  let d := dieOfCore core
  ((dieOf s d).l2.filter fun e => e.2.writers.contains core).foldl (fun t e => writeBack t d e.1) s

/-- Drop a core's copy of a line from its L1. -/
def dropL1 (s : State) (c line : Nat) : State := modCore s c fun k => { k with l1 := tdel k.l1 line }

/-- A strong access of a core to a line that its die may hold a copy of, by a mapping of another kind: the copies leave first, so that
mappings that differ only in ORD stay coherent (R246, R256). -/
def strongHome (s : State) (core pa pte : Nat) : State :=
  if copyable (dieOfCore core) pa pte && pteOrd pte == 0 then dropL1 (dropL2 s (dieOfCore core) (pa / 128)) core (pa / 128) else s

/-- An acquire of package scope or wider: the core's L1 copies of remote-homed lines and its die's L2 copies are dropped, dirty ones
written back first, so that every later load of such a line is served by its home (R249, R259). The copies that other cores read leave
too, which a die may do at any time (log 7). -/
def acquireLines (s : State) (core : Nat) : State :=
  let d := dieOfCore core
  let t := modCore s core fun k => { k with l1 := [] }
  (dieOf s d).l2.foldl (fun t e => dropL2 t d e.1) t

/-- The die's copy of a line, fetched from its home where it has none. -/
def l2Copy (s : State) (d line : Nat) : LineCopy :=
  match tget? (dieOf s d).l2 line with
  | some c => c
  | none =>
    { data := lineBits s.mem (128 * line)
      err := (s.bad.filter fun w => w / 16 = line).foldl (fun b w => b ||| BitVec.ofNat 16 (2^(w % 16))) 0 }

/-- Entries of a core's instruction cache, of its L1 and of a die's L2 (spec/01_device.md R7). -/
def icacheCap : Nat := 1024
def l1Cap : Nat := 512
def l2Cap : Nat := 2^20

/-- The entry that a cache gives up for entry `k`: none where it has that one or has room; which one the spec does not say, so it is a free
choice (log 14). -/
def victim {α : Type} (s : State) (l : Tab α) (cap k : Nat) : Option Nat :=
  if l.length < cap || (tget? l k).isSome then none else (l[Config.freeNat s.free % l.length]?).map (·.1)

/-- A cache without the entry that it gives up for entry `k`. -/
def roomed {α : Type} (s : State) (l : Tab α) (cap k : Nat) : Tab α :=
  match victim s l cap k with
  | some v => tdel l v
  | none => l

/-- Make room for a line in a die's L2: the line given up is written back. -/
def roomL2 (s : State) (d line : Nat) : State :=
  match victim s (dieOf s d).l2 l2Cap line with
  | some v => dropL2 { s with free := s.free + 1 } d v
  | none => s

/-- The bytes that a core's plain load of a remote-homed line obtains: its L1 copy, else the die's L2 copy, else the home's;
the copies it makes. -/
def loadLine (s0 : State) (core line : Nat) : BitVec 1024 × State :=
  match tget? (coreOf s0 core).l1 line with
  | some c => (c.data, s0)
  | none =>
    let d := dieOfCore core
    let s := roomL2 s0 d line
    let c := l2Copy s d line
    let s1 := modDie s d fun x => { x with l2 := tput x.l2 line { c with readers := withOne c.readers core } }
    (c.data, { modCore s1 core fun k => { k with l1 := tput (roomed s k.l1 l1Cap line) line { data := c.data, err := c.err } } with
      free := s1.free + 1 })

/-- The copy that a core's load of a line reads, its L1's or else its die's, has an uncorrectable error in these bytes. -/
def copyErr (s : State) (core pa n : Nat) : Bool :=
  let c := (tget? (coreOf s core).l1 (pa / 128)).getD (l2Copy s (dieOfCore core) (pa / 128))
  (upto 16).any fun w => c.err.getLsbD w && decide (pa % 128 < 8 * w + 8) && decide (8 * w < pa % 128 + n)

/-- Replace `n` bytes from byte `o` of a line. -/
def spliceLine (b : BitVec 1024) (o n v : Nat) : BitVec 1024 :=
  let mask := BitVec.ofNat 1024 ((2^(8 * n) - 1) * 2^(8 * o))
  (b &&& ~~~mask) ||| BitVec.ofNat 1024 (v % 2^(8 * n) * 2^(8 * o))

/-- A core's store to a remote-homed line: into the die's L2, dirty for the core, and through its L1 copy (R249). -/
def storeLine (s0 : State) (core pa n v : Nat) : State :=
  let d := dieOfCore core
  let line := pa / 128
  let o := pa % 128
  let s := roomL2 s0 d line
  let c := l2Copy s d line
  let heal (e : BitVec 16) : BitVec 16 := if n = 8 then e &&& ~~~(BitVec.ofNat 16 (2^(o / 8))) else e
  let c1 : LineCopy := { data := spliceLine c.data o n v, dirty := c.dirty ||| BitVec.ofNat 128 ((2^n - 1) * 2^o),
                         readers := c.readers, writers := withOne c.writers core,
                         err := heal c.err }
  let s1 := modDie s d fun x => { x with l2 := tput x.l2 line c1 }
  match tget? (coreOf s core).l1 line with
  | some l => modCore s1 core fun k => { k with l1 := tput k.l1 line { l with data := spliceLine l.data o n v, err := heal l.err } }
  | none => s1

/-! Access by a context. -/

/-- Where an access goes. -/
inductive Tgt where
  | scr (core off : Nat)
  | phys (pa pte : Nat)
  | remote (peer off : Nat)
  /-- A knock word; `store` for an aligned 8-byte store. -/
  | knock (die queue : Nat) (store : Bool)
  /-- Bytes from `inner` of the answer to a unit's read of another package. -/
  | far (id inner : Nat)
  deriving DecidableEq, Repr

/-- The checks of a scratchpad offset (spec/06_scratchpad.md R137). -/
def scrCheck (va : Word) (off : Nat) (n : Need) : Op Unit := do
  raiseIf (decide (0x300000 ≤ off)) tPROT va
  raiseIf (n.w && decide (0x2F0000 ≤ off)) tPROT va
  raiseIf n.atomic tPROT va

/-- An access to another core's scratchpad needs that core in the issuing partition (R137). -/
def coreInPart (s : State) (p core : Nat) : Bool := (partOf s p).cores.getLsbD core

/-- The byte of the peer map (spec/10_pages.md R240): that of the package's own number has state 3 and the partition's own id. -/
def peerByte (s : State) (p peer : Nat) : Nat :=
  if peer = s.peer.toNat then 3 + 4 * p else (tget (partOf s p).peers peer 0).toNat
/-- The state of a peer for an access; with no valid PEERID every peer is absent (spec/15_fabric.md R321). -/
def peerState (s : State) (p peer : Nat) : Nat := if s.peerValid then peerByte s p peer % 4 else 0

/-- Translate a VA for the issuing context: the PA and the leaf; a refusal is a trap, a walk fault XLATE with an entry, or a wait where the queue is
full (R229, R230). -/
def ctxTranslate (va : Word) (n : Need) : Op (Nat × Nat) := do
  let s ← gets id
  let core := curCore s
  match translate s core (curPart s) (!(curCtx s).priv) n va.toNat with
  | (.refused c, _) => raise c va
  | (.walkFault r, _) =>
    match fqEnter s (dieOfCore core) (curPart s) va.toNat n.w n.x r (ctxNum (curSel s)) core [] with
    | some t => stop (.trapIn t tXLATE va)
    | none => stop (.wait 9 va)
  | (.ok pa pte, t) => do
    upd fun _ => t
    pure (pa, pte)

/-- Resolve the address of a context's access: window checks, translation, range check (R219, R220). -/
def resolve (va : Word) (size : Nat) (n : Need) : Op Tgt := do
  let s ← gets id
  let core := curCore s
  let p := curPart s
  let a := va.toNat
  raiseIf (decide (2^56 ≤ a)) tPROT va
  raiseIf (a % size != 0) tALIGN va
  let top := nbits a 48 8
  if top = 0xFF then raise tPROT va
  else if top = 0xFE then do
    raiseIf (nbits a 22 26 != 0) tPROT va
    scrCheck va (nbits a 0 22) n
    pure (.scr core (nbits a 0 22))
  else if top = 0xFD then do
    raiseIf (nbits a 29 19 != 0) tPROT va
    scrCheck va (nbits a 0 22) n
    raiseIf (nbits a 22 7 != core && !coreInPart s p (nbits a 22 7)) tPROT va
    pure (.scr (nbits a 22 7) (nbits a 0 22))
  else if top = 0xFC then do
    let peer := nbits a 36 12
    let st := peerState s p peer
    raiseIf (decide (st < 2)) tABSENT va
    if st = 2 then stop (.trapIn (sendEvent (p + 1) 0x22 [] s) tDENIED va) else pure ()
    pure (.remote peer (nbits a 0 36))
  else
    do
      let (pa, pte) ← ctxTranslate va n
      match knockAt s pa with
      | some (d, q) => do
        let st := n.w && !n.atomic && size == 8
        raiseIf (st && lqPart s d q != p) tPROT va
        pure (.knock d q st)
      | none =>
        match rangeCheck s pa ⟨p, false⟩ with
        | some code => raise code va
        | none => pure (.phys pa pte)

/-- The last check of a read of `n` bytes at a place: POISON where they are uncorrectable (R220). -/
def readCheck (t : Tgt) (va : Word) (n : Nat) : Op Unit := do
  let s ← gets id
  match t with
  | .scr core off => if hasBad s (scrKey core off) n then stop (.trapIn (poisonSlots s core off n) tPOISON va) else pure ()
  | .phys pa pte =>
    let core := curCore s
    raiseIf (if copied (dieOfCore core) pa pte then copyErr s core pa n else hasBad s pa n) tPOISON va
  | _ => pure ()

/-- The last check of a write: a store narrower than an uncorrectable 8-byte word raises POISON (R135). -/
def writeCheck (t : Tgt) (va : Word) (n : Nat) : Op Unit := do
  let s ← gets id
  match t with
  | .scr core off => if badEdge s (scrKey core off) n then stop (.trapIn (poisonSlots s core off n) tPOISON va) else pure ()
  | _ => pure ()

/-- Read `n` bytes at a place within one line or unit. -/
def readAt (t : Tgt) (va : Word) (n : Nat) : Op Nat := do
  readCheck t va n
  let s ← gets id
  match t with
  | .scr core off => do
    let v := scrRead s core off n
    upd fun s => { s with free := s.free + n }
    pure v
  | .phys pa pte => do
    let core := curCore s
    if copied (dieOfCore core) pa pte then do
      let r := loadLine s core (pa / 128)
      upd fun _ => r.2
      pure (nbits r.1.toNat (8 * (pa % 128)) (8 * n))
    else do
      upd fun s => strongHome s core pa pte
      pure (rdN (← gets id).mem pa n)
  | _ => pure 0

/-- Write `n` bytes at a place. -/
def writeAt (t : Tgt) (va : Word) (n v : Nat) : Op Unit := do
  writeCheck t va n
  let s ← gets id
  match t with
  | .scr core off =>
    upd fun s => scrWrite (ghostNote (spoil s core off n) core off n) core off n v
  | .phys pa pte => do
    let core := curCore s
    if copied (dieOfCore core) pa pte then upd fun s => storeLine s core pa n v
    else upd fun s => storeBytes (strongHome s core pa pte) pa (natBytes n v)
  | .knock d q true =>
    let k : KnockStore := ⟨BitVec.ofNat 2 d, BitVec.ofNat 12 q, BitVec.ofNat 32 v, BitVec.ofNat 32 (v / 2^32), .context (BitVec.ofNat 3 (curPart s))⟩
    upd fun s => { s with events := s.events ++ [⟨.cp (BitVec.ofNat 2 d), some (.knock k)⟩] }
  | _ => pure ()

/-- How long an access takes (log 4): R136 for windows, R87 for an L1 hit. -/
def accessLat (s : State) (t : Tgt) : Nat :=
  let core := curCore s
  match t with
  | .scr c _ => if c = core then Config.latOwn else if dieOfCore c = dieOfCore core then Config.latDie else Config.latBridge
  | .phys pa _ =>
    if (tget? (coreOf s core).l1 (pa / 128)).isSome then Config.latL1
    else if homeDie pa = dieOfCore core then Config.latHome else Config.latRemoteHome
  | .remote _ _ => Config.latRemoteHome
  | .knock _ _ _ => Config.latHome
  | .far _ _ => Config.latRemoteHome

/-- The watchpoint of the issuing context (spec/19_observation.md R410): WATCH, or a debug stop with WPSTOP. -/
def watch (va : Word) (n : Nat) (rd wr : Bool) : Op Unit := do
  let s ← gets id
  let x := curCtx s
  let g := nbits x.wpt.toNat 3 53
  let hit := ((rd && x.wpt.getLsbD 0) || (wr && x.wpt.getLsbD 1)) && va.toNat / 8 ≤ g && g ≤ (va.toNat + n - 1) / 8 &&
    x.passAt != some x.pc
  if hit then
    if (curDbg s).getLsbD 1 then stop (.debug 3) else raise tWATCH va
  else pure ()

/-! The export window (spec/10_pages.md R242). -/

/-- The place that an offset of partition `p`'s export window names for an access of `n` bytes, or none where it is refused. -/
def exportTgt (s : State) (p off n : Nat) (write atomic : Bool) : Option Tgt :=
  let q := seenPart s p
  let a := nbits q.expbr.toNat 9 43 * 2^9 + 8 * (off / 2^30)
  let e := rdN s.mem a 8
  let kind := e % 4
  let inner := off % 2^30
  if !q.expbr.getLsbD 0 || !mapped a || (rangeCheck s a ⟨p, false⟩).isSome || (write && nbits e 2 1 = 0) || nbits e 12 18 != 0 || nbits e 52 12 != 0 then none
  else if kind = 1 then
    let pa := nbits e 30 22 * 2^30 + inner
    if nbits e 5 7 = 0 && (knockAt s pa).isSome then (knockAt s pa).map fun k => .knock k.1 k.2 (write && !atomic && n == 8 && pa % 8 == 0)
    else if nbits e 5 7 != 0 || (rangeCheckAll s pa n ⟨p, false⟩).isSome || !isDram pa then none
    else some (.phys pa (nbits e 3 2 * 2^6 + 2 * 2^8))
  else if kind = 2 then
    let core := nbits e 5 7
    if nbits e 30 22 != 0 || atomic || 0x300000 < inner + n || (write && 0x2F0000 < inner + n) || !coreInPart s p core then none
    else some (.scr core inner)
  else none

/-- A new request id. -/
def newReq : Op Nat := fun s => .ok (s.reqId, { s with reqId := s.reqId + 1 })

/-- Queue a request or signal for a peer: it takes the next PKT for its destination (spec/15_fabric.md R328) and waits for its answer
under id `i`; `va` is what a refusal reports. -/
def queueTx (i : Nat) (va : Word) (t : Tx) (s : State) : State :=
  let n := tget s.fab.pktNext t.dest.toNat 0
  let u := { t with pkt := n }
  { s with
    fab := { s.fab with
      sendq := s.fab.sendq ++ [u], pktNext := tput s.fab.pktNext t.dest.toNat (n + 1),
      asked := s.fab.asked ++ [⟨t.dest, n, i, t.kind, t.unitKind, t.who, va⟩] } }

/-- Queue an answer for a peer. -/
def queueRsp (t : Tx) (s : State) : State := { s with fab := { s.fab with sendq := s.fab.sendq ++ [t] } }

end Sys2Proof.Machine
end

