-- ==== Sys2Proof/Machine/Flags.lean ====
section
/-! DEFINITION. Predicates: the conditions of CMP and CMPI, their combination, the PLOG functions, and the group transfers
(spec/04_contexts.md R90 to R92). -/

namespace Sys2Proof.Machine

/-- The condition with code `n` of x and y (R54, R90). -/
def condHolds (n : Nat) (x y : Word) : Bool :=
  match n with
  | 0 => x == y
  | 1 => x != y
  | 2 => BitVec.slt x y
  | 3 => BitVec.sle x y
  | 4 => BitVec.ult x y
  | 5 => BitVec.ule x y
  | 6 => (x &&& y) != 0
  | _ => (x &&& y) == 0

/-- The combination with code `c` of the old predicate and the condition (R54, R90). -/
def combine (c : Nat) (old t : Bool) : Bool :=
  match c with
  | 0 => t
  | 1 => old && t
  | 2 => old || t
  | _ => old != t

/-- Write `combine` of a condition into predicate `p` of the issuing context (R90). -/
def comparePrd (p c : Nat) (t : Bool) : Op Unit := upd fun s => modCur s fun x => setPrd x p (combine c (prd x p) t)

/-- Write predicate `d` from two predicates (R91). -/
def logicPrd (d a b : Nat) (f : Bool → Bool → Bool) : Op Unit :=
  upd fun s => modCur s fun x => setPrd x d (f (prd x a) (prd x b))

/-- The eight predicates as a byte, bit 0 one (R92). -/
def packPrd (x : Ctx) : Word := (x.p.setWidth 64 ||| 1)

/-- p1 to p7 from bits 1 to 7 of a word (R92). -/
def unpackPrd (v : Word) (x : Ctx) : Ctx := { x with p := v.setWidth 8 ||| 1 }

end Sys2Proof.Machine
end

