-- ==== Sys2Proof/Machine/Operands.lean ====
section
/-! DEFINITION. Operand forms of control words (spec/03_encoding.md R49): three registers, register and immediate, block
targets, memory addresses. -/

namespace Sys2Proof.Machine

open Host (Outcome)

/-- A G3 word that writes `f` of its sources to d with a fixed latency (R112, R113). -/
def regReg (w : G3) (lat : Nat) (f : Word → Word → Word) (s : State) : Outcome State Fault Refusal :=
  ctxWord w.st (do
    operands [w.a.toNat, w.b.toNat] [w.d.toNat]
    let x ← gr w.a.toNat
    let y ← gr w.b.toNat
    gw w.d.toNat (f x y) lat false w.q) s

/-- A G3 word whose result is interlocked, its latency depending on the operands (R57, R114). -/
def regRegLocked (w : G3) (lat : Word → Word → Nat) (f : Word → Word → Word) (s : State) : Outcome State Fault Refusal :=
  ctxWord w.st (do
    operands [w.a.toNat, w.b.toNat] [w.d.toNat]
    let x ← gr w.a.toNat
    let y ← gr w.b.toNat
    gw w.d.toNat (f x y) (lat x y) true w.q) s

/-- A G3 word with one register source (R113). -/
def regOne (q : Bool) (st : BitVec 3) (d a : BitVec 5) (f : Word → Word) (s : State) : Outcome State Fault Refusal :=
  ctxWord st (do
    operands [a.toNat] [d.toNat]
    let x ← gr a.toNat
    gw d.toNat (f x) 1 false q) s

/-- An RI word: the immediate is sign-extended (R115). -/
def regImm (w : RiW) (lat : Nat) (f : Word → Word → Word) (s : State) : Outcome State Fault Refusal :=
  ctxWord w.st (do
    operands [w.a.toNat] [w.d.toNat]
    let x ← gr w.a.toNat
    gw w.d.toNat (f x (w.i.signExtend 64)) lat false w.q) s

/-- A SHIFTI word (R115). -/
def regShift (w : ShW) (f : Word → Nat → Word) (s : State) : Outcome State Fault Refusal :=
  ctxWord w.st (do
    operands [w.a.toNat] [w.d.toNat]
    let x ← gr w.a.toNat
    gw w.d.toNat (f x w.n.toNat) 1 false w.q) s

/-- The block of a PC (R47). -/
def blockOf (pc : Word) : Word := pc &&& ~~~(0x3F : Word)

/-- The target `off` blocks from the block of the branch word (R47). -/
def blockTarget (pc : Word) (off : Word) : Word := blockOf pc + (off <<< 6)

/-- A register target must be a block address (R47). -/
def checkTarget (t : Word) : Op Unit := raiseIf (t.toNat % 64 != 0) tALIGNBR t

/-- Base plus scaled displacement (spec/06_scratchpad.md R147). -/
def dispAddr (base : Word) (i : BitVec 7) (size : Nat) : Word := base + (i.signExtend 64 <<< size)

/-- Bytes of an access size (R54). -/
def sizeBytes (z : BitVec 2) : Nat := 2^z.toNat

end Sys2Proof.Machine
end

