-- ==== Sys2Proof/Machine/Alu.lean ====
section
/-! DEFINITION. ALU, immediate and shift words (spec/05_registers.md R113 to R115). -/

namespace Sys2Proof.Machine

open Host (Outcome)

/-- Significant bits of a number below 2^fuel. -/
def sigBits (fuel n : Nat) : Nat :=
  match fuel with
  | 0 => 0
  | fuel + 1 => if n = 0 then 0 else 1 + sigBits fuel (n / 2)

/-- Trailing zero bits of a number, at most `fuel`. -/
def trailZeros (fuel n : Nat) : Nat :=
  match fuel with
  | 0 => 0
  | fuel + 1 => if n % 2 = 1 then 0 else 1 + trailZeros fuel (n / 2)

/-- One bits among the low `fuel` bits. -/
def oneBits (fuel n : Nat) : Nat :=
  match fuel with
  | 0 => 0
  | fuel + 1 => n % 2 + oneBits fuel (n / 2)

/-- High 64 bits of the signed product. -/
def mulHigh (x y : Word) : Word := wordOfInt ((x.toInt * y.toInt) / (2^64 : Nat))
/-- High 64 bits of the unsigned product. -/
def mulHighU (x y : Word) : Word := wd (x.toNat * y.toNat / 2^64)
/-- The overflowing quotient (-2^63) / (-1). -/
def divOvf (x y : Word) : Bool := x == BitVec.ofNat 64 (2^63) && y == BitVec.allOnes 64
/-- DIV: truncated signed quotient, all ones by zero (R113). -/
def divS (x y : Word) : Word :=
  if y = 0 then BitVec.allOnes 64 else if divOvf x y then x else wordOfInt (Int.tdiv x.toInt y.toInt)
/-- DIVU. -/
def divU (x y : Word) : Word := if y = 0 then BitVec.allOnes 64 else wd (x.toNat / y.toNat)
/-- REM: the remainder takes the sign of the dividend (R113). -/
def remS (x y : Word) : Word := if y = 0 then x else if divOvf x y then 0 else wordOfInt (Int.tmod x.toInt y.toInt)
/-- REMU. -/
def remU (x y : Word) : Word := if y = 0 then x else wd (x.toNat % y.toNat)
/-- Cycles of DIV and REM (R114). -/
def divLatS (x y : Word) : Nat :=
  if y = 0 || divOvf x y then 4 else 4 + (sigBits 64 (x.toInt.natAbs / y.toInt.natAbs) + 1) / 2
/-- Cycles of DIVU and REMU (R114). -/
def divLatU (x y : Word) : Nat := if y = 0 then 4 else 4 + (sigBits 64 (x.toNat / y.toNat) + 1) / 2
/-- Leading zero bits. -/
def clzW (x : Word) : Word := wd (64 - sigBits 64 x.toNat)
/-- Trailing zero bits. -/
def ctzW (x : Word) : Word := wd (trailZeros 64 x.toNat)
/-- One bits. -/
def popcW (x : Word) : Word := wd (oneBits 64 x.toNat)
/-- Sign extension from 8, 16 or 32 bits. -/
def sextW (b : BitVec 5) (x : Word) : Word := wordOfInt (sgn (8 * 2^b.toNat) x.toNat)
/-- Zero extension from 8, 16 or 32 bits. -/
def zextW (b : BitVec 5) (x : Word) : Word := wd (x.toNat % 2^(8 * 2^b.toNat))
/-- The eight bytes in reverse order. -/
def bswapW (x : Word) : Word := wd (bytesNat (natBytes 8 x.toNat).reverse)

/-- ADD (R113). -/
def execAdd (w : G3) (s : State) : Outcome State Fault Refusal := regReg w 1 (fun x y => x + y) s
/-- SUB (R113). -/
def execSub (w : G3) (s : State) : Outcome State Fault Refusal := regReg w 1 (fun x y => x - y) s
/-- AND (R113). -/
def execAnd (w : G3) (s : State) : Outcome State Fault Refusal := regReg w 1 (fun x y => x &&& y) s
/-- OR (R113). -/
def execOr (w : G3) (s : State) : Outcome State Fault Refusal := regReg w 1 (fun x y => x ||| y) s
/-- XOR (R113). -/
def execXor (w : G3) (s : State) : Outcome State Fault Refusal := regReg w 1 (fun x y => x ^^^ y) s
/-- ANDN (R113). -/
def execAndn (w : G3) (s : State) : Outcome State Fault Refusal := regReg w 1 (fun x y => x &&& ~~~y) s
/-- SHL (R113). -/
def execShl (w : G3) (s : State) : Outcome State Fault Refusal := regReg w 1 (fun x y => x <<< (y.toNat % 64)) s
/-- SHR (R113). -/
def execShr (w : G3) (s : State) : Outcome State Fault Refusal := regReg w 1 (fun x y => x >>> (y.toNat % 64)) s
/-- SRA (R113). -/
def execSra (w : G3) (s : State) : Outcome State Fault Refusal := regReg w 1 (fun x y => x.sshiftRight (y.toNat % 64)) s
/-- ROL (R113). -/
def execRol (w : G3) (s : State) : Outcome State Fault Refusal := regReg w 1 (fun x y => x.rotateLeft (y.toNat % 64)) s
/-- MUL (R113). -/
def execMul (w : G3) (s : State) : Outcome State Fault Refusal := regReg w 3 (fun x y => x * y) s
/-- MULH (R113). -/
def execMulh (w : G3) (s : State) : Outcome State Fault Refusal := regReg w 3 (fun x y => mulHigh x y) s
/-- MULHU (R113). -/
def execMulhu (w : G3) (s : State) : Outcome State Fault Refusal := regReg w 3 (fun x y => mulHighU x y) s
/-- MADD: reads its destination at issue (R112, R113). -/
def execMadd (w : G3) (s : State) : Outcome State Fault Refusal :=
  ctxWord w.st (do
    operands [w.a.toNat, w.b.toNat, w.d.toNat] [w.d.toNat]
    let x ← gr w.a.toNat
    let y ← gr w.b.toNat
    let z ← gr w.d.toNat
    gw w.d.toNat (z + x * y) 3 false w.q) s
/-- DIV (R113, R114). -/
def execDiv (w : G3) (s : State) : Outcome State Fault Refusal := regRegLocked w divLatS divS s
/-- DIVU (R113, R114). -/
def execDivu (w : G3) (s : State) : Outcome State Fault Refusal := regRegLocked w divLatU divU s
/-- REM (R113, R114). -/
def execRem (w : G3) (s : State) : Outcome State Fault Refusal := regRegLocked w divLatS remS s
/-- REMU (R113, R114). -/
def execRemu (w : G3) (s : State) : Outcome State Fault Refusal := regRegLocked w divLatU remU s
/-- MIN (R113). -/
def execMin (w : G3) (s : State) : Outcome State Fault Refusal := regReg w 1 (fun x y => if BitVec.slt x y then x else y) s
/-- MAX (R113). -/
def execMax (w : G3) (s : State) : Outcome State Fault Refusal := regReg w 1 (fun x y => if BitVec.slt y x then x else y) s
/-- MINU (R113). -/
def execMinu (w : G3) (s : State) : Outcome State Fault Refusal := regReg w 1 (fun x y => if BitVec.ult x y then x else y) s
/-- MAXU (R113). -/
def execMaxu (w : G3) (s : State) : Outcome State Fault Refusal := regReg w 1 (fun x y => if BitVec.ult y x then x else y) s
/-- CLZ (R113). -/
def execClz (w : G2) (s : State) : Outcome State Fault Refusal := regOne w.q w.st w.d w.a clzW s
/-- CTZ (R113). -/
def execCtz (w : G2) (s : State) : Outcome State Fault Refusal := regOne w.q w.st w.d w.a ctzW s
/-- POPC (R113). -/
def execPopc (w : G2) (s : State) : Outcome State Fault Refusal := regOne w.q w.st w.d w.a popcW s
/-- BSWAP (R113). -/
def execBswap (w : G2) (s : State) : Outcome State Fault Refusal := regOne w.q w.st w.d w.a bswapW s
/-- SEXT: b is the width code (R52, R113). -/
def execSext (w : G3) (s : State) : Outcome State Fault Refusal := regOne w.q w.st w.d w.a (sextW w.b) s
/-- ZEXT: b is the width code (R52, R113). -/
def execZext (w : G3) (s : State) : Outcome State Fault Refusal := regOne w.q w.st w.d w.a (zextW w.b) s
/-- ADDI (R115). -/
def execAddi (w : RiW) (s : State) : Outcome State Fault Refusal := regImm w 1 (fun x y => x + y) s
/-- ANDI (R115). -/
def execAndi (w : RiW) (s : State) : Outcome State Fault Refusal := regImm w 1 (fun x y => x &&& y) s
/-- ORI (R115). -/
def execOri (w : RiW) (s : State) : Outcome State Fault Refusal := regImm w 1 (fun x y => x ||| y) s
/-- XORI (R115). -/
def execXori (w : RiW) (s : State) : Outcome State Fault Refusal := regImm w 1 (fun x y => x ^^^ y) s
/-- MULI (R115). -/
def execMuli (w : RiW) (s : State) : Outcome State Fault Refusal := regImm w 3 (fun x y => x * y) s
/-- SHLI (R115). -/
def execShli (w : ShW) (s : State) : Outcome State Fault Refusal := regShift w (fun x n => x <<< n) s
/-- SHRI (R115). -/
def execShri (w : ShW) (s : State) : Outcome State Fault Refusal := regShift w (fun x n => x >>> n) s
/-- SRAI (R115). -/
def execSrai (w : ShW) (s : State) : Outcome State Fault Refusal := regShift w (fun x n => x.sshiftRight n) s
/-- ROLI (R115). -/
def execRoli (w : ShW) (s : State) : Outcome State Fault Refusal := regShift w (fun x n => x.rotateLeft n) s
/-- LDI (R115). -/
def execLdi (w : RlW) (s : State) : Outcome State Fault Refusal :=
  ctxWord w.st (do
    operands [] [w.d.toNat]
    gw w.d.toNat (w.i.signExtend 64) 1 false w.q) s
/-- LDHI: reads its destination at issue (R112, R115). -/
def execLdhi (w : LdhiW) (s : State) : Outcome State Fault Refusal :=
  ctxWord w.st (do
    operands [w.d.toNat] [w.d.toNat]
    let x ← gr w.d.toNat
    gw w.d.toNat (x <<< 16 ||| w.i.setWidth 64) 1 false w.q) s
/-- CMP (R90). The old value of pd has latency 1 and is never early. -/
def execCmp (w : CmpW) (s : State) : Outcome State Fault Refusal :=
  ctxWord w.st (do
    operands [w.a.toNat, w.b.toNat] []
    let x ← gr w.a.toNat
    let y ← gr w.b.toNat
    comparePrd w.p.toNat w.c.toNat (condHolds w.n.toNat x y)) s
/-- CMPI (R90). -/
def execCmpi (w : CmpiW) (s : State) : Outcome State Fault Refusal :=
  ctxWord w.st (do
    operands [w.a.toNat] []
    let x ← gr w.a.toNat
    comparePrd w.p.toNat w.c.toNat (condHolds w.n.toNat x (w.i.signExtend 64))) s
/-- PLOG.AND (R91). -/
def execPlogAnd (w : PlW) (s : State) : Outcome State Fault Refusal :=
  ctxWord w.st (logicPrd w.d.toNat w.a.toNat w.b.toNat fun a b => a && b) s
/-- PLOG.OR (R91). -/
def execPlogOr (w : PlW) (s : State) : Outcome State Fault Refusal :=
  ctxWord w.st (logicPrd w.d.toNat w.a.toNat w.b.toNat fun a b => a || b) s
/-- PLOG.XOR (R91). -/
def execPlogXor (w : PlW) (s : State) : Outcome State Fault Refusal :=
  ctxWord w.st (logicPrd w.d.toNat w.a.toNat w.b.toNat fun a b => a != b) s
/-- PLOG.ANDN (R91). -/
def execPlogAndn (w : PlW) (s : State) : Outcome State Fault Refusal :=
  ctxWord w.st (logicPrd w.d.toNat w.a.toNat w.b.toNat fun a b => a && !b) s
/-- PLOG.ORN (R91). -/
def execPlogOrn (w : PlW) (s : State) : Outcome State Fault Refusal :=
  ctxWord w.st (logicPrd w.d.toNat w.a.toNat w.b.toNat fun a b => a || !b) s
/-- PLOG.NAND (R91). -/
def execPlogNand (w : PlW) (s : State) : Outcome State Fault Refusal :=
  ctxWord w.st (logicPrd w.d.toNat w.a.toNat w.b.toNat fun a b => !(a && b)) s
/-- PLOG.NOR (R91). -/
def execPlogNor (w : PlW) (s : State) : Outcome State Fault Refusal :=
  ctxWord w.st (logicPrd w.d.toNat w.a.toNat w.b.toNat fun a b => !(a || b)) s
/-- PLOG.XNOR (R91). -/
def execPlogXnor (w : PlW) (s : State) : Outcome State Fault Refusal :=
  ctxWord w.st (logicPrd w.d.toNat w.a.toNat w.b.toNat fun a b => a == b) s
/-- PSET (R92). -/
def execPset (w : PsetW) (s : State) : Outcome State Fault Refusal :=
  ctxWord w.st (do
    operands [w.a.toNat] []
    let x ← gr w.a.toNat
    upd fun s => modCur s (unpackPrd x)) s
/-- PGET (R92). -/
def execPget (w : PgetW) (s : State) : Outcome State Fault Refusal :=
  ctxWord w.st (do
    operands [] [w.d.toNat]
    let x ← gets curCtx
    gw w.d.toNat (packPrd x) 1 false w.q) s
/-- SEL: both sources are read (R93). -/
def execSel (w : SelW) (s : State) : Outcome State Fault Refusal :=
  ctxWord w.st (do
    operands [w.a.toNat, w.b.toNat] [w.d.toNat]
    let x ← gr w.a.toNat
    let y ← gr w.b.toNat
    let c ← gets curCtx
    gw w.d.toNat (if prd c w.p.toNat then x else y) 1 false w.q) s

end Sys2Proof.Machine
end

