-- ==== Sys2Proof/Machine/Csr.lean ====
section
/-! DEFINITION. CSRs as MFC reads and MTC writes them (spec/03_encoding.md R73, R74; spec/05_registers.md R116 to R120). -/

namespace Sys2Proof.Machine

/-- CTXST (spec/04_contexts.md R102). -/
def ctxst (x : Ctx) : Nat := x.priv.toNat + 2 * x.ppriv.toNat + 4 * x.uie.toNat + 8 * x.uiact.toNat + 16 * x.uq.length

/-- The mailbox of an engine of a core. -/
def mbxRead (s : State) (core : Nat) (ve : Bool) (n : Nat) : Word32 :=
  if ve then tget (coreOf s core).ve.mbx n 0 else tget (coreOf s core).me.mbx n 0

/-- The mailbox as the acting agent sees it: an MTC of a context takes effect at the end of its cycle (R117). -/
def mbxSeen (s : State) (core : Nat) (ve : Bool) (n : Nat) : Word32 :=
  ((oldCsr s (0x10 + n) (2000 + 2 * core + ve.toNat)).map (·.setWidth 32)).getD (mbxRead s core ve n)

/-- Write a mailbox. -/
def mbxWrite (s : State) (core : Nat) (ve : Bool) (n : Nat) (v : Word32) : State :=
  modCore s core fun k =>
    if ve then { k with ve := { k.ve with mbx := tput k.ve.mbx n v } } else { k with me := { k.me with mbx := tput k.me.mbx n v } }

/-- CSRs that R73 or their chapters make read-only, or readable only, at user level: an MTC there raises PRIV. -/
def userReadOnly (n : Nat) : Bool := n ≤ 5 || (7 ≤ n && n ≤ 0xC) || (0x20 ≤ n && n ≤ 0x2B)

/-- The value of a CSR for the issuing context, before R117's delay. -/
def csrValue (s : State) (n : Nat) : Word :=
  let c := curCore s
  let k := coreOf s c
  let x := curCtx s
  let p := partOf s (corePart s c)
  if 0x10 ≤ n && n ≤ 0x1F then (mbxRead s c x.mbxsel (n - 0x10)).setWidth 64 else
  match n with
  | 0x000 => p.nbv.setWidth 64
  | 0x001 => p.mode.setWidth 64
  | 0x002 => x.tcause.setWidth 64
  | 0x003 => x.tpc
  | 0x004 => x.tval
  | 0x005 => x.tvec
  | 0x006 => x.uvec
  | 0x007 => wd (scyOf s c)
  | 0x008 => x.tokens.setWidth 64
  | 0x009 => wd (ctxNum (curSel s))
  | 0x00A => wd c
  | 0x00B => wd (s.peer.toNat + 2^12 * s.peerValid.toNat)
  | 0x00C => wd (diecyc s (dieOfCore c))
  | 0x00D => wd x.mbxsel.toNat
  | 0x00E => wd (ctxst x)
  | 0x020 => if x.priv then p.ptbr else 0
  | 0x021 => wd (corePart s c + 8 * p.isSealed.toNat)
  | 0x022 => wd (x.rerrVa.toNat + 2^63 * x.rerrValid.toNat)
  | 0x023 => if x.priv then p.expbr else 0
  | 0x024 => x.crewb.setWidth 64
  | 0x025 => wd (p.hssBase + 2^16 * p.hssCount)
  | 0x026 => p.gridbr
  | 0x027 => wd (k.dbg.toNat + 8 * k.stopped.toNat)
  | 0x028 => x.wpt.setWidth 64
  | 0x029 => k.stopat
  | 0x02A => wd (p.trEn.toNat + 2 * p.trSmp.toNat + 16 * p.trBrlog)
  | 0x02B => wd ((dieOf s (dieOfCore c)).drop.toNat + 2^24 * (dieOf s (dieOfCore c)).wrap.toNat)
  | 0x800 => if x.priv then s.rot.svrot.setWidth 64 else 0
  | 0x801 => if x.priv then wd (k.ecl.toNat + 2^24 * k.crst.toNat + 2^40 * k.logw.toNat) else 0
  | _ => 0

/-- Who shares a CSR: none for one held by the context itself, else a number of the partition or core. -/
def csrGroup (s : State) (n : Nat) : Option Nat :=
  let c := curCore s
  if n = 0x000 || n = 0x001 || n = 0x020 || n = 0x023 || n = 0x026 || n = 0x02A then some (corePart s c)
  else if n = 0x027 || n = 0x029 then some (1000 + c)
  else if 0x10 ≤ n && n ≤ 0x1F then some (2000 + 2 * c + (curCtx s).mbxsel.toNat)
  else none

/-- What an MFC reads: a shared CSR that another context wrote in this cycle still reads its old value (R117). -/
def csrRead (s : State) (n : Nat) : Word :=
  match csrGroup s n with
  | none => csrValue s n
  | some g =>
    match oldCsr s n g with
    | some v => v
    | none => csrValue s n

/-- The engine has written the mailbox in this cycle: its value remains (spec/07_vector.md R184, spec/09_accumulators.md R216). -/
def mbxTaken (s : State) (core : Nat) (ve : Bool) (n : Nat) : Bool :=
  let a : Agent := if ve then .ve (BitVec.ofNat 7 core) else .me (BitVec.ofNat 7 core)
  s.csrOld.any fun o => o.cycle = s.now && o.num = 0x10 + n && o.group = 2000 + 2 * core + ve.toNat && o.writer == a

/-- Write the fields of a CSR that the issuing context may write (R116); the rest keeps its value. -/
def csrSet (s : State) (n : Nat) (v : Word) : State :=
  let c := curCore s
  let x := curCtx s
  let p := corePart s c
  if 0x10 ≤ n && n ≤ 0x1F then
    (if mbxTaken s c x.mbxsel (n - 0x10) then s else mbxWrite s c x.mbxsel (n - 0x10) (v.setWidth 32)) else
  match n with
  | 0x006 => modCur s fun x => { x with uvec := v &&& ~~~(0x3F : Word) }
  | 0x00D => modCur s fun x => { x with mbxsel := v.getLsbD 0 }
  | 0x00E => modCur s fun x => { x with uie := v.getLsbD 2, ppriv := if x.priv then v.getLsbD 1 else x.ppriv }
  | _ =>
    if !x.priv then s else
    match n with
    | 0x000 => if 1 ≤ v.toNat % 256 && v.toNat % 256 ≤ 3 then modPart s p fun q => { q with nbv := v.setWidth 8 } else s
    | 0x001 => modPart s p fun q => { q with mode := v.setWidth 8 }
    | 0x002 => modCur s fun x => { x with tcause := v.setWidth 8 }
    | 0x003 => modCur s fun x => { x with tpc := v }
    | 0x004 => modCur s fun x => { x with tval := v }
    | 0x005 => modCur s fun x => { x with tvec := v &&& ~~~(0x3F : Word) }
    | 0x020 => modPart s p fun q => { q with ptbr := v &&& BitVec.ofNat 64 (2^52 - 2^11) }
    | 0x022 => modCur s fun x => { x with rerrVa := v.setWidth 56, rerrValid := v.getLsbD 63 }
    | 0x023 => modPart s p fun q => { q with expbr := v &&& BitVec.ofNat 64 (2^52 - 2^9 + 1) }
    | 0x026 => modPart s p fun q => { q with gridbr := v &&& BitVec.ofNat 64 (2^56 - 2^12) }
    | 0x027 => modCore s c fun k => { k with dbg := v.setWidth 3 }
    | 0x028 => modCur s fun x => { x with wpt := v.setWidth 56 &&& ~~~(4 : BitVec 56) }
    | 0x029 => modCore s c fun k => { k with stopat := v }
    | 0x02A => modPart s p fun q => { q with trEn := v.getLsbD 0 }
    | _ => s

/-- An MTC that is allowed: the write, and the old value kept for MFCs of this cycle. -/
def csrWrite (n : Nat) (v : Word) (s : State) : State :=
  match csrGroup s n with
  | none => csrSet s n v
  | some g =>
    let e : CsrOld := ⟨s.now, n, g, s.cur, csrValue s n⟩
    let t := csrSet s n v
    { t with csrOld := (s.csrOld.filter fun o => o.cycle = s.now) ++ [e] }

end Sys2Proof.Machine
end

