-- ==== Sys2Proof/Machine/Mark.lean ====
section
/-! DEFINITION. Marks of a context and its replay log (spec/18_recovery.md R381 to R383, R389 to R392). -/

namespace Sys2Proof.Machine

open Host (Outcome)

/-- Offset of a context's mark area (R382). -/
def markOff (x : CtxSel) : Nat := 0x2F3600 + 0x300 * ctxNum x

/-- The register image of a context whose next word is at `pc` (R389); the order of its items is the model's (log 6). -/
def ctxImage (x : Ctx) (pc : Word) : List Byte :=
  ((upto 31).map fun i => natBytes 8 (tget x.g (i + 1) 0).toNat).flatten ++
    ((upto 8).map fun i => natBytes 8 (tget x.g (56 + i) 0).toNat).flatten ++
    natBytes 8 (x.p.toNat + 256 * x.latch.toNat) ++ natBytes 8 (ctxst x) ++ natBytes 8 x.uvec.toNat ++
    natBytes 8 x.tokens.toNat ++ natBytes 8 pc.toNat ++ natBytes 8 x.markIdx.toNat

/-- Turn every slot of a core that unit kind `kind` holds retired-pending empty (spec/06_scratchpad.md R143), where `ok` says
which of them the mark covers. -/
def emptyRetired (s : State) (core kind : Nat) (ok : Nat → Nat → Bool) : State :=
  (upto 48).foldl (fun t id =>
    (upto (if id < 16 then 64 else 1)).foldl (fun t i =>
      if slotState t core id i = 2 && sysRead t core (hdrOff id i + 10) 1 % 16 = kind && ok id i then
        sysWrite (unspoil (noteSlot t core id i) core id i) core (hdrOff id i) 1 0
      else t) t) s

/-- The slots of a core that unit kind `kind` holds retired-pending. -/
def retiredSlots (s : State) (core kind : Nat) : List (Nat × Nat) :=
  ((upto 48).map fun id => (upto (if id < 16 then 64 else 1)).filterMap fun i =>
    if slotState s core id i = 2 && sysRead s core (hdrOff id i + 10) 1 % 16 = kind then some (id, i) else none).flatten

/-- A context's mark is accepted (R383, R389): the slots that it covers are empty. -/
def acceptMark (c : Nat) (x : CtxSel) (s : State) : State :=
  let v := ctxOf s c x
  match v.accept with
  | none => s
  | some m =>
    traceUnit (dieOfCore c) (ctxNum x) c (corePart s c) 0x02 0 m.pc.toNat 0 v.markIdx.toNat 0 0
      (emptyRetired (putCtx s c x { v with accept := none }) c (ctxNum x) fun id i => m.slots.contains (id, i))

/-- A reset before the acceptance: the mark before is in force, its log with the entries of the words since; a user interrupt that was about
to be accepted with the mark is pending again (R383, R390, R392). -/
def undoMark (c : Nat) (x : CtxSel) (s : State) : State :=
  let v := ctxOf s c x
  match v.accept with
  | none => s
  | some m =>
    let k := scrKey c (markOff x) + 0x180
    let entry (i : Nat) : List Byte :=
      let h := rdN s.mem (k + 16 * i) 8
      natBytes 8 (h - h % 2^16 + (m.logN + i) % 2^16) ++ rdBytes s.mem (k + 16 * i + 8) 8
    let news := ((upto v.logN).map entry).flatten
    putCtx { s with mem := wrBytes (wrBytes s.mem (scrKey c (markOff x)) m.area) (k + 16 * m.logN) news } c x
      { v with
        accept := none, logN := m.logN + v.logN, markBr := m.br
        owed := m.owed ++ v.owed.map fun e => (e.1, e.2 + m.logN)
        uq := (match m.uq with
          | some r => r :: v.uq
          | none => v.uq) }

/-- The mark of a context, its saved address `pc` (R389): the image, an empty log; it is accepted 5 cycles later. -/
def markCtx (c : Nat) (x : CtxSel) (pc : Word) (s0 : State) : State :=
  let s := acceptMark c x s0
  let v := ctxOf s c x
  let m : MarkWait := { at_ := s.now + 5, area := rdBytes s.mem (scrKey c (markOff x)) 0x300, logN := v.logN, slots := retiredSlots s c (ctxNum x),
                         pc := pc, owed := v.owed, br := v.markBr }
  let v1 := { v with markIdx := v.markIdx + 1, logN := 0, ord := 0, replayTo := 0, markScy := scyOf s c, accept := some m, owed := [],
                     markBr := v.branches }
  putCtx { s with mem := wrBytes s.mem (scrKey c (markOff x)) (ctxImage v1 pc) } c x v1

/-- The automatic mark of the issuing context, in place of its next word, once every earlier word has completed (R389, R390). -/
def autoMark (s : State) : State :=
  let c := curCore s
  let x := curSel s
  let s1 := modCur s landAll
  match quietAt (curCtx s) with
  | some t =>
    if s.now < t then modCur s fun y => { y with ready := t }
    else modCur (markCtx c x (ctxOf s1 c x).pc s1) fun y => { y with ready := s.now + 1 }
  | none => modCur s fun y => { y with ready := s.now + 1 }

/-- Offset of entry `i` of a replay log. -/
def logOff (x : CtxSel) (i : Nat) : Nat := markOff x + 0x180 + 16 * i

/-- Write the entry of the context's next logged word (R391): without DONE where a peer's answer brings its value, else with DONE and
the value. -/
def logPut (maj minor : Nat) (done : Bool) (v : Word) (s : State) : State :=
  let c := curCore s
  let x := curSel s
  let y := curCtx s
  let h := y.ord % 2^16 + 2^16 * maj + 2^22 * minor + 2^31 * done.toNat
  let t := { s with mem := wrN (wrN s.mem (scrKey c (logOff x y.ord)) 8 h) (scrKey c (logOff x y.ord) + 8) 8 v.toNat }
  modCur t fun y => { y with logN := y.ord + 1, ord := y.ord + 1 }

/-- While a mark is on its way, the log that it replaces has no room for a further entry beside those since (R383, R392). -/
def logCrowded (x : Ctx) : Bool :=
  match x.accept with
  | some m => decide (24 ≤ m.logN + x.ord)
  | none => false

/-- A logged word (R391, R392): with a full log the context marks instead (R390); below the log's entry count the word is not
performed and writes the logged value once DONE is set; otherwise it is performed and its entry appended. The entry of an atomic that a
peer performs has no DONE before the answer; a word that waits or traps has no entry. -/
def loggedWord (st : BitVec 3) (maj minor : Nat) (dst : Option (Nat × Nat × Bool)) (body : Op Word) (s : State) :
    Outcome State Fault Refusal :=
  let x := curCtx s
  if x.ord < x.replayTo then
    let o := scrKey (curCore s) (logOff (curSel s) x.ord)
    let step (t : State) : State := modCur t fun y => { y with ord := y.ord + 1 }
    if rdN s.mem o 8 / 2^31 % 2 = 0 then .next (block kQuiet 0 s)
    else
      match dst with
      | none => .next (retire st.toNat (step s))
      | some (d, lat, lock) =>
        .next (retire st.toNat (step (modCur s (putReg d (wd (rdN s.mem (o + 8) 8)) lat lock false s.now))))
  else if 24 ≤ x.ord then .next (autoMark s)
  else if logCrowded x then .next (block kQuiet 0 s)
  else
    match body s with
    | .error (.asked t a) =>
      let d := match dst with
        | some (d, _, _) => d
        | none => 0
      .next (retire st.toNat (modCur (logPut maj minor false 0 t) fun y => { putAwait d false a y with owed := y.owed ++ [(a.id, y.ord - 1)] }))
    | .error e => .next (stopped e s)
    | .ok (v, t) =>
      let t1 := logPut maj minor true v t
      match dst with
      | none => .next (retire st.toNat t1)
      | some (d, lat, lock) => .next (retire st.toNat (modCur t1 (putReg d v lat lock false s.now)))

end Sys2Proof.Machine
end

