-- ==== Sys2Proof/Machine/Control.lean ====
section
/-! DEFINITION. Branches, calls, CSR moves and the SYS words of a context (spec/04_contexts.md R94 to R109,
spec/05_registers.md R116, spec/11_ordering.md R257 to R261, spec/10_pages.md R228). -/

namespace Sys2Proof.Machine

open Host (Outcome)

/-- BR (R94). -/
def execBr (w : BrW) (s : State) : Outcome State Fault Refusal :=
  ctxBranch w.st (do
    let x ← gets curCtx
    pure (if prd x w.p.toNat != w.n then some (blockTarget x.pc (w.i.signExtend 64)) else none)) s

/-- JMP (R95). -/
def execJmp (w : JW) (s : State) : Outcome State Fault Refusal :=
  ctxBranch w.st (do
    let x ← gets curCtx
    pure (some (blockTarget x.pc (w.i.signExtend 64)))) s

/-- CALL: g31 takes the next block (R95). -/
def execCall (w : JW) (s : State) : Outcome State Fault Refusal :=
  ctxBranch w.st (do
    operands [] [31]
    let x ← gets curCtx
    gw 31 (blockOf x.pc + 64) 1 false false
    pure (some (blockTarget x.pc (w.i.signExtend 64)))) s

/-- JMPR (R96). -/
def execJmpr (w : A1W) (s : State) : Outcome State Fault Refusal :=
  ctxBranch w.st (do
    operands [w.a.toNat] []
    let t ← gr w.a.toNat
    checkTarget t
    pure (some t)) s

/-- CALLR: reads its target before it writes g31 (R96). -/
def execCallr (w : A1W) (s : State) : Outcome State Fault Refusal :=
  ctxBranch w.st (do
    operands [w.a.toNat] [31]
    let t ← gr w.a.toNat
    checkTarget t
    let x ← gets curCtx
    gw 31 (blockOf x.pc + 64) 1 false false
    pure (some t)) s

/-- RET: to g31 (R96). -/
def execRet (w : S0W) (s : State) : Outcome State Fault Refusal :=
  ctxBranch w.st (do
    operands [31] []
    let t ← gr 31
    checkTarget t
    pure (some t)) s

/-- ERET (R98). -/
def execEret (w : S0W) (s : State) : Outcome State Fault Refusal :=
  ctxFree (do
    privileged (.eret w)
    upd (returnTrap w.st.toNat)) s

/-- UIRET: to shadow g24; the normal bank returns (R109). -/
def execUiret (w : S0W) (s : State) : Outcome State Fault Refusal :=
  ctxBranch w.st (do
    raiseIf (!(← gets curCtx).uiact) tILLOP (wordOf (.uiret w))
    operands [24] []
    let t ← gr 24
    upd fun s => modCur s fun x => { x with uiact := false }
    pure (some (t &&& ~~~(3 : Word)))) s

/-- TRAP (R98). -/
def execTrapWord (w : ImmW) (s : State) : Outcome State Fault Refusal :=
  ctxFree (raise tTRAPI (w.i.setWidth 64)) s

/-- BKPT: the trap, or with DBGCTL.BKSTOP a debug stop, after which the word is not executed again (R101). -/
def execBkpt (w : ImmW) (s : State) : Outcome State Fault Refusal :=
  ctxWord w.st (do
    let s ← gets id
    if (curCtx s).passAt == some (curCtx s).pc then pure ()
    else if (curDbg s).getLsbD 0 then stop (.debug 2)
    else raise tBKPT (w.i.setWidth 64)) s

/-- NOP (R98). -/
def execNop (w : S0W) (s : State) : Outcome State Fault Refusal := ctxWord w.st (pure ()) s

/-- Report a remote store refused at its target (spec/10_pages.md R242): XLATE, RERR.VALID cleared. -/
def reportRerr : Op Unit := do
  let s ← gets id
  let x := curCtx s
  if x.rerrValid then
    stop (.trapIn (modCur s fun y => { y with rerrValid := false }) tXLATE (x.rerrVa.setWidth 64))
  else pure ()

/-- EXIT: once every earlier word has completed, the stream ends (R99). -/
def execExit (w : S0W) (s : State) : Outcome State Fault Refusal :=
  ctxWord w.st (do
    waitQuiet
    reportRerr
    upd fun s => modCur s fun x => { landAll x with live := false, uq := [], engfMe := none, engfVe := none, uirq := none }) s

/-- MARK (spec/18_recovery.md R389). -/
def execMark (w : S0W) (s : State) : Outcome State Fault Refusal :=
  ctxWord w.st (do
    waitQuiet
    upd fun s => markCtx (curCore s) (curSel s) ((curCtx s).pc + 4) (modCur s landAll)) s

/-- A sleeping WFE, evaluated in cycle `now`, has completed in the cycle before: the latch was set there after its evaluation. -/
def wakeMissed (now : Nat) (x : Ctx) : Bool :=
  x.latch && (match x.waiting with
    | some k => k.kind = 5 && decide (k.since < now)
    | none => false) && x.latchAt + 1 = now

/-- WFE (spec/12_semaphores.md R279). A SEV that set the latch in the cycle in which the sleeping word was last evaluated, after it in the
order of that cycle, counts as set: the word completes as in that cycle. -/
def execWfe (w : S0W) (s : State) : Outcome State Fault Refusal :=
  let missed := wakeMissed s.now (curCtx s)
  let go (t : State) : Outcome State Fault Refusal :=
    ctxWord w.st (do
      waitIf (!(← gets curCtx).latch) 5 0
      upd fun s => modCur s fun x => { x with latch := x.relatch, relatch := false }) t
  if missed then
    match go { s with now := s.now - 1 } with
    | .next t => .next { t with now := s.now }
    | r => r
  else go s

/-- Set the event latch of a context that has not executed EXIT (R279, R99). A WFE that an earlier cycle's setting has completed, and that is
still to be evaluated, leaves this one standing. -/
def setLatch (s : State) (c : Nat) (x : CtxSel) : State :=
  modCtx s c x fun y =>
    if !y.live then y
    else if y.latch then { y with relatch := y.relatch || wakeMissed s.now y }
    else { y with latch := true, latchAt := s.now }

/-- SEV, a logged word (R279, R391). -/
def execSev (w : SevW) (s : State) : Outcome State Fault Refusal :=
  loggedWord w.st 0x00 0x05 none (do
    upd fun s =>
      let c := curCore s
      let s1 := if w.m.getLsbD 0 then setLatch s c .L else s
      let s2 := if w.m.getLsbD 1 then setLatch s1 c .C else s1
      if w.m.getLsbD 2 then setLatch s2 c .S else s2
    pure 0) s

/-- MFC, latency 2 (R116). -/
def execMfc (w : MfcW) (s : State) : Outcome State Fault Refusal :=
  ctxWord w.st (do
    operands [] [w.d.toNat]
    let s ← gets id
    gw w.d.toNat (csrRead s w.c.toNat) 2 false w.q) s

/-- MTC: PRIV at user level where the CSR is read-only there (R116). -/
def execMtc (w : MtcW) (s : State) : Outcome State Fault Refusal :=
  ctxWord w.st (do
    operands [w.a.toNat] []
    let v ← gr w.a.toNat
    raiseIf (!(← gets curCtx).priv && userReadOnly w.c.toNat) tPRIV (wordOf (.mtc w))
    upd (csrWrite w.c.toNat v)) s

/-! Ordering words (spec/11_ordering.md). Accesses are performed at issue in this model, so that a fence waits only for
acknowledgements (log 7). -/

/-- A release at a scope (R249). -/
def releaseAt (scope : Nat) : Op Unit := if 3 ≤ scope then upd fun s => releaseLines s (curCore s) else pure ()
/-- An acquire at a scope (R249). -/
def acquireAt (scope : Nat) : Op Unit := if 3 ≤ scope then upd fun s => acquireLines s (curCore s) else pure ()

/-- Wait for the acknowledgements that a scope covers: none for scope context (R257). -/
def waitAcks (scope : Nat) : Op Unit := if scope = 0 then pure () else waitQuiet

/-- A fence at fabric scope reports a refused remote store (R257). -/
def fenceReport (scope : Nat) : Op Unit := if scope = 5 then reportRerr else pure ()

/-- FENCE.FULL (R257). -/
def execFenceFull (w : FenceW) (s : State) : Outcome State Fault Refusal :=
  ctxWord w.st (do
    waitAcks w.e.toNat
    fenceReport w.e.toNat
    releaseAt w.e.toNat
    acquireAt w.e.toNat) s

/-- FENCE.ACQ (R257). -/
def execFenceAcq (w : FenceW) (s : State) : Outcome State Fault Refusal :=
  ctxWord w.st (do
    waitAcks w.e.toNat
    fenceReport w.e.toNat
    acquireAt w.e.toNat) s

/-- FENCE.REL (R257). -/
def execFenceRel (w : FenceW) (s : State) : Outcome State Fault Refusal :=
  ctxWord w.st (do
    waitAcks w.e.toNat
    fenceReport w.e.toNat
    releaseAt w.e.toNat) s

/-- FENCE.ENG: waits for the completion actions of every launch, packet and halo step issued earlier, then acts as ACQ
(R257). -/
def execFenceEng (w : FenceW) (s : State) : Outcome State Fault Refusal :=
  ctxWord w.st (do
    waitIf (!(← gets curCtx).engOut.isEmpty) kQuiet 0
    waitAcks w.e.toNat
    fenceReport w.e.toNat
    acquireAt w.e.toNat) s

/-- Whether an entry of partition `p` is a victim of TLBINV (spec/10_pages.md R228). -/
def tlbVictim (p va : Nat) (e : TlbE) : Bool :=
  e.part.toNat = p &&
    (va = 2^64 - 1 || (va < 2^56 && nbits va 48 8 < 0xFC && e.vpn = va / 2^lvlShift e.lvl))

/-- Remove the victims from every TLB of the package. -/
def tlbInvalidate (p va : Nat) (s : State) : State :=
  { s with
    cores := s.cores.map fun e => (e.1, { e.2 with utlb := e.2.utlb.filter fun t => !tlbVictim p va t })
    dies := s.dies.map fun e => (e.1, { e.2 with tlb := e.2.tlb.filter fun t => !tlbVictim p va t }) }

/-- TLBINV (R228). -/
def execTlbinv (w : TlbW) (s : State) : Outcome State Fault Refusal :=
  ctxWord w.st (do
    privileged (.tlbinv w)
    operands [w.r.toNat] []
    let va ← gr w.r.toNat
    waitQuiet
    upd fun s => tlbInvalidate (curPart s) va.toNat (releaseLines s (curCore s))) s

/-- The line a CACHE word names: its PA / 128 where the VA is translated and readable, else none; no trap, no fault-queue
entry (R259). DESIGN CHOICE (log 86): the permission that R259 asks for is R, for the instruction cache too. -/
def cacheLine (s : State) (va : Word) : Option Nat :=
  let a := va.toNat
  if 2^56 ≤ a || 0xFC ≤ nbits a 48 8 then none
  else
    match (translate s (curCore s) (curPart s) (!(curCtx s).priv) ⟨true, false, false, false⟩ a).1 with
    | .ok pa _ => some (pa / 128)
    | _ => none

/-- Drop the two 64-byte blocks of a line from a core's instruction cache. -/
def dropIcache (s : State) (c line : Nat) : State :=
  modCore s c fun k => { k with icache := tdel (tdel k.icache (2 * line)) (2 * line + 1) }

/-- A CACHE word on the line of a register, its effect by level: 0 L1, 1 L2, 2 instruction cache (R259). -/
def cacheWord (w : CacheW) (f : Nat → Nat → State → State) (s : State) : Outcome State Fault Refusal :=
  ctxWord w.st (do
    operands [w.r.toNat] []
    let va ← gr w.r.toNat
    let s ← gets id
    match cacheLine s va with
    | none => pure ()
    | some line => upd (f (curCore s) line)) s

/-- CACHE.INV (R259). -/
def execCacheInv (w : CacheW) (s : State) : Outcome State Fault Refusal :=
  cacheWord w (fun c line t =>
    match w.l.toNat with
    | 0 => dropL1 t c line
    | 1 => dropL2 t (dieOfCore c) line
    | _ => dropIcache t c line) s

/-- CACHE.CLEAN (R259). -/
def execCacheClean (w : CacheW) (s : State) : Outcome State Fault Refusal :=
  cacheWord w (fun c line t => if w.l = 1 then writeBack t (dieOfCore c) line else t) s

/-- CACHE.FLUSH (R259). -/
def execCacheFlush (w : CacheW) (s : State) : Outcome State Fault Refusal :=
  cacheWord w (fun c line t => if w.l = 1 then dropL2 t (dieOfCore c) line else dropL1 t c line) s

/-- CACHE.INVALL (R259). -/
def execCacheInvall (w : CacheAllW) (s : State) : Outcome State Fault Refusal :=
  ctxWord w.st (upd fun s =>
    let c := curCore s
    match w.l.toNat with
    | 0 => modCore s c fun k => { k with l1 := [] }
    | 1 => ((dieOf s (dieOfCore c)).l2.filter fun e => e.2.readers.contains c).foldl (fun t e => dropL2 t (dieOfCore c) e.1) s
    | _ => modCore s c fun k => { k with icache := [] }) s

/-- CACHE.CLEANALL: at L2 every line dirty for the core (R259). -/
def execCacheCleanall (w : CacheAllW) (s : State) : Outcome State Fault Refusal :=
  ctxWord w.st (upd fun s => if w.l = 1 then releaseLines s (curCore s) else s) s

/-- PREF: one line into the core's L1 and its die's L2; lines that cannot be fetched are skipped (R260). -/
def execPref (w : PrefW) (s : State) : Outcome State Fault Refusal :=
  ctxWord w.st (do
    operands [w.a.toNat] []
    let b ← gr w.a.toNat
    needEntry
    holdEntry Config.latHome
    let s ← gets id
    let va := dispAddr b w.i w.z.toNat
    match (if 2^56 ≤ va.toNat || 0xFC ≤ nbits va.toNat 48 8 then (Xlat.refused tPROT, s)
      else translate s (curCore s) (curPart s) (!(curCtx s).priv) ⟨true, false, false, false⟩ va.toNat) with
    | (.ok pa pte, t) =>
      if copied (dieOfCore (curCore s)) pa pte && (rangeCheck s pa ⟨curPart s, false⟩).isNone then
        upd fun _ => (loadLine t (curCore s) (pa / 128)).2
      else upd fun _ => t
    | _ => pure ()) s

/-- The lowest free prefetch token. -/
def freeToken (t : BitVec 16) : Option Nat := (upto 16).find? fun i => !t.getLsbD i

/-- BPREF: 16 where nothing is to be fetched, else a token, whose lines arrive with BPREF_COMPLETE (R261). -/
def execBpref (w : D3W) (s : State) : Outcome State Fault Refusal :=
  ctxWord w.st (do
    operands [w.a.toNat, w.b.toNat] [w.d.toNat]
    let base ← gr w.a.toNat
    let len ← gr w.b.toNat
    if len = 0 || 0xFC * 2^48 ≤ base.toNat then gw w.d.toNat 16 1 false false
    else do
      needEntry
      let x ← gets curCtx
      match freeToken x.tokens with
      | none => stop (.wait kQuiet 0)
      | some t => do
        holdEntry Config.latHome
        gw w.d.toNat (wd t) 1 false false
        upd fun s =>
          let ev : Sched := ⟨s.cur, some (.bprefComplete ⟨⟨BitVec.ofNat 7 (curCore s), curSel s⟩, BitVec.ofNat 4 t⟩)⟩
          { modCur s fun x => { x with tokens := x.tokens ||| BitVec.ofNat 16 (2^t) } with events := s.events ++ [ev] }) s

/-- BPREF_COMPLETE: the token is cleared (R261). -/
def execBprefComplete (e : BprefDone) (s : State) : Outcome State Fault Refusal :=
  .next (modCtx s e.who.core.toNat e.who.ctx fun x => { x with tokens := x.tokens &&& ~~~(BitVec.ofNat 16 (2^e.token.toNat)) })

end Sys2Proof.Machine
end

