-- ==== Sys2Proof/Machine/LoadStore.lean ====
section
/-! DEFINITION. Loads, stores and atomics of a context (spec/06_scratchpad.md R147, R148; spec/11_ordering.md R251, R252,
R258; spec/10_pages.md R241, R242). -/

namespace Sys2Proof.Machine

open Host (Outcome)

/-- A transaction of the issuing context to a peer: the target partition is the one that the peer map gives (R241). -/
def contextTx (s : State) (kind : TxKind) (peer off n : Nat) : Tx :=
  { kind := kind, src := s.peer, dest := BitVec.ofNat 12 peer, part := BitVec.ofNat 3 (peerByte s (curPart s) peer / 4),
    pkt := 0, off := BitVec.ofNat 36 off, len := n, unitKind := BitVec.ofNat 4 (ctxNum (curSel s)), 
    who := BitVec.ofNat 16 (curCore s + 128 * ctxNum (curSel s)), data := [],
    aop := 0, operand := 0, expect := 0, status := 0, enc := (seenPart s (curPart s)).isSealed }

/-- A remote read that its word needs before it can be performed: the request leaves once, the word that has not issued holds no request
entry for it (spec/04_contexts.md R83), and completes with the answer, or raises XLATE where the target refused it (R242, log 8). -/
def remoteAsk (kind : Nat) (va : Word) (tx : State → Tx) : Op Nat := do
  let s ← gets id
  let x := curCtx s
  if x.used < x.got.length then do
    upd fun s => modCur s fun x => { x with used := x.used + 1 }
    pure (nth x.got x.used 0)
  else
    match x.remote with
    | .refused => raise tXLATE va
    | .sent _ => stop (.wait kind va)
    | .idle => do
      let i ← newReq
      let t ← gets id
      stop (.waitIn (queueTx i va (tx t) (modCur t fun x =>
        { x with remote := .sent i, used := 0 })) kind va)

/-- A strong access is performed after the stream's earlier strong ones (spec/11_ordering.md R251). DEDUCED (log 77): the source does not
know the kind that a peer's export entry gives, so a strong local access waits for every outstanding access to a peer, and an access to a
peer for those to other peers; one peer applies them in the order of their PKT. -/
def strongWait (t : Tgt) : Op Unit := do
  let s ← gets id
  match t with
  | .phys _ pte => waitIf (pteOrd pte = 0 && !(openPeers s).isEmpty) kQuiet 0
  | .remote peer _ => waitIf (peer != s.peer.toNat && (openPeers s).any (· != peer)) kQuiet 0
  | _ => pure ()

/-- Read through a remote address: the package's own number is served locally (R241). -/
def remoteLoad (va : Word) (peer off n : Nat) : Op Nat := do
  let s ← gets id
  if peer = s.peer.toNat then
    match exportTgt s (curPart s) off n false false with
    | none => raise tXLATE va
    | some t => do
      strongWait t
      readAt t va n
  else do
    remoteAsk 7 va fun t => contextTx t .read peer off n

/-- Record a refused remote store in RERR if it is free (R242). -/
def noteRefused (va : Word) (x : Ctx) : Ctx :=
  if x.rerrValid then x else { x with rerrVa := va.setWidth 56, rerrValid := true }

/-- A store to host space, posted, that its hierarchy refuses (spec/20_host.md R422). -/
def hostDrops (s : State) (t : Tgt) : Bool :=
  match t with
  | .phys pa _ => isHost pa && Config.hostRefuses pa s.now
  | _ => false

/-- A write at a place of this package. -/
def writeOrNote (t : Tgt) (va : Word) (n v : Nat) : Op Unit := do
  if hostDrops (← gets id) t then upd fun s => modCur s (noteRefused va) else writeAt t va n v

/-- Write through a remote address: posted; a refusal is recorded in RERR (R242). -/
def remoteStore (va : Word) (peer off n v : Nat) : Op Unit := do
  let s ← gets id
  if peer = s.peer.toNat then
    match exportTgt s (curPart s) off n true false with
    | none => upd fun s => modCur s (noteRefused va)
    | some t => do
      strongWait t
      writeAt t va n v
  else do
    let i ← newReq
    upd fun t =>
      queueTx i va { contextTx t .write peer off n with data := natBytes n v }
        (modCur t fun x => { x with reqs := x.reqs ++ [⟨i, none⟩] })

/-- Acquire and release of `ord` 01 reach package scope or wider for every address (R252). -/
def ordAcquire (ord : Nat) : Op Unit := if ord = 1 then acquireAt 3 else pure ()
/-- The write-back of a release. -/
def ordRelease (ord : Nat) : Op Unit := if ord = 1 then releaseAt 3 else pure ()
/-- A release of fabric scope: every earlier remote access is acknowledged first (R249, R252). -/
def releaseFabric : Op Unit := do
  waitIf ((← gets curCtx).reqs.any fun r => r.due.isNone) kQuiet 0
  releaseAt 5

/-- The release of an atomic at its scope (R258). -/
def releaseScope (scope : Nat) : Op Unit := if scope = 5 then releaseFabric else releaseAt scope

/-- A load from a peer: its request leaves, its result comes with the answer (spec/15_fabric.md R331). -/
def askLoad (d size ord : Nat) (sx q : Bool) (va : Word) (peer off : Nat) : Op Unit := do
  let i ← newReq
  upd fun s =>
    let a : Await := ⟨i, va, (curCtx s).pc, 7, size, sx, ord = 1⟩
    queueTx i va (contextTx s .read peer off (2^size)) (modCur s (putAwait d q a))

/-- The peer and offset of a place in another package. -/
def foreign (s : State) (t : Tgt) : Option (Nat × Nat) :=
  match t with
  | .remote peer off => if peer = s.peer.toNat then none else some (peer, off)
  | _ => none

/-- A load of 2^size bytes at `va` into d (R147). -/
def loadTo (d size ord : Nat) (sx q : Bool) (va : Word) : Op Unit := do
  needEntry
  let n := 2^size
  let t ← resolve va n ⟨true, false, false, false⟩
  strongWait t
  match foreign (← gets id) t with
  | some (peer, off) => do
    watch va n true false
    askLoad d size ord sx q va peer off
  | none => do
    let v ← (match t with
      | .remote peer off => remoteLoad va peer off n
      | _ => readAt t va n)
    watch va n true false
    let lat := accessLat (← gets id) t
    ordAcquire ord
    holdEntry lat
    gw d (extendLoad sx size v) lat true q

/-- A store of the low 2^size bytes of `v` at `va` (R147). A release is performed with the write-back of everything before it,
and reaches its own home (log 9). -/
def storeFrom (size ord : Nat) (v va : Word) : Op Unit := do
  needEntry
  let n := 2^size
  let t ← resolve va n ⟨false, true, false, false⟩
  strongWait t
  match t with
  | .remote peer off => do
    watch va n false true
    if ord = 1 then releaseFabric else pure ()
    remoteStore va peer off n v.toNat
  | _ => do
    writeCheck t va n
    watch va n false true
    ordRelease ord
    let lat := accessLat (← gets id) t
    writeOrNote t va n v.toNat
    ordRelease ord
    holdEntry lat

/-- LD (R147). -/
def execLd (w : LdW) (s : State) : Outcome State Fault Refusal :=
  ctxWord w.st (do
    operands [w.a.toNat] [w.d.toNat]
    let b ← gr w.a.toNat
    loadTo w.d.toNat w.z.toNat w.o.toNat w.x w.q (dispAddr b w.i w.z.toNat)) s

/-- LDX (R147). -/
def execLdx (w : LdxW) (s : State) : Outcome State Fault Refusal :=
  ctxWord w.st (do
    operands [w.a.toNat, w.b.toNat] [w.d.toNat]
    let x ← gr w.a.toNat
    let y ← gr w.b.toNat
    loadTo w.d.toNat w.z.toNat w.o.toNat w.x w.q (x + y)) s

/-- ST (R147). -/
def execSt (w : StW) (s : State) : Outcome State Fault Refusal :=
  ctxWord w.st (do
    operands [w.a.toNat, w.t.toNat] []
    let b ← gr w.a.toNat
    let v ← gr w.t.toNat
    storeFrom w.z.toNat w.o.toNat v (dispAddr b w.i w.z.toNat)) s

/-- STX (R147). -/
def execStx (w : StxW) (s : State) : Outcome State Fault Refusal :=
  ctxWord w.st (do
    operands [w.a.toNat, w.b.toNat, w.t.toNat] []
    let x ← gr w.a.toNat
    let y ← gr w.b.toNat
    let v ← gr w.t.toNat
    storeFrom w.z.toNat w.o.toNat v (x + y)) s

/-! Atomics (spec/11_ordering.md R258). -/

/-- The new value of an atomic: aop code, old value, operand, expected value (R258). -/
def atomNew (aop : Nat) (old opd exp : Word) : Word :=
  match aop with
  | 0 => old + opd
  | 1 => old &&& opd
  | 2 => old ||| opd
  | 3 => old ^^^ opd
  | 4 => if BitVec.slt old opd then old else opd
  | 5 => if BitVec.slt opd old then old else opd
  | 6 => if BitVec.ult old opd then old else opd
  | 7 => if BitVec.ult opd old then old else opd
  | 8 => opd
  | _ => if old = exp then opd else old

/-- The read-modify-write at a place that is the location's home. -/
def atomAt (t : Tgt) (va : Word) (aop : Nat) (opd exp : Word) : Op Word := do
  let old := wd (← readAt t va 8)
  if aop = 9 && old != exp then pure ()
  else writeAt t va 8 (atomNew aop old opd exp).toNat
  pure old

/-- The place of an atomic: no copy of its line stays between it and its home. -/
def atHome (t : Tgt) : Op Tgt := do
  match t with
  | .phys pa pte => do
    let core := curCore (← gets id)
    upd fun s => dropL1 (dropL2 s (dieOfCore core) (pa / 128)) core (pa / 128)
    pure (.phys pa (pte - pteCoh pte * 2^8 + 2 * 2^8))
  | _ => pure t

/-- The old value that an atomic returns, with its effect (R258): release and acquire at its scope, fabric for 0xFC. Its checks and its
watchpoint come first (spec/19_observation.md R410). -/
def atomOp (aop scope : Nat) (va opd exp : Word) : Op (Word × Nat) := do
  let t ← resolve va 8 ⟨true, true, false, true⟩
  strongWait t
  match t with
  | .remote peer off => do
    watch va 8 true true
    releaseFabric
    let s ← gets id
    if peer = s.peer.toNat then
      match exportTgt s (curPart s) off 8 true true with
      | none => raise tXLATE va
      | some p => do
        let old ← atomAt (← atHome p) va aop opd exp
        acquireAt 5
        pure (old, Config.latRemoteHome)
    else do
      let i ← newReq
      let t ← gets id
      stop (.asked (queueTx i va { contextTx t .atomic peer off 8 with aop := BitVec.ofNat 4 aop, operand := opd, expect := exp } t)
        ⟨i, va, (curCtx t).pc, 7, 3, false, true⟩)
  | .phys pa pte => do
    raiseIf (isHost pa && cohAt pa pte == 2) tPROT va
    let lat := accessLat (← gets id) t
    let h ← atHome t
    readCheck h va 8
    watch va 8 true true
    releaseScope scope
    let old ← atomAt h va aop opd exp
    acquireAt scope
    pure (old, lat)
  | .knock _ _ _ => do
    watch va 8 true true
    releaseScope scope
    acquireAt scope
    pure (0, Config.latHome)
  | _ => raise tPROT va

/-- An ATOM word: a logged word whose result is interlocked; CAS reads its expected value from d at issue. -/
def atomWord (w : AtomW) (aop : Nat) (s : State) : Outcome State Fault Refusal :=
  loggedWord w.st 0x16 aop (some (w.d.toNat, Config.latHome, true)) (do
    operands (if aop = 9 then [w.a.toNat, w.b.toNat, w.d.toNat] else [w.a.toNat, w.b.toNat]) [w.d.toNat]
    let va ← gr w.a.toNat
    let opd ← gr w.b.toNat
    let exp ← (if aop = 9 then gr w.d.toNat else pure 0)
    needEntry
    let r ← atomOp aop w.e.toNat va opd exp
    holdEntry r.2
    pure r.1) s

/-- ATOM.ADD (R258). -/
def execAtomAdd (w : AtomW) (s : State) : Outcome State Fault Refusal := atomWord w 0 s
/-- ATOM.AND (R258). -/
def execAtomAnd (w : AtomW) (s : State) : Outcome State Fault Refusal := atomWord w 1 s
/-- ATOM.OR (R258). -/
def execAtomOr (w : AtomW) (s : State) : Outcome State Fault Refusal := atomWord w 2 s
/-- ATOM.XOR (R258). -/
def execAtomXor (w : AtomW) (s : State) : Outcome State Fault Refusal := atomWord w 3 s
/-- ATOM.MIN (R258). -/
def execAtomMin (w : AtomW) (s : State) : Outcome State Fault Refusal := atomWord w 4 s
/-- ATOM.MAX (R258). -/
def execAtomMax (w : AtomW) (s : State) : Outcome State Fault Refusal := atomWord w 5 s
/-- ATOM.MINU (R258). -/
def execAtomMinu (w : AtomW) (s : State) : Outcome State Fault Refusal := atomWord w 6 s
/-- ATOM.MAXU (R258). -/
def execAtomMaxu (w : AtomW) (s : State) : Outcome State Fault Refusal := atomWord w 7 s
/-- ATOM.SWAP (R258). -/
def execAtomSwap (w : AtomW) (s : State) : Outcome State Fault Refusal := atomWord w 8 s
/-- ATOM.CAS (R258). -/
def execAtomCas (w : AtomW) (s : State) : Outcome State Fault Refusal := atomWord w 9 s

end Sys2Proof.Machine
end

