-- ==== Sys2Proof/Machine/Sync.lean ====
section
/-! DEFINITION. The hardened semaphore store, the SEM, BAR and TBAR words of a context, keyed engine updates
(spec/12_semaphores.md R263 to R278). -/

namespace Sys2Proof.Machine

open Host (Outcome)

/-! The store. -/

/-- A counter. -/
def hssGet (s : State) (die idx : Nat) : Int := tget (dieOf s die).hss idx 0
/-- No two copies of the counter agree (R263). -/
def hssPoisoned (s : State) (die idx : Nat) : Bool := (dieOf s die).hssPoison.contains idx

/-- A wait that began in cycle `since` stands at the store of a die: at once on the core's own, after its way to another (R266). -/
def waitThere (now core die since : Nat) : Bool := die = dieOfCore core || decide (since + Config.latHssFar ≤ now)

/-- A context's wait on a counter, evaluated against a new value (R271). -/
def meetWait (now core die idx : Nat) (v : Int) (last : Nat) (x : Ctx) : Ctx :=
  match x.waiting with
  | some w =>
    match w.sem with
    | some (d, i, t) =>
      if d = die && i = idx && decide (t ≤ v) && !w.met && waitThere now core die w.since then
        { x with waiting := some { w with met := true, lastu := last, seen := (v % (2^64 : Nat)).toNat } } else x
    | none => x
  | none => x

/-- What a command processor does with a new value of a counter: the waits it meets, and the knock bits of queues that were evicted
while they waited for it (spec/16_launch.md R348, R350). -/
def cpNote (die idx : Nat) (v : Int) (c : Cp) : Cp :=
  let q := c.q.map fun e =>
    match e.2.wait with
    | some (.hss d i t m) =>
      if d = die && i = idx then (e.1, { e.2 with wait := some (.hss d i t (m || decide (t ≤ v))) }) else e
    | _ => e
  { c with q := q, kvec := (c.armed.filter fun a => a.2.1 = die && a.2.2 = idx).foldl (fun l a => withOne l a.1) c.kvec }

/-- Store a counter's value and LAST, and evaluate every wait for it (R267, R271). -/
def hssPut (die idx : Nat) (v : Int) (last : BitVec 32) (s : State) : State :=
  let s1 := modDie s die fun x => { x with hss := tput x.hss idx v, hssLast := tput x.hssLast idx last }
  { s1 with
    dies := s1.dies.map fun e => (e.1, { e.2 with cp := cpNote die idx v e.2.cp })
    cores := s1.cores.map fun e =>
      let f := meetWait s.now e.1 die idx v last.toNat
      (e.1, { e.2 with l := f e.2.l, c := f e.2.c, s := f e.2.s }) }

/-- An index lies in a partition's range (R265). -/
def hssInRange (s : State) (p idx : Nat) : Bool :=
  decide ((partOf s p).hssBase ≤ idx) && decide (idx < (partOf s p).hssBase + (partOf s p).hssCount)

/-- A counter that is reserved for a crew (R274). -/
def hssReserved (s : State) (die idx : Nat) : Bool :=
  (dieOf s die).disp.runs.any fun r => decide (r.base ≤ idx) && decide (idx < r.base + 16)

/-- LAST of a context's update (R267). -/
def lastOfCtx (s : State) : BitVec 32 := BitVec.ofNat 32 (ctxNum (curSel s) + 16 * curCore s)

/-- The counter an id names: die and index. PROT for a nonzero bit above the fields, or an index out of range; POISON for a
poisoned counter unless it may be named (R264, R265, R263). -/
def semId (v : Word) (mayPoison : Bool) : Op (Nat × Nat) := do
  let s ← gets id
  raiseIf (fieldOf v 18 46 != 0) tPROT v
  let idx := fieldOf v 0 16
  let die := fieldOf v 16 2
  raiseIf (!hssInRange s (curPart s) idx) tPROT v
  raiseIf (hssPoisoned s die idx && !mayPoison) tPOISON v
  pure (die, idx)

/-- The store of another die performs a request when it arrives there, and ranks it by its arrival (R266). A word that has a result
takes it with the response. -/
def sendSem (die idx : Nat) (op : FarOp) : Op Nat := do
  let i ← newReq
  upd fun s =>
    let x := curCtx s
    { s with farSems := s.farSems ++
        [⟨s.now + Config.latHssFar, die, idx, op, curCore s, curSel s, curPart s, x.pc, i, none⟩] }
  pure i

/-- A result that the store of another die sends: its word issues, its reader waits. -/
def askSem (va : Word) (die idx : Nat) (acquires : Bool) (op : FarOp) : Op Word := do
  let i ← sendSem die idx op
  let s ← gets id
  stop (.asked s ⟨i, va, (curCtx s).pc, 0, 3, false, acquires⟩)

/-- The counter lies on another die than the issuing core. -/
def isFar (die : Nat) : Op Bool := do
  let s ← gets id
  pure (die != dieOfCore (curCore s))

/-- How long an HSS response takes (R266, log 4). -/
def hssLat (s : State) (die : Nat) : Nat := if die = dieOfCore (curCore s) then Config.latHss else Config.latHssFar

/-- A counter's value or a delta as a word. -/
def i64 (x : Int) : Word := wordOfInt x

/-- SEM.ADD (R270): a release at package scope; a crew's counter is not a user's to change (R274). -/
def execSemAdd (w : A2W) (s : State) : Outcome State Fault Refusal :=
  loggedWord w.st 0x1E 0 none (do
    operands [w.a.toNat, w.b.toNat] []
    let a ← gr w.a.toNat
    let b ← gr w.b.toNat
    let (die, idx) ← semId a false
    let s ← gets id
    raiseIf (!(curCtx s).priv && hssReserved s die idx) tPROT a
    needEntry
    releaseAt 3
    if ← isFar die then do
      let _ ← sendSem die idx (.add b)
      pure ()
    else do
      let v := sat64 (hssGet (← gets id) die idx + b.toInt)
      upd fun s => traceCtx 0x21 1 a.toNat b.toNat (i64 v).toNat (lastOfCtx s).toNat (hssPut die idx v (lastOfCtx s) s)
    holdEntry (hssLat s die)
    pure 0) s

/-- Whether the word at pc waits for this counter and a value has met its threshold (R271). -/
def waitMet (s : State) (die idx : Nat) (thr : Int) : Bool :=
  match (curCtx s).waiting with
  | some w => w.met && w.sem == some (die, idx, thr)
  | none => false

/-- The word at pc already waits for this counter. -/
def waitsFor (s : State) (die idx : Nat) (thr : Int) : Bool :=
  match (curCtx s).waiting with
  | some w => w.sem == some (die, idx, thr)
  | none => false

/-- The wait of the word at pc for this counter stands at the store, which evaluates it there (R266, R271). -/
def waitArrived (s : State) (die idx : Nat) (thr : Int) : Bool :=
  let c := curCore s
  waitThere s.now c die (if waitsFor s die idx thr then ((curCtx s).waiting.map (·.since)).getD s.now else s.now)

/-- Wait for a counter: kind 2 a semaphore, 3 a crew barrier (R271, R275), with a request entry whenever it is to issue
(spec/04_contexts.md R84, R85). -/
def waitHssAt (kind : Nat) (obj : Word) (die idx : Nat) (thr : Int) : Op Unit := do
  let s ← gets id
  if waitsFor s die idx thr then pure () else needEntry
  if ((waitArrived s die idx thr && decide (thr ≤ hssGet s die idx)) || waitMet s die idx thr) && entryNow s then do
    acquireAt 3
    holdEntry (hssLat s die)
  else stop (.waitSem kind obj die idx thr)

/-- SEM.WAIT (R270, R271). -/
def execSemWait (w : A2W) (s : State) : Outcome State Fault Refusal :=
  loggedWord w.st 0x1E 1 none (do
    operands [w.a.toNat, w.b.toNat] []
    let a ← gr w.a.toNat
    let b ← gr w.b.toNat
    let (die, idx) ← semId a false
    waitHssAt 2 a die idx b.toInt
    pure 0) s

/-- A SEM.TRY for `b` succeeds on the value (R270). -/
def tryOk (v : Int) (b : Word) : Bool := decide (0 ≤ b.toInt) && decide (b.toInt ≤ v)

/-- What a successful SEM.TRY takes: with a claim of 0 it changes nothing (R270). -/
def tryTake (die idx : Nat) (v : Int) (b : Word) (last : BitVec 32) (s : State) : State :=
  if b = 0 then s else hssPut die idx (v - b.toInt) last s

/-- SEM.TRY (R270): the old value; on success an acquire. -/
def execSemTry (w : D3W) (s : State) : Outcome State Fault Refusal :=
  loggedWord w.st 0x1E 2 (some (w.d.toNat, Config.latHss, true)) (do
    operands [w.a.toNat, w.b.toNat] [w.d.toNat]
    let a ← gr w.a.toNat
    let b ← gr w.b.toNat
    let (die, idx) ← semId a false
    needEntry
    if ← isFar die then askSem a die idx true (.try_ b)
    else do
      let s ← gets id
      let v := hssGet s die idx
      if tryOk v b then do
        upd (tryTake die idx v b (lastOfCtx s))
        acquireAt 3
      else pure ()
      holdEntry (hssLat s die)
      pure (i64 v)) s

/-- SEM.RD (R270). -/
def execSemRd (w : D2W) (s : State) : Outcome State Fault Refusal :=
  loggedWord w.st 0x1E 3 (some (w.d.toNat, Config.latHss, true)) (do
    operands [w.a.toNat] [w.d.toNat]
    let a ← gr w.a.toNat
    let (die, idx) ← semId a false
    needEntry
    if ← isFar die then askSem a die idx false .rd
    else do
      let s ← gets id
      holdEntry (hssLat s die)
      pure (i64 (hssGet s die idx))) s

/-- SEM.SET (R270): a privileged one clears poison. -/
def execSemSet (w : A2W) (s : State) : Outcome State Fault Refusal :=
  loggedWord w.st 0x1E 4 none (do
    operands [w.a.toNat, w.b.toNat] []
    let a ← gr w.a.toNat
    let b ← gr w.b.toNat
    let priv := (← gets curCtx).priv
    let (die, idx) ← semId a priv
    let s ← gets id
    raiseIf (!priv && hssReserved s die idx) tPROT a
    needEntry
    releaseAt 3
    if ← isFar die then do
      let _ ← sendSem die idx (.set b priv)
      pure ()
    else
      upd fun s =>
        let t := modDie s die fun x => { x with hssPoison := without x.hssPoison idx }
        traceCtx 0x21 1 a.toNat (i64 (b.toInt - hssGet s die idx)).toNat b.toNat (lastOfCtx s).toNat
          (hssPut die idx b.toInt (lastOfCtx s) t)
    holdEntry (hssLat s die)
    pure 0) s

/-! Crew barriers (R275). -/

/-- The counter of barrier `n` of the context's crew, for `parties` where the word names them: these are checked before the counter is
read. -/
def barCounter (n : Word) (parties : Option Word) : Op (Nat × Nat) := do
  let x ← gets curCtx
  raiseIf (!x.crewb.getLsbD 18 || decide (15 < n.toNat)) tPROT n
  match parties with
  | some b => raiseIf (b = 0 || decide (4096 < b.toNat)) tPROT b
  | none => pure ()
  let idx := x.crewb.toNat % 2^16 + n.toNat
  let die := x.crewb.toNat / 2^16 % 4
  let s ← gets id
  raiseIf (hssPoisoned s die idx) tPOISON (wd (idx + 2^16 * die))
  pure (die, idx)

/-- The count that ends the episode an arrival belongs to. -/
def episodeEnd (old : Int) (n : Nat) : Int := (Int.fdiv old n + 1) * n

/-- BAR.ARR (R275). DESIGN CHOICE (log 85): at 2^63 - 1 the counter stays, as SEM.ADD saturates (R270). -/
def execBarArr (w : D3W) (s : State) : Outcome State Fault Refusal :=
  loggedWord w.st 0x20 0 (some (w.d.toNat, Config.latHss, true)) (do
    operands [w.a.toNat, w.b.toNat] [w.d.toNat]
    let a ← gr w.a.toNat
    let b ← gr w.b.toNat
    let (die, idx) ← barCounter a (some b)
    needEntry
    releaseAt 3
    if ← isFar die then askSem (wd (idx + 2^16 * die)) die idx false (.arr b.toNat)
    else do
      let s ← gets id
      let old := hssGet s die idx
      upd fun s => hssPut die idx (sat64 (old + 1)) (lastOfCtx s) s
      holdEntry (hssLat s die)
      pure (i64 (episodeEnd old b.toNat))) s

/-- BAR.WAIT (R275). -/
def execBarWait (w : A2W) (s : State) : Outcome State Fault Refusal :=
  loggedWord w.st 0x20 1 none (do
    operands [w.a.toNat, w.b.toNat] []
    let a ← gr w.a.toNat
    let b ← gr w.b.toNat
    let (die, idx) ← barCounter a none
    waitHssAt 3 (wd (idx + 2^16 * die)) die idx b.toInt
    pure 0) s

/-! Transaction barriers (R276 to R278). -/

/-- The fields of a barrier; the reserved bits are kept. -/
structure Barrier where
  gen : Nat
  arrived : Nat
  need : Nat
  rsvLo : Nat
  landed : Nat
  expect : Nat
  err : Bool
  rsvHi : Nat
  deriving DecidableEq, Repr

/-- The barrier in 16 bytes. -/
def barrierOf (v : Nat) : Barrier :=
  ⟨nbits v 0 16, nbits v 16 20, nbits v 36 20, nbits v 56 8, nbits v 64 24, nbits v 88 24, nbits v 112 1 = 1, nbits v 113 15⟩
/-- The 16 bytes of a barrier. -/
def Barrier.bits (b : Barrier) : Nat :=
  b.gen + 2^16 * b.arrived + 2^36 * b.need + 2^56 * b.rsvLo + 2^64 * b.landed + 2^88 * b.expect + 2^112 * b.err.toNat +
    2^113 * b.rsvHi
/-- Close (R277). -/
def Barrier.close (b : Barrier) : Barrier :=
  if b.arrived = b.need && b.landed = b.expect then
    { b with gen := (b.gen + 1) % 2^16, arrived := 0, landed := 0, expect := 0 }
  else b
/-- An arrival. -/
def Barrier.arrive (b : Barrier) : Barrier :=
  if b.need ≤ b.arrived then { b with err := true } else Barrier.close { b with arrived := b.arrived + 1 }
/-- `n` sectors expected. -/
def Barrier.expectN (b : Barrier) (n : Nat) : Barrier :=
  if 0xFFFFFF < n || 0xFFFFFF < b.expect + n then { b with err := true } else Barrier.close { b with expect := b.expect + n }
/-- `n` sectors landed. -/
def Barrier.land (b : Barrier) (n : Nat) : Barrier :=
  if 0xFFFFFF < b.landed + n then { b with err := true } else Barrier.close { b with landed := b.landed + n }
/-- Passed (R277). -/
def genPassed (gen g : Nat) : Bool :=
  let d := (gen + 2^16 - g % 2^16) % 2^16
  decide (1 ≤ d) && decide (d ≤ 0x7FFF)

/-- The place of a barrier: a scratchpad window, outside the system area, 16-byte aligned (R277). -/
def barrierAt (va : Word) : Op Tgt := do
  raiseIf (!(fieldOf va 48 16 = 0xFE || fieldOf va 48 16 = 0xFD)) tPROT va
  needEntry
  resolve va 16 ⟨true, true, false, false⟩

/-- The barrier at a place. -/
def barrierRead (t : Tgt) (va : Word) : Op Barrier := do
  let v ← readAt t va 16
  pure (barrierOf v)

/-- The key of a barrier's place. -/
def barKey (t : Tgt) : Nat :=
  match t with
  | .scr c off => scrKey c off
  | _ => 0

/-- Note the generation that an update of the barrier at a key replaces (R278). -/
def noteGen (key old new : Nat) (s : State) : State :=
  if old = new then s else { s with genOld := (s.genOld.filter fun e => e.cycle = s.now) ++ [⟨s.now, key, old⟩] }

/-- The generation as a waiting word of this cycle sees it: an advance of this cycle is seen from the next (R278). -/
def genSeen (s : State) (key gen : Nat) : Nat :=
  match s.genOld.find? fun e => e.cycle = s.now && e.key = key with
  | some e => e.old
  | none => gen

/-- Write a barrier back. -/
def barrierWrite (t : Tgt) (va : Word) (old new : Barrier) : Op Unit := do
  writeAt t va 16 new.bits
  upd (noteGen (barKey t) old.gen new.gen)

/-- TBAR.ARR (R277): a release at package scope. -/
def execTbarArr (w : D2W) (s : State) : Outcome State Fault Refusal :=
  loggedWord w.st 0x20 2 (some (w.d.toNat, Config.latOwn, true)) (do
    operands [w.a.toNat] [w.d.toNat]
    let a ← gr w.a.toNat
    let t ← barrierAt a
    let b ← barrierRead t a
    releaseAt 3
    barrierWrite t a b b.arrive
    holdEntry (accessLat (← gets id) t)
    pure (wd b.gen)) s

/-- TBAR.EXP (R277). -/
def execTbarExp (w : A2W) (s : State) : Outcome State Fault Refusal :=
  loggedWord w.st 0x20 3 none (do
    operands [w.a.toNat, w.b.toNat] []
    let a ← gr w.a.toNat
    let n ← gr w.b.toNat
    let t ← barrierAt a
    let b ← barrierRead t a
    barrierWrite t a b (b.expectN n.toNat)
    holdEntry (accessLat (← gets id) t)
    pure 0) s

/-- TBAR.WAIT (R277, R278): an acquire at package scope. -/
def execTbarWait (w : D3W) (s : State) : Outcome State Fault Refusal :=
  loggedWord w.st 0x20 4 (some (w.d.toNat, Config.latOwn, true)) (do
    operands [w.a.toNat, w.b.toNat] [w.d.toNat]
    let a ← gr w.a.toNat
    let g ← gr w.b.toNat
    let t ← barrierAt a
    let b ← barrierRead t a
    let gen := genSeen (← gets id) (barKey t) b.gen
    waitIf (!(genPassed gen (g.toNat % 2^16) || b.err)) 4 a
    acquireAt 3
    holdEntry (accessLat (← gets id) t)
    pure (wd (gen + 2^16 * b.err.toNat))) s

/-! Updates by engines (R268). -/

/-- The segments of a die with `g` as its engine's most recent; an engine keeps 64. -/
def windowPut (l : List Segment) (g : Segment) : List Segment :=
  let own := (l.filter fun e => e.engine = g.engine && !(e.record = g.record && e.mark = g.mark)).take 63
  g :: own ++ (l.filter fun e => e.engine != g.engine)

/-- The segment of a key, if the window holds it. -/
def windowFind (l : List Segment) (engine record : Nat) (mark : BitVec 32) : Option Segment :=
  l.find? fun e => e.engine = engine && e.record = record && e.mark = mark

/-- One keyed update: applied with the saturation of R270 and LAST, or discarded as a repeat. A poisoned counter takes none (R263). -/
def engineUpdate (u : EngineUpdate) (s : State) : State :=
  let d := u.die.toNat
  let put (v : Int) (t : State) : State := if hssPoisoned s d u.index.toNat then t else hssPut d u.index.toNat v u.last t
  match windowFind (dieOf s d).window u.engine u.record u.mark with
  | some g =>
    if u.ordinal ≤ g.ordinal then modDie s d fun x => { x with window := windowPut x.window g }
    else
      put (sat64 (hssGet s d u.index.toNat + u.delta))
        (modDie s d fun x => { x with window := windowPut x.window { g with ordinal := u.ordinal } })
  | none =>
    put (sat64 (hssGet s d u.index.toNat + u.delta))
      (modDie s d fun x => { x with window := windowPut x.window ⟨u.engine, u.record, u.mark, u.ordinal⟩ })

/-- The update is new to the window: it is applied and writes a SIGNAL record (R268, spec/19_observation.md R403). -/
def updateIsNew (u : EngineUpdate) (s : State) : Bool :=
  match windowFind (dieOf s u.die.toNat).window u.engine u.record u.mark with
  | some g => decide (g.ordinal < u.ordinal)
  | none => true

/-- A new update of a poisoned counter: the packet that makes it ends with POISON (R263). -/
def updateLost (u : EngineUpdate) (s : State) : Bool := updateIsNew u s && hssPoisoned s u.die.toNat u.index.toNat

/-- Apply an engine's update for partition `p`, with its SIGNAL record. -/
def applyUpdate (p : Nat) (u : EngineUpdate) (s : State) : State :=
  let t := engineUpdate u s
  let kind := u.last.toNat % 16
  let core := u.last.toNat / 16 % 128
  let id := u.index.toNat + 2^16 * u.die.toNat
  if updateIsNew u s then
    traceUnit (dieOfCore core) kind core p 0x21 1 0 id (i64 u.delta).toNat
      (i64 (hssGet t u.die.toNat u.index.toNat)).toNat u.last.toNat t
  else t

/-- HSS_ENGINE_UPDATE (R268). -/
def execHssEngineUpdate (u : EngineUpdate) (s : State) : Outcome State Fault Refusal := .next (applyUpdate (corePart s (u.last.toNat / 16 % 128)) u s)

/-- HSS_SCRUB (R263): the majority of the three copies corrects the third; with none the counter is poisoned. -/
def execHssScrub (r : HssRef) (s : State) : Outcome State Fault Refusal :=
  let d := r.die.toNat
  let i := r.index.toNat
  let t := useScrub d s
  let put (v : Word) : State := modDie t d fun x => { x with hss := tput x.hss i v.toInt }
  .next (if scrubFull s d then nextPeriod (.hssScrub r) s
    else if r.copy0 = r.copy1 || r.copy0 = r.copy2 then put r.copy0
    else if r.copy1 = r.copy2 then put r.copy1
    else modDie t d fun x => { x with hssPoison := withOne x.hssPoison i })

end Sys2Proof.Machine
end

