-- ==== Sys2Proof/Machine/Tile.lean ====
section
/-! DEFINITION. Slots, tiles and rings, and the TILE words of a context (spec/06_scratchpad.md R140 to R153). -/

namespace Sys2Proof.Machine

open Host (Outcome)

/-- TVAL of a RING trap (R152). -/
def ringVal (id reason : Nat) : Word := wd (id + 256 * reason)

/-- A descriptor's address as the 0xFE VA of slot `slot` (R149). -/
def slotVa (d : Desc) (slot : Nat) : Word := wd (0xFE * 2^48 + slotBase d slot)

/-- A unit stores into `n` bytes of a scratchpad: full slots and fill regions that they meet are noted (R144, spec/14_grids.md R316). -/
def noteStored (s : State) (core off n : Nat) : State := ghostNote (spoil s core off n) core off n
/-- Store bytes of a unit in a scratchpad. -/
def scrStore (s : State) (core off : Nat) (l : List Byte) : State := storeBytes (noteStored s core off l.length) (scrKey core off) l

/-- The slot after `slot`. -/
def nextSlot (d : Desc) (slot : Nat) : Nat := (slot + 1) % max 1 d.depth

/-- A fill of slot TAIL: header and TAIL (R143, R150). The slot's pending tag is spent (spec/08_sequencer.md R195). -/
def fillSlot (s : State) (core id tag step filler count : Nat) : State :=
  let d := descOf s core id
  let h := hdrOff id d.tail
  let s0 := unspoil (noteSlot s core id d.tail) core id d.tail
  let s1 := sysWrite (modCore s0 core fun k => { k with ve := { k.ve with ptag := tdel k.ve.ptag (64 * id + d.tail) } }) core (h + 2) 2 tag
  let s2 := sysWrite s1 core (h + 4) 4 step
  let s3 := sysWrite s2 core (h + 8) 2 filler
  let s4 := sysWrite s3 core (h + 12) 4 count
  let s5 := sysWrite s4 core h 1 1
  if id < 16 then sysWrite s5 core (descOff id + 13) 1 (nextSlot d d.tail) else s5

/-- A pop of slot HEAD by the consumer `kind` (R143). -/
def popSlot (s : State) (core id kind : Nat) : State :=
  let d := descOf s core id
  let h := hdrOff id d.head
  let s1 := sysWrite (noteSlot s core id d.head) core (h + 10) 2 kind
  let s2 := sysWrite s1 core h 1 2
  if id < 16 then sysWrite s2 core (descOff id + 12) 1 (nextSlot d d.head) else s2

/-- A retired-pending slot turns full again, and HEAD moves back to the oldest such slot (R143). -/
def unpopSlots (s : State) (core kind : Nat) : State :=
  (upto 48).foldl (fun t id =>
    let d := descOf t core id
    let hit := (upto (if id < 16 then 64 else 1)).filter fun i =>
      slotState t core id i = 2 && sysRead t core (hdrOff id i + 10) 1 % 16 = kind
    let t1 := hit.foldl (fun u i => sysWrite (noteSlot u core id i) core (hdrOff id i) 1 1) t
    if id < 16 && !hit.isEmpty then
      sysWrite t1 core (descOff id + 12) 1 ((d.head + d.depth * 64 - hit.length) % max 1 d.depth)
    else t1) s

/-- The wait's LASTU: the filler or retirer of the slot that ended it (spec/19_observation.md R407). -/
def noteLast (n : Nat) : Op Unit := upd fun s => modCur s fun x =>
  match x.waiting with
  | some w => { x with waiting := some { w with lastu := n } }
  | none => x

/-- The checks of a TILE word before its slot (R149): object kind, and EN. -/
def tileOn (id : Nat) (ring : Bool) : Op Desc := do
  raiseIf (decide (id < 16) != ring) tRING (ringVal id 1)
  let s ← gets (fun s => s)
  let d := descOf s (curCore s) id
  waitIf (!d.en) 1 (wd id)
  pure d

/-- Wait until slot HEAD is full, as it stood when the cycle began (R145); its VA (R149). -/
def waitFull (id : Nat) (ring : Bool) : Op Word := do
  let d ← tileOn id ring
  let s ← gets (fun s => s)
  let h := headSeen s (curCore s) id d
  waitIf (slotSeen s (curCore s) id h != 1) 1 (wd id)
  noteLast (sysRead s (curCore s) (hdrOff id h + 8) 2)
  pure (slotVa d h)

/-- Wait until slot TAIL is empty; its VA (R149). -/
def waitEmpty (id : Nat) (ring : Bool) : Op Word := do
  let d ← tileOn id ring
  let s ← gets (fun s => s)
  let t := tailSeen s (curCore s) id d
  waitIf (slotSeen s (curCore s) id t != 0) 1 (wd id)
  noteLast (sysRead s (curCore s) (hdrOff id t + 10) 2)
  pure (slotVa d t)

/-- A fill by the issuing context (R146, R150). DEDUCED (log 69): RING reasons 1 and 7 come before the ILLOP of a tag, as in the pseudocode
of R150; R149 lists ILLOP first. -/
def tileFill (i : Instr) (id : Nat) (ring : Bool) (tv cnt : Word) : Op Unit := do
  raiseIf (decide (id < 16) != ring) tRING (ringVal id 1)
  raiseIf (fieldOf tv 48 16 != 0 || fieldOf cnt 32 32 != 0) tRING (ringVal id 7)
  raiseIf (decide (13 ≤ fieldOf tv 12 4) || decide (5 ≤ fieldOf tv 8 4)) tILLOP (wordOf i)
  let d ← tileOn id ring
  let s ← gets (fun s => s)
  let kind := ctxNum (curSel s)
  raiseIf (d.prod != kind && d.prod != 15) tRING (ringVal id 2)
  raiseIf (decide (d.slotb < cnt.toNat)) tRING (ringVal id 4)
  waitIf (!tailEmpty s (curCore s) id d) 1 (wd id)
  noteLast (sysRead s (curCore s) (hdrOff id d.tail + 10) 2)
  upd fun s => fillSlot s (curCore s) id (fieldOf tv 8 8 * 256) (fieldOf tv 16 32) (kind + 16 * curCore s) cnt.toNat

/-- A pop by the issuing context (R150). -/
def tilePop (id : Nat) (ring : Bool) : Op Unit := do
  let d ← tileOn id ring
  let s ← gets (fun s => s)
  let kind := ctxNum (curSel s)
  raiseIf (d.cons != kind) tRING (ringVal id 3)
  waitIf (!headFull s (curCore s) id d) 1 (wd id)
  noteLast (sysRead s (curCore s) (hdrOff id d.head + 8) 2)
  upd fun s => popSlot s (curCore s) id d.cons

/-- TWAITF (R149). -/
def execTwaitf (w : TileDW) (s : State) : Outcome State Fault Refusal :=
  ctxWord w.st (do
    operands [] [w.d.toNat]
    let va ← waitFull w.i.toNat false
    gw w.d.toNat va 2 false false) s

/-- TWAITE (R149), a logged word. -/
def execTwaite (w : TileDW) (s : State) : Outcome State Fault Refusal :=
  loggedWord w.st 0x21 1 (some (w.d.toNat, 2, false)) (do
    operands [] [w.d.toNat]
    waitEmpty w.i.toNat false) s

/-- TSETF (R150), a logged word: count in register d, tag and step in register a. -/
def execTsetf (w : TileFW) (s : State) : Outcome State Fault Refusal :=
  loggedWord w.st 0x21 2 none (do
    operands [w.a.toNat, w.d.toNat] []
    let tv ← gr w.a.toNat
    let cnt ← gr w.d.toNat
    tileFill (.tsetf w) w.i.toNat false tv cnt
    pure 0) s

/-- TSETE (R150). -/
def execTsete (w : TileIW) (s : State) : Outcome State Fault Refusal := ctxWord w.st (tilePop w.i.toNat false) s

/-- QWAITF (R149). -/
def execQwaitf (w : TileDW) (s : State) : Outcome State Fault Refusal :=
  ctxWord w.st (do
    operands [] [w.d.toNat]
    let va ← waitFull w.i.toNat true
    gw w.d.toNat va 2 false false) s

/-- QWAITE (R149), a logged word. -/
def execQwaite (w : TileDW) (s : State) : Outcome State Fault Refusal :=
  loggedWord w.st 0x21 5 (some (w.d.toNat, 2, false)) (do
    operands [] [w.d.toNat]
    waitEmpty w.i.toNat true) s

/-- QPUSH (R150), a logged word. -/
def execQpush (w : TileFW) (s : State) : Outcome State Fault Refusal :=
  loggedWord w.st 0x21 6 none (do
    operands [w.a.toNat, w.d.toNat] []
    let tv ← gr w.a.toNat
    let cnt ← gr w.d.toNat
    tileFill (.qpush w) w.i.toNat true tv cnt
    pure 0) s

/-- QPOP (R150). -/
def execQpop (w : TileIW) (s : State) : Outcome State Fault Refusal := ctxWord w.st (tilePop w.i.toNat true) s

/-! QCFG (R151). -/

/-- A configuration whose zero fields are not zero. -/
def cfgBadZero (ring : Bool) (v : Word) : Bool := fieldOf v 55 9 != 0 || (!ring && fieldOf v 53 1 != 0)

/-- A configuration that may not be enabled. -/
def cfgBad (ring : Bool) (v : Word) : Bool :=
  let base := fieldOf v 0 22
  let n := fieldOf v 22 16
  let depth := fieldOf v 38 7
  let prod := fieldOf v 45 4
  n = 0 || decide (49152 < n) || depth = 0 || decide (64 < depth) || (!ring && depth != 1) || base % 64 != 0 ||
    decide (0x2F0000 < base + 64 * n * depth) || (decide (8 ≤ prod) && prod != 15) || decide (8 ≤ fieldOf v 49 4)

/-- Write a descriptor with HEAD and TAIL zero, and a ring's transom counters zero (R151, spec/07_vector.md R179). -/
def cfgWrite (s : State) (core id : Nat) (v : Word) : State :=
  let o := descOff id
  let s1 := sysWrite s core o 4 (fieldOf v 0 22)
  let s2 := sysWrite s1 core (o + 4) 4 (64 * fieldOf v 22 16)
  let s3 := sysWrite s2 core (o + 8) 1 (if id < 16 then fieldOf v 38 7 else 1)
  let s4 := sysWrite s3 core (o + 9) 1 (fieldOf v 54 1 + 2 * fieldOf v 53 1)
  let s5 := sysWrite s4 core (o + 10) 1 (fieldOf v 45 4 + 16 * fieldOf v 49 4)
  let s6 := sysWrite s5 core (o + 12) 2 0
  if id < 16 then
    let t := sysWrite s6 core (o + 16) 6 0
    modCore t core fun k => { k with ve := { k.ve with tfree := tdel k.ve.tfree id } }
  else s6

/-- The slots of a ring or tile whose headers are not empty, or a transom that holds entries. -/
def cfgBusy (s : State) (core id : Nat) : Bool :=
  (upto (if id < 16 then 64 else 1)).any (fun i => slotState s core id i != 0) ||
    (decide (id < 16) && (descOf s core id).transom && sysRead s core (descOff id + 20) 2 != 0)

/-- QCFG (R151), a logged word. -/
def execQcfg (w : QcfgW) (s : State) : Outcome State Fault Refusal :=
  loggedWord w.st 0x21 8 none (do
    let n := w.i.toNat
    operands [w.a.toNat] []
    let v ← gr w.a.toNat
    raiseIf (cfgBadZero (decide (n < 16)) v || (fieldOf v 54 1 = 1 && cfgBad (decide (n < 16)) v)) tRING (ringVal n 6)
    let s ← gets (fun s => s)
    raiseIf (cfgBusy s (curCore s) n) tRING (ringVal n 5)
    upd fun s => cfgWrite s (curCore s) n v
    pure 0) s

end Sys2Proof.Machine
end

