-- ==== Sys2Proof/Machine/Unit.lean ====
section
/-! DEFINITION. What the units share: memory accesses by VA or PA with the checks of spec/10_pages.md R220, user interrupts
(spec/04_contexts.md R104, R105). -/

namespace Sys2Proof.Machine

/-- Why a unit's access is refused: a trap code, or a walk fault with its reason; reason 0 of a VA in the 0xFC window: the bytes have still
to come from the other package (R241). -/
inductive UErr where
  | code (c : Nat)
  | walk (reason : Nat)
  deriving DecidableEq, Repr

/-- A unit's access to a knock word: an aligned 8-byte store is a knock, checked against PART of its queue (spec/16_launch.md R344). -/
def knockTgt (s : State) (p : Nat) (need : Need) (d q pa n : Nat) : Except UErr Tgt :=
  let st := need.w && n == 8 && pa % 8 == 0
  if st && lqPart s d q != p then .error (.code tPROT) else .ok (.knock d q st)

/-- A scratchpad access of a unit: a window offset within the bound of its kind. -/
def scrOk (need : Need) (off n : Nat) : Bool := decide (off + n ≤ if need.w then 0x2F0000 else 0x300000)

/-- Resolve an access of `n` bytes of a unit of core `core` for partition `p`: the 0xFE window is that core's scratchpad. DESIGN CHOICE (log
82): the accesses of units are user accesses, which a page with U = 0 refuses; R224 speaks of privilege for contexts only. -/
def unitTgt (s : State) (core p : Nat) (need : Need) (va n : Nat) : Except UErr Tgt × State :=
  let off := nbits va 0 22
  let offOk := scrOk need off n
  if 2^56 ≤ va then (.error (.code tPROT), s)
  else
    match nbits va 48 8 with
    | 0xFF => (.error (.code tPROT), s)
    | 0xFE => (if nbits va 22 26 = 0 && offOk then .ok (.scr core off) else .error (.code tPROT), s)
    | 0xFD =>
      (if nbits va 29 19 = 0 && offOk && (nbits va 22 7 = core || coreInPart s p (nbits va 22 7)) then .ok (.scr (nbits va 22 7) off)
        else .error (.code tPROT), s)
    | 0xFC =>
      let peer := nbits va 36 12
      let st := peerState s p peer
      (if st < 2 then .error (.code tABSENT) else if st = 2 then .error (.code tDENIED) else .ok (.remote peer (nbits va 0 36)), s)
    | _ =>
      match translate s core p true need va with
      | (.refused c, t) => (.error (.code c), t)
      | (.walkFault r, t) => (.error (.walk r), t)
      | (.ok pa pte, t) =>
        match knockAt t pa with
        | some (d, q) => (knockTgt t p need d q pa n, t)
        | none =>
          match rangeCheck t pa ⟨p, false⟩ with
          | some c => (.error (.code c), t)
          | none => (.ok (.phys pa pte), t)

/-- Bytes at a PA as the units of die `d` read them: the die's copy of a die-coherent remote-homed line, else its home. A strong read
takes of such a copy only what it holds dirty (spec/11_ordering.md R256). -/
def physRead (s : State) (d pa pte n : Nat) : List Byte :=
  match (if copyable d pa pte then tget? (dieOf s d).l2 (pa / 128) else none) with
  | some c => rdBytes (if pteOrd pte = 0 then writeBackGo s.mem (128 * (pa / 128)) c 128
      else wrN s.mem (128 * (pa / 128)) 128 c.data.toNat) pa n
  | none => rdBytes s.mem pa n

/-- Bytes at a resolved place within one line. -/
def tgtRead (s : State) (core : Nat) (t : Tgt) (n : Nat) : Except UErr (List Byte) :=
  match t with
  | .scr c off => if hasBad s (scrKey c off) n then .error (.code tPOISON) else .ok (scrBytes s c off 0 n)
  | .phys pa pte => if hasBad s pa n then .error (.code tPOISON) else .ok (physRead s (dieOfCore core) pa pte n)
  | .remote _ _ => .error (.code tPROT)
  | .knock _ _ _ => .ok (List.replicate n 0)
  | .far id inner =>
    match s.farReads.find? fun e => e.id = id with
    | some e => .ok (((e.data.getD []).drop inner).take n)
    | none => .error (.code tXLATE)

/-- A write of `n` bytes that covers part of an uncorrectable scratchpad word only raises POISON (spec/06_scratchpad.md R135). -/
def tgtCut (s : State) (t : Tgt) (n : Nat) : Bool :=
  match t with
  | .scr c off => badEdge s (scrKey c off) n
  | _ => false

/-- A read that finds an uncorrectable word turns the tag of its full slot to POISON (spec/06_scratchpad.md R143). -/
def tgtPoison (s : State) (t : Tgt) (n : Nat) : State :=
  match t with
  | .scr c off => poisonSlots s c off n
  | _ => s

/-- A transaction of a unit of core or die key `core` for partition `p` (R241). -/
def unitTx (s : State) (kind : TxKind) (unitKind core p peer off n : Nat) : Tx :=
  { kind := kind, src := s.peer, dest := BitVec.ofNat 12 peer, part := BitVec.ofNat 3 (peerByte s p peer / 4), pkt := 0,
    off := BitVec.ofNat 36 off, len := n, unitKind := BitVec.ofNat 4 unitKind, who := BitVec.ofNat 16 core, data := [], aop := 0,
    operand := 0, expect := 0, status := 0, enc := (seenPart s p).isSealed }

/-- Send a transaction with a fresh id. -/
def sendTx (s : State) (t : Tx) : Nat × State := (s.reqId, queueTx s.reqId 0 t { s with reqId := s.reqId + 1 })

/-- Write bytes at a resolved place for partition `p`. A unit's write is performed at its home: the die's copy of the line is dropped first
(spec/11_ordering.md R253). One to another package is posted. -/
def tgtWrite (s : State) (core p : Nat) (t : Tgt) (l : List Byte) : State :=
  match t with
  | .scr c off => scrStore s c off l
  | .knock d q true =>
    let v := bytesNat l
    let k : KnockStore := ⟨BitVec.ofNat 2 d, BitVec.ofNat 12 q, BitVec.ofNat 32 v, BitVec.ofNat 32 (v / 2^32), .context (BitVec.ofNat 3 p)⟩
    { s with events := s.events ++ [⟨.cp (BitVec.ofNat 2 d), some (.knock k)⟩] }
  | .phys pa pte =>
    let d := dieOfCore core
    storeBytes (if copyable d pa pte then dropL2 s d (pa / 128) else s) pa l
  | .remote peer off => (sendTx s { unitTx s .write (agentKind s.cur) core p peer off l.length with data := l }).2
  | _ => s

/-- The bytes up to the next 64-byte boundary, at most `n`. -/
def chunkOf (va n : Nat) : Nat := min n (64 - va % 64)

/-- How a unit resolves an access: need, VA, bytes. -/
abbrev Resolver := State → Need → Nat → Nat → Except UErr Tgt × State

/-- Read `n` bytes from `va` in chunks that lie in one 64-byte block; a refusal comes with its VA. `core` names the die whose
copies are read. -/
def readVia (res : Resolver) (fuel : Nat) (s : State) (core va n : Nat) : Except (UErr × Nat) (List Byte) × State :=
  match fuel with
  | 0 => (.ok [], s)
  | fuel + 1 =>
    if n = 0 then (.ok [], s)
    else
      let k := chunkOf va n
      match res s ⟨true, false, false, false⟩ va k with
      | (.error e, t) => (.error (e, va), t)
      | (.ok g, t) =>
        match tgtRead t core g k with
        | .error e => (.error (e, va), tgtPoison t g k)
        | .ok a =>
          match readVia res fuel t core (va + k) (n - k) with
          | (.ok b, u) => (.ok (a ++ b), u)
          | (.error e, u) => (.error e, u)

/-- Write bytes of partition `p` from `va` in chunks: the first refusal with its VA, if any, and the state, bytes before it written. -/
def writeVia (res : Resolver) (fuel : Nat) (s : State) (core p va : Nat) (l : List Byte) : Option (UErr × Nat) × State :=
  match fuel with
  | 0 => (none, s)
  | fuel + 1 =>
    if l.isEmpty then (none, s)
    else
      let k := chunkOf va l.length
      match res s ⟨false, true, false, false⟩ va k with
      | (.error e, t) => (some (e, va), t)
      | (.ok g, t) =>
        if tgtCut t g k then (some (.code tPOISON, va), tgtPoison t g k)
        else writeVia res fuel (tgtWrite t core p g (l.take k)) core p (va + k) (l.drop k)

/-- What a write of `n` bytes from `va` would be refused with, nothing being written. -/
def probeVia (res : Resolver) (fuel : Nat) (s : State) (va n : Nat) : Option (UErr × Nat) × State :=
  match fuel with
  | 0 => (none, s)
  | fuel + 1 =>
    if n = 0 then (none, s)
    else
      let k := chunkOf va n
      match res s ⟨false, true, false, false⟩ va k with
      | (.error e, t) => (some (e, va), t)
      | (.ok g, t) => if tgtCut t g k then (some (.code tPOISON, va), tgtPoison t g k) else probeVia res fuel t (va + k) (n - k)

/-- An access to the 0xFC window of what a unit reads or writes for itself (spec/10_pages.md R241): the peer check, with its event; the package's
own number is served locally; a read of another package obtains the answer that has come, or is to be asked for; a write is posted. -/
def peerTgt (p : Nat) : Resolver := fun s need va k =>
  let peer := nbits va 36 12
  let off := nbits va 0 36
  let st := peerState s p peer
  if st < 2 then (.error (.code tABSENT), s)
  else if st = 2 then (.error (.code tDENIED), sendEvent (p + 1) 0x22 [] s)
  else if peer = s.peer.toNat then
    match exportTgt s p off k need.w false with
    | some g => (.ok g, s)
    | none => (.error (.code tXLATE), s)
  else if need.w then (.ok (.remote peer off), s)
  else
    let mine (e : FarRead) : Bool := e.part = p && e.peer = peer && e.off = off / 64 * 64 && (e.data.isSome || e.bad)
    match s.farReads.find? mine with
    | some e => (if e.bad then .error (.code tXLATE) else .ok (.far e.id (off % 64)),
        { s with farReads := s.farReads.map fun x => if mine x then { x with used := true } else x })
    | none => (.error (.walk 0), s)

/-- How a unit of a core resolves an access to what it reads or writes for itself. -/
def servedTgt (core p : Nat) : Resolver := fun s need va k =>
  if va < 2^56 && nbits va 48 8 = 0xFC then peerTgt p s need va k else unitTgt s core p need va k

/-- Ask another package for the 64 bytes that hold a VA: the request leaves once, and what is held is tried again with the answer. -/
def farAsk (s : State) (p va unitKind core : Nat) (held : List Held) : State :=
  let peer := nbits va 36 12
  let off := nbits va 0 36 / 64 * 64
  let mine (e : FarRead) : Bool := e.part = p && e.peer = peer && e.off = off
  if s.farReads.any mine then
    { s with farReads := s.farReads.map fun e => if mine e then { e with held := e.held ++ held.filter fun h => !e.held.contains h } else e }
  else
    let r := sendTx s (unitTx s .read unitKind core p peer off 64)
    { r.2 with farReads := r.2.farReads ++ [⟨s.cur, p, peer, off, va, r.1, held, none, false, false⟩] }

/-- Hold a unit's access: on the fault queue, none where that is full; or, for one to another package, until the answer comes. -/
def unitHold (s : State) (d p va : Nat) (write fetch : Bool) (reason unitKind core : Nat) (held : List Held) : Option State :=
  if nbits va 48 8 = 0xFC then some (farAsk s p va unitKind core held) else fqEnter s d p va write fetch reason unitKind core held

/-- A word of a context that meets a walk fault in a unit's access: XLATE with an entry, or a wait where the queue is full (R229, R230); a wait
for the answer of another package. -/
def wordHold {α : Type} (s : State) (d p va : Nat) (write : Bool) (reason unitKind core : Nat) : Op α :=
  match unitHold s d p va write false reason unitKind core [] with
  | none => stop (.wait 9 (wd va))
  | some t => if nbits va 48 8 = 0xFC then stop (.waitIn t 7 (wd va)) else stop (.trapIn t tXLATE (wd va))

/-- Read `n` bytes from `va` for a unit of a core. -/
def unitRead (s : State) (core p va n : Nat) : Except (UErr × Nat) (List Byte) × State :=
  readVia (servedTgt core p) (n / 64 + 2) s core va n

/-- Write bytes from `va` for a unit of a core. -/
def unitWrite (s : State) (core p va : Nat) (l : List Byte) : Option (UErr × Nat) × State :=
  writeVia (servedTgt core p) (l.length / 64 + 2) s core p va l

/-- Resolve an access of `n` bytes of a unit that uses the shared TLB of die `d` (spec/10_pages.md R226): such a unit has no scratchpad of its
own, which the 0xFE window would name; the other windows are those of R219. -/
def dieTgt (s : State) (d p : Nat) (need : Need) (va n : Nat) : Except UErr Tgt × State :=
  if 2^56 ≤ va then (.error (.code tPROT), s)
  else
    match nbits va 48 8 with
    | 0xFF => (.error (.code tPROT), s)
    | 0xFE => (.error (.code tPROT), s)
    | 0xFD =>
      (if nbits va 29 19 = 0 && scrOk need (nbits va 0 22) n && coreInPart s p (nbits va 22 7) then .ok (.scr (nbits va 22 7) (nbits va 0 22))
        else .error (.code tPROT), s)
    | 0xFC => peerTgt p s need va n
    | _ =>
      match translateDie s d p need va with
      | (.refused c, t) => (.error (.code c), t)
      | (.walkFault r, t) => (.error (.walk r), t)
      | (.ok pa pte, t) =>
        match knockAt t pa with
        | some (k, q) => (knockTgt t p need k q pa n, t)
        | none =>
          match rangeCheck t pa ⟨p, false⟩ with
          | some c => (.error (.code c), t)
          | none => (.ok (.phys pa pte), t)

/-- Read `n` bytes from `va` for a unit of a die. -/
def dieRead (s : State) (d p va n : Nat) : Except (UErr × Nat) (List Byte) × State :=
  readVia (fun s need va k => dieTgt s d p need va k) (n / 64 + 2) s (32 * d) va n

/-- Write bytes from `va` for a unit of a die. -/
def dieWrite (s : State) (d p va : Nat) (l : List Byte) : Option (UErr × Nat) × State :=
  writeVia (fun s need va k => dieTgt s d p need va k) (l.length / 64 + 2) s (32 * d) p va l

/-- The trap code of a refusal; a walk fault is XLATE. -/
def UErr.trap (e : UErr) : Nat :=
  match e with
  | .code c => c
  | .walk _ => tXLATE

/-- The status of a refusal (spec/13_copy.md R285). -/
def statusOf (code : Nat) : Nat :=
  if code = tPROT then 0x15 else if code = tSEAL then 0x16 else if code = tPOISON then 0x17 else if code = tALIGN then 0x18
  else if code = tABSENT then 0x19 else if code = tDENIED then 0x1A else 0x14

/-- The status of a refusal by the export window: that of the range check, else XLATE. -/
def exportStatus (s : State) (p off n : Nat) : Nat :=
  let q := seenPart s p
  let a := nbits q.expbr.toNat 9 43 * 2^9 + 8 * (off / 2^30)
  let e := rdN s.mem a 8
  if !q.expbr.getLsbD 0 then 0x14
  else
    match (rangeCheck s a ⟨p, false⟩).orElse fun _ =>
        if e % 4 = 1 then rangeCheckAll s (nbits e 30 22 * 2^30 + off % 2^30) n ⟨p, false⟩ else none with
    | some c => statusOf c
    | none => 0x14

/-- The places of an access of `n` bytes at an offset of the export window, one for each entry that covers a part of it (spec/10_pages.md R242); or
the status of the refusal. -/
def exportRuns (s : State) (p off n : Nat) (write : Bool) : Except Nat (List (Tgt × Nat)) :=
  let k := 2^30 - off % 2^30
  let parts := if n ≤ k then [(off, n)] else [(off, k), (off + k, n - k)]
  parts.mapM fun e =>
    if 2^36 ≤ e.1 then .error 0x14
    else
      match exportTgt s p e.1 e.2 write false with
      | some g => .ok (g, e.2)
      | none => .error (exportStatus s p e.1 e.2)

/-! User interrupts (spec/04_contexts.md R104, R105). -/

/-- Queue a user interrupt on a context, or note UIRQ. DESIGN CHOICE (log 67): of records dropped before one boundary, one trap is
taken, with the VA of the last. -/
def takeUi (va : Word) (kind status : Nat) (y : Ctx) : Ctx :=
  if !y.live then y
  else if y.uq.length < 16 then { y with uq := y.uq ++ [⟨va, BitVec.ofNat 8 kind, BitVec.ofNat 16 status⟩] }
  else { y with uirq := some va }

/-- Raise a user interrupt on a context: queued, or UIRQ with a full queue. A context that has executed EXIT takes none (R99). -/
def raiseUi (core : Nat) (x : CtxSel) (va : Word) (kind status : Nat) (s : State) : State :=
  modCtx s core x (takeUi va kind status)

/-- A saved image of a core has the work outstanding. -/
def imageHolds (s : State) (core : Nat) (x : CtxSel) (w : EngOut) : Bool :=
  s.dies.any fun e => e.2.disp.rmu.any fun r => r.2.crews.any fun k => k.2.images.any fun i =>
    i.core = core && (match x with
      | .L => i.l
      | .C => i.c
      | .S => i.s).engOut.contains w

/-- Raise a user interrupt on the context of a core for which the work `w` is outstanding: the bound one, or that of a saved image. -/
def raiseUiFor (w : EngOut) (core : Nat) (x : CtxSel) (va : Word) (kind status : Nat) (s : State) : State :=
  if !(ctxOf s core x).engOut.contains w && imageHolds s core x w then
    modImages s core fun z y => if z = x && y.engOut.contains w then takeUi va kind status y else y
  else raiseUi core x va kind status s

/-- Remove an engine's, copy engine's or halo engine's outstanding work from a context's list (spec/11_ordering.md R257). -/
def workDone (core : Nat) (x : CtxSel) (w : EngOut) (s : State) : State :=
  modCtx s core x fun y => { y with engOut := y.engOut.filter fun e => !(e == w) }

end Sys2Proof.Machine
end

