-- ==== Sys2Proof/Machine/Engine.lean ====
section
/-! DEFINITION. Launch engines: the launch queue, the loop sequencer's position, what a word of an engine does when it
completes, waits or faults, and LNCH (spec/08_sequencer.md R185 to R194, spec/18_recovery.md R400). -/

namespace Sys2Proof.Machine

open Host (Outcome)

/-! Reaching an engine. -/

/-- The engine whose word runs. -/
def curEng (s : State) : EngSel :=
  match s.cur with
  | .me _ => .me
  | _ => .ve
/-- The agent of an engine. -/
def engAgent (c : Nat) (e : EngSel) : Agent :=
  match e with
  | .me => .me (BitVec.ofNat 7 c)
  | .ve => .ve (BitVec.ofNat 7 c)
/-- The unit kind of an engine (spec/06_scratchpad.md R141). -/
def engKind (e : EngSel) : Nat :=
  match e with
  | .me => 3
  | .ve => 4
/-- The sequencer of an engine. -/
def seqrOf (s : State) (c : Nat) (e : EngSel) : Seqr :=
  match e with
  | .me => (coreOf s c).me.q
  | .ve => (coreOf s c).ve.q
/-- Change a sequencer. -/
def modSeqr (s : State) (c : Nat) (e : EngSel) (f : Seqr → Seqr) : State :=
  modCore s c fun k =>
    match e with
    | .me => { k with me := { k.me with q := f k.me.q } }
    | .ve => { k with ve := { k.ve with q := f k.ve.q } }
/-- The vector engine of a core. -/
def modVe (s : State) (c : Nat) (f : Ve → Ve) : State := modCore s c fun k => { k with ve := f k.ve }
/-- The matrix engine of a core. -/
def modMe (s : State) (c : Nat) (f : Me → Me) : State := modCore s c fun k => { k with me := f k.me }
/-- Offset of queue entry `i` (R189). -/
def qOff (e : EngSel) (i : Nat) : Nat :=
  match e with
  | .me => 0x2F0000 + 256 * i
  | .ve => 0x2F1000 + 256 * i
/-- A field of queue entry `i`. -/
def entryField (s : State) (c : Nat) (e : EngSel) (i off n : Nat) : Nat := sysRead s c (qOff e i + off) n
/-- A field of the active launch's entry. -/
def launchField (s : State) (c : Nat) (e : EngSel) (off n : Nat) : Nat := entryField s c e (seqrOf s c e).head off n
/-- SEQ of the active record. -/
def launchSeq (s : State) (c : Nat) (e : EngSel) : Nat := launchField s c e 4 4
/-- The VA of the record of entry `i`. -/
def entryVa (s : State) (c : Nat) (e : EngSel) (i : Nat) : Word := tget (seqrOf s c e).recVa i 0

/-- Write a field of entry `i` and of the record at its VA (R186): the refusal of the latter, if any. -/
def entryPut (s : State) (c : Nat) (e : EngSel) (i off n v : Nat) : Option (UErr × Nat) × State :=
  let t := sysWrite s c (qOff e i + off) n v
  let q := seqrOf s c e
  unitWrite t c q.part.toNat ((entryVa s c e i).toNat + off) (natBytes n v)

/-- An access of an engine to what it reads or writes for itself meets a walk fault: it is held, or to be tried again (R230). -/
def engHold (c : Nat) (e : EngSel) (va : Nat) (write : Bool) (reason : Nat) (s : State) : State :=
  match unitHold s (dieOfCore c) (seqrOf s c e).part.toNat va write false reason (engKind e) c [.image (BitVec.ofNat 7 c) e] with
  | some u => modSeqr u c e fun q => { q with heldImage := true }
  | none => modSeqr (fqHold (dieOfCore c) (engKind e) c va s) c e fun q => { q with ready := s.now + 1 }

/-- Write a field of an entry whose launch has ended: a write of the record that meets a walk fault is held and made later, one that is refused
leaves the record's bytes (log 20). -/
def entryWrite (s : State) (c : Nat) (e : EngSel) (i off n v : Nat) : State :=
  let put : Nat × List Byte := ((entryVa s c e i).toNat + off, natBytes n v)
  let later (t : State) : State := modSeqr t c e fun q => { q with puts := q.puts ++ [put] }
  if !(seqrOf s c e).puts.isEmpty then later (sysWrite s c (qOff e i + off) n v)
  else
    match entryPut s c e i off n v with
    | (some (.walk r, a), t) => engHold c e a true r (later t)
    | (_, t) => t

/-- Make the held writes, in their order. -/
def flushPuts (c : Nat) (e : EngSel) (fuel : Nat) (s : State) : State :=
  match fuel, (seqrOf s c e).puts with
  | 0, _ => s
  | _, [] => s
  | fuel + 1, p :: l =>
    match unitWrite s c (seqrOf s c e).part.toNat p.1 p.2 with
    | (some (.walk r, a), t) => engHold c e a true r t
    | (_, t) => flushPuts c e fuel (modSeqr t c e fun q => { q with puts := l, ready := max q.ready (s.now + 1) })

/-! Levels (R187, R194). -/

/-- A level: first and last word, in use. -/
structure Lvl where
  first : Nat
  last : Nat
  used : Bool
  deriving DecidableEq, Repr

/-- LEVEL[l] of the active launch. -/
def lvlOf (s : State) (c : Nat) (e : EngSel) (l : Nat) : Lvl :=
  let v := launchField s c e (0x20 + 4 * l) 4
  ⟨nbits v 0 12, nbits v 12 12, nbits v 24 1 = 1⟩
/-- The six levels. -/
def lvlsOf (s : State) (c : Nat) (e : EngSel) : List Lvl := (upto 6).map (lvlOf s c e)
/-- No level. -/
def noLvl : Lvl := ⟨0, 0, false⟩

/-- The F and L flags of a word withhold it on this iteration (R71). -/
def withheld (q : Seqr) (w : Nat) : Bool :=
  let f := nbits w 1 1 = 1
  let l := nbits w 0 1 = 1
  (f || l) && !((f && nth q.idx q.lvl 0 = 0) || (l && nth q.idx q.lvl 0 + 1 = nth q.trip q.lvl 0))

/-- Leave the current level (R194). -/
def leaveLvl (lv : List Lvl) (q : Seqr) : Seqr :=
  let idx := setNth q.idx q.lvl 0
  if q.lvl = 0 then { q with idx := idx, phase := .finish }
  else { q with idx := idx, lvl := q.lvl - 1, pc := (nth lv q.lvl noLvl).last + 1, phase := .body }

/-- The end of an iteration: the next one, or out of the level. -/
def iterNext (lv : List Lvl) (q : Seqr) : Seqr :=
  let i := nth q.idx q.lvl 0 + 1
  if i < nth q.trip q.lvl 0 then { q with idx := setNth q.idx q.lvl i, pc := (nth lv q.lvl noLvl).first, phase := .body }
  else leaveLvl lv q

/-- Move to the next thing that the sequencer does: a word that its flags let issue, the entry of a level, a mark, the end. -/
def seekGo (isVe : Bool) (lv : List Lvl) (fuel : Nat) (q : Seqr) : Seqr :=
  match fuel with
  | 0 => q
  | fuel + 1 =>
    match q.phase with
    | .entry => q
    | .mark => q
    | .finish => q
    | .body =>
      let a := nth lv q.lvl noLvl
      let b := nth lv (q.lvl + 1) noLvl
      if a.last < q.pc then
        if isVe && decide (q.lvl ≤ 1) then { q with phase := .mark } else seekGo isVe lv fuel (iterNext lv q)
      else if b.used && q.pc = b.first then { q with lvl := q.lvl + 1, phase := .entry }
      else if withheld q (nth q.words q.pc 0) then seekGo isVe lv fuel { q with pc := q.pc + 1 }
      else q

/-- The position is one that the sequencer passes without issuing a word (R71, R194). -/
def passing (lv : List Lvl) (q : Seqr) : Bool :=
  let b := nth lv (q.lvl + 1) noLvl
  q.phase == .body && (decide ((nth lv q.lvl noLvl).last < q.pc) || (b.used && q.pc = b.first) || withheld q (nth q.words q.pc 0))

/-- Move the position of an engine's sequencer; a long run of withheld words takes several steps of the model and no cycle. -/
def seek (c : Nat) (e : EngSel) (s : State) : State :=
  let lv := lvlsOf s c e
  modSeqr s c e (seekGo (e == .ve) lv 70000)

/-- An address stream's value (R194). -/
def streamVal (s : State) (c : Nat) (e : EngSel) (n : Nat) : Nat :=
  let q := seqrOf s c e
  let sum := (upto 6).foldl (fun (t : Int) l =>
    if (lvlOf s c e l).used then t + ((nth q.idx l 0 : Nat) : Int) * sgn 32 (launchField s c e (0x50 + 16 * l + 4 * n) 4) else t) 0
  ((launchField s c e (0x40 + 4 * n) 4 + sum) % (2^32 : Nat)).toNat

/-! Tracing and ending a launch. -/

/-- A trace record of an engine. -/
def traceEng (c : Nat) (e : EngSel) (kind cls pc obj a b lastu : Nat) (s : State) : State :=
  traceUnit (dieOfCore c) (engKind e) c (seqrOf s c e).part.toNat kind cls pc obj a b lastu s

/-- A wait whose cycles the watchdog does not count (spec/18_recovery.md R384): one for a slot, or a held request; an engine's wait for its own
jobs and the step check of a grid load count. -/
def idleWait (w : Waiting) : Bool := w.kind = 1 || w.kind = 9

/-- The WAIT record of an engine word that blocked (spec/19_observation.md R407). A wait for the engine's own earlier words, which R84 and
R153 do not name, has none. -/
def endEngWait (c : Nat) (e : EngSel) (s : State) : State :=
  match (seqrOf s c e).waiting with
  | none => s
  | some w =>
    let t := modSeqr s c e fun q => { q with waiting := none, wdIdle := q.wdIdle + (if idleWait w then s.now - w.since else 0) }
    if w.kind = 0 || s.now ≤ w.since then t
    else traceEng c e 0x20 1 (seqrOf s c e).pc w.obj.toNat (s.now - w.since) w.kind w.lastu t

/-- The issuing context takes ENGF, unless it has executed EXIT (R400). -/
def raiseEngf (c : Nat) (e : EngSel) (x : CtxSel) (va : Word) (s : State) : State :=
  modCtx s c x fun y =>
    if !y.live then y
    else
      match e with
      | .me => { y with engfMe := some va }
      | .ve => { y with engfVe := some va }

/-- The entry that ends leaves the queue; its context's outstanding list too. -/
def popEntry (c : Nat) (e : EngSel) (s : State) : State :=
  let q := seqrOf s c e
  let ticket := BitVec.ofNat 16 (launchField s c e 2 2)
  let x := ctxOfNum (launchField s c e 1 1)
  let t := modSeqr s c e fun q =>
    { q with head := (q.head + 1) % 16, count := q.count - 1, recVa := tdel q.recVa q.head, running := false, heldImage := q.heldImage && !q.puts.isEmpty,
             waiting := none, phase := .entry, mark := none }
  workDone c x (.launch e ticket) (if q.count = 0 then s else t)

/-- Cancel every later entry of the queue with ST 5 (R192); a launch that runs is one of a team that is killed. -/
def cancelRest (c : Nat) (e : EngSel) (fuel : Nat) (s : State) : State :=
  match fuel with
  | 0 => s
  | fuel + 1 =>
    let q := seqrOf s c e
    if q.count = 0 then s
    else
      let t := if q.running then traceEng c e 0x03 0 q.pc (launchSeq s c e) 5 0 0 s else s
      cancelRest c e fuel (popEntry c e (entryWrite t c e q.head 0xFC 4 5))

/-! Results of a vector engine in flight. -/

/-- Bits of `new` where `wm` is one, else of `old`. -/
def putBits (old new wm : VBits) : VBits := (old &&& ~~~wm) ||| (new &&& wm)

/-- Two results name one destination. -/
def sameDst (p q : VPend) : Bool :=
  (p.reg.isSome && p.reg == q.reg) || (p.msk.isSome && p.msk == q.msk) || (p.mbx.isSome && p.mbx == q.mbx)

/-- Write one result: register, mask, mailbox, and the h position, which takes what the destination then holds (R126). -/
def landOne (v : Ve) (p : VPend) : Ve :=
  let val : VReg :=
    match p.reg with
    | some r => ⟨putBits (tget v.regs r {}).bits p.bits p.wm, p.tag⟩
    | none => ⟨p.bits &&& p.wm, p.tag⟩
  { v with
    regs := match p.reg with
      | some r => tput v.regs r val
      | none => v.regs
    hval := match p.hpos with
      | some h => tput v.hval h val
      | none => v.hval
    masks := match p.msk with
      | some m => tput v.masks m ((putBits ((tget v.masks m 0).setWidth 4096) p.bits p.wm).setWidth 512)
      | none => v.masks
    mbx := match p.mbx with
      | some n => tput v.mbx n (p.bits.setWidth 32)
      | none => v.mbx }

/-- Write the results that have elapsed, each after the earlier ones for its destination (R58). -/
def settleVeGo (now : Nat) (l kept : List VPend) (v : Ve) : Ve :=
  match l with
  | [] => { v with pend := kept }
  | p :: r =>
    if p.due ≤ now && kept.all (fun e => !sameDst e p) then settleVeGo now r kept (landOne v p) else settleVeGo now r (kept ++ [p]) v

/-- What the engine holds once every result is written. -/
def finalVe (v : Ve) : Ve := { v.pend.foldl landOne v with pend := [] }

/-- The words in flight of an engine whose word faults write their results (spec/03_encoding.md R60). -/
def landEng (c : Nat) (e : EngSel) (s : State) : State :=
  match e with
  | .me => s
  | .ve => modVe s c finalVe

/-- What an engine loses with its launch: the banks and coma of an ME with its jobs, the results of a VE in flight. -/
def dropWork (c : Nat) (e : EngSel) (s : State) : State :=
  match e with
  | .me => modMe s c fun m => { m with banks := [], coma := [], mma := [], drain := none, load := none, closing := [] }
  | .ve => modVe s c fun v => { v with pend := [] }

/-- An engine fault at word `pc` (R192, R400): STATUS, FDET and EFVAL, no completion action, later entries cancelled, ENGF. -/
def engFaultAt (c : Nat) (e : EngSel) (pc code : Nat) (efval fdet : Nat) (s : State) : State :=
  let q := seqrOf s c e
  let s0 := endEngWait c e s
  let s1 := traceEng c e 0x30 1 pc code efval 0 0 s0
  let st := 3 + 2^8 * code + 2^16 * (pc % 2^12)
  let s2 := entryWrite (entryWrite (entryWrite s1 c e q.head 0x38 8 efval) c e q.head 0x1C 4 fdet) c e q.head 0xFC 4 st
  let s3 := traceEng c e 0x03 0 pc (launchSeq s2 c e) st 0 0 s2
  let va := entryVa s c e q.head
  let x := ctxOfNum (launchField s c e 1 1)
  raiseEngf c e x va (cancelRest c e 16 (popEntry c e (dropWork c e (landEng c e s3))))

/-- An engine fault at the sequencer's word. -/
def engFault (c : Nat) (e : EngSel) (code efval fdet : Nat) (s : State) : State :=
  engFaultAt c e (seqrOf s c e).pc code efval fdet s

/-! Words of an engine. -/

/-- The word at the sequencer's position. -/
def engPword (s : State) (c : Nat) (e : EngSel) : Nat :=
  let q := seqrOf s c e
  nth q.words q.pc 0

/-- A word has issued: the next is no earlier than now + 1 + STALL, plus `extra` cycles. -/
def engDone (fl : EFlags) (extra : Nat) (c : Nat) (e : EngSel) (s : State) : State :=
  let t := modSeqr (endEngWait c e s) c e fun q =>
    { q with pc := q.pc + 1, ready := s.now + 1 + fl.st.toNat + extra, endMarked := false,
             issued := tput q.issued q.pc (tget q.issued q.pc 0 + 1) }
  seek c e t

/-- A wait of an engine word for something else than now ends first, with its record; the cycle in which the wait that goes on began. -/
def turnEng (c : Nat) (e : EngSel) (kind : Nat) (obj : Word) (s : State) : Nat × State :=
  match (seqrOf s c e).waiting with
  | some w => if w.kind = kind && w.obj == obj then (w.since, s) else (s.now, endEngWait c e s)
  | none => (s.now, s)

/-- An engine word waits; a wait longer than STALLTO ends with BUDGET (spec/17_scheduling.md R379). -/
def engBlock (c : Nat) (e : EngSel) (kind : Nat) (obj : Word) (s0 : State) : State :=
  let r := turnEng c e kind obj s0
  let since := r.1
  let s := r.2
  let t := modSeqr s c e fun q =>
    { q with ready := s.now + 1, waiting := some { kind := kind, obj := obj, since := since } }
  let lim := stallLimit s (seqrOf s c e).part.toNat
  if kind = 1 && lim ≠ 0 && lim < s.now - since then { t with events := t.events ++ [⟨engAgent c e, some .budgetTrap⟩] } else t

/-- A grid load of an engine waits (spec/14_grids.md R313, R315). -/
def engBlockGrid (c : Nat) (e : EngSel) (obj val : Word) (s0 : State) : State :=
  let r := turnEng c e 8 obj s0
  let since := r.1
  let s := r.2
  let t := modSeqr s c e fun q =>
    { q with ready := s.now + 1, waiting := some { kind := 8, obj := obj, since := since, val := val } }
  if 2^20 < s.now - since then { t with events := t.events ++ [⟨engAgent c e, some .gridLoadTimeout⟩] } else t

/-- What a stopped operation does to its engine. -/
def engStopped (c : Nat) (e : EngSel) (x : Stop) (s : State) : State :=
  match x with
  | .trap code val => engFault c e code val.toNat 0 s
  | .asked t _ => t
  | .trapIn t code val => engFault c e code val.toNat 0 t
  | .wait kind obj => engBlock c e kind obj s
  | .waitIn t kind obj => engBlock c e kind obj t
  | .waitGrid obj val => engBlockGrid c e obj val s
  | .waitSem kind obj _ _ _ => engBlock c e kind obj s
  | .till t => modSeqr s c e fun q => { q with ready := t }
  | .rest t => modSeqr s c e fun q => { q with ready := t }
  | .left t => t
  | .debug _ => s

/-- A word of the running engine: the body answers how many cycles longer the next word waits (spec/05_registers.md R122). -/
def engWord (fl : EFlags) (body : Op Nat) (s : State) : Outcome State Fault Refusal :=
  let c := curCore s
  let e := curEng s
  match body s with
  | .ok (extra, t) => .next (engDone fl extra c e t)
  | .error x => .next (engStopped c e x s)

/-- The running engine's sequencer. -/
def curSeqr : Op Seqr := gets fun s => seqrOf s (curCore s) (curEng s)

/-- An engine fault ILLOP: EFVAL is the P-word (R400). -/
def illopIf (b : Bool) : Op Unit := do
  let s ← gets (fun s => s)
  raiseIf b tILLOP (wd (engPword s (curCore s) (curEng s)))

/-- An engine fault whose EFVAL the spec does not give: a free value (log 1). -/
def raiseFreeIf (b : Bool) (code : Nat) : Op Unit := do
  if b then do
    let n ← fresh
    raise code (Config.freeWord n)
  else pure ()

/-- TAG of a grid word whose FMT is not the grid's (R400; spec/14_grids.md R315): EFVAL names the declared format; its low `n` bits, the tag found
and where no operand has it the operand, are free (log 1). -/
def raiseTagIf (b : Bool) (n declared : Nat) : Op Unit := do
  if b then do
    let k ← fresh
    raise tTAG (wd (Config.freeNat k % 2^n + 2^20 * declared))
  else pure ()

/-! Marks of an engine (R197; spec/09_accumulators.md R212). -/

/-- The transoms of a core. -/
def transomsOf (s : State) (c : Nat) : List Transom :=
  ((upto 16).filter fun id => (descOf s c id).transom).map fun id =>
    ⟨id, sysRead s c (descOff id + 16) 2, sysRead s c (descOff id + 18) 2, sysRead s c (descOff id + 20) 2⟩

/-- The mark that an engine writes at its position. -/
def markOf (s : State) (c : Nat) (e : EngSel) : EMark :=
  let q := seqrOf s c e
  let base : EMark :=
    { ticket := BitVec.ofNat 16 (launchField s c e 2 2), idx := q.idx, trip := q.trip, lvl := q.lvl, pc := q.pc, phase := q.phase,
      tplSrc := q.tplSrc, issued := q.issued, emask := q.emask }
  match e with
  | .me => { base with drains := (coreOf s c).me.drains }
  | .ve =>
    let v := (coreOf s c).ve
    { base with
      wregs := v.regs.filter fun r => decide (64 ≤ r.1) && decide (r.1 < 72) && q.emask.getLsbD (r.1 - 64)
      masks := v.masks, transoms := transomsOf s c, ptag := v.ptag }

/-- Write an engine's mark: the counters of R195 start afresh, retired-pending slots that `ok` covers turn empty, a VE's h file
and TFREE are cleared. -/
def markEng (c : Nat) (e : EngSel) (ok : Nat → Nat → Bool) (s : State) : State :=
  let m := markOf s c e
  let s1 := modSeqr s c e fun q =>
    { q with mark := some m, markIdx := q.markIdx + 1, ordinal := 0, wdFrom := s.now, wdIdle := 0, fills := [], refill := [], undo := [] }
  let s2 := emptyRetired s1 c (engKind e) ok
  let s3 := match e with
    | .me => modCore s2 c fun k => { k with meMarked := true }
    | .ve => modCore (modVe s2 c fun v => { v with hids := [], hval := [], tfree := [] }) c fun k => { k with veMarked := true }
  traceEng c e 0x02 0 (seqrOf s c e).pc (launchSeq s c e) (seqrOf s3 c e).markIdx.toNat (seqrOf s c e).lvl 0 s3

/-! LNCH (R188). -/

/-- A trap with another value. -/
def withVal {α : Type} (v : Word) (op : Op α) : Op α := fun s =>
  match op s with
  | .error (.trap code _) => .error (.trap code v)
  | .error (.trapIn t code _) => .error (.trapIn t code v)
  | r => r

/-- Read 64 aligned bytes with the context's own access. -/
def ctxRead64 (va : Word) : Op Nat := do
  let t ← resolve va 64 ⟨true, false, false, false⟩
  match t with
  | .remote peer off => remoteLoad va peer off 64
  | _ => readAt t va 64

/-- Read `n` groups of 64 bytes. -/
def ctxReadGroups (n : Nat) (va : Word) : Op (List Byte) :=
  match n with
  | 0 => pure []
  | n + 1 => do
    let a ← ctxRead64 va
    let b ← ctxReadGroups n (va + 64)
    pure (natBytes 64 a ++ b)

/-- A field of a record held as bytes. -/
def recF (r : List Byte) (off n : Nat) : Nat := bytesNat ((r.drop off).take n)

/-- Level `l` of a record breaks a relation of R187 that the record shows, or an unused row is not zero. -/
def badLevel (r : List Byte) (l : Nat) : Bool :=
  let v := recF r (0x20 + 4 * l) 4
  let trip := recF r (0x10 + 2 * l) 2
  let up' := recF r (0x20 + 4 * (l - 1)) 4
  nbits v 25 7 != 0 || (nbits trip 15 1 = 1 && nbits trip 4 11 != 0) ||
    (if nbits v 24 1 = 1 then
      decide (nbits v 12 12 < nbits v 0 12) ||
        (if l = 0 then nbits v 0 12 != 0
         else nbits up' 24 1 = 0 || decide (nbits v 0 12 < nbits up' 0 12) || decide (nbits up' 12 12 < nbits v 12 12))
     else l = 0 || v != 0 || trip != 0 || recF r (0x50 + 16 * l) 16 != 0)

/-- A record that LNCH refuses with ILLOP. -/
def badRecord (r : List Byte) (minor : Nat) : Bool :=
  let ctl := recF r 0 4
  let compl := recF r 0xF8 2
  nbits ctl 0 4 != minor + 1 || (nbits ctl 4 1 = 1 && minor = 0) || nbits ctl 6 2 != 0 || nbits ctl 16 16 != 0 ||
    recF r 8 8 % 64 != 0 || nbits compl 3 5 != 0 || recF r 0xFA 2 != 0 || (upto 6).any (badLevel r) ||
    (nbits compl 2 1 = 1 && recF r (0xF0 + 2 * nbits compl 0 2) 2 = 0xFFFF)

/-- Append a record to the queue of an engine. -/
def appendRecord (c : Nat) (e : EngSel) (x : CtxSel) (va : Word) (r : List Byte) (s : State) : State :=
  let q := seqrOf s c e
  let i := (q.head + q.count) % 16
  let o := qOff e i
  let s1 := { s with mem := wrBytes s.mem (scrKey c o) r }
  let s2 := sysWrite (sysWrite (sysWrite (sysWrite (sysWrite s1 c (o + 1) 1 (ctxNum x)) c (o + 2) 2 q.ticket.toNat) c (o + 0x1C) 4 0)
    c (o + 0x38) 8 0) c (o + 0xFC) 4 0
  let s3 := modSeqr s2 c e fun q =>
    { q with count := q.count + 1, ticket := q.ticket + 1, recVa := tput q.recVa i va,
             part := BitVec.ofNat 3 (corePart s c), ready := if q.running then q.ready else max q.ready (s.now + 1) }
  modCtx s3 c x fun y => { y with engOut := y.engOut ++ [.launch e q.ticket] }

/-- LNCH.ME and LNCH.VE (R188), logged words. -/
def launchWord (i : Instr) (w : A1W) (e : EngSel) (minor : Nat) (s : State) : Outcome State Fault Refusal :=
  loggedWord w.st 0x22 minor none (do
    operands [w.a.toNat] []
    let va ← gr w.a.toNat
    let s ← gets (fun s => s)
    let c := curCore s
    waitIf (decide (16 ≤ (seqrOf s c e).count)) 0 0
    waitAcquired
    raiseIf (va.toNat % 64 != 0) tALIGN va
    let r ← withVal va (ctxReadGroups 4 va)
    raiseIf (badRecord r minor) tILLOP (wordOf i)
    let compl := recF r 0xF8 2
    let idx := recF r (0xF0 + 2 * nbits compl 0 2) 2
    raiseIf (nbits compl 2 1 = 1 && !hssInRange s (curPart s) idx) tPROT (wd idx)
    upd fun s => appendRecord c e (curSel s) va r s
    pure 0) s

/-- LNCH.ME (R188). -/
def execLnchMe (w : A1W) (s : State) : Outcome State Fault Refusal := launchWord (.lnchMe w) w .me 0 s
/-- LNCH.VE (R188). -/
def execLnchVe (w : A1W) (s : State) : Outcome State Fault Refusal := launchWord (.lnchVe w) w .ve 1 s

end Sys2Proof.Machine
end

