-- ==== Sys2Proof/Machine/Num.lean ====
section
/-! DEFINITION. Number formats: values of bit patterns, exact arithmetic, rounding and the overflow policy, MX blocks
(spec/02_numbers.md R19 to R38, R44). -/

namespace Sys2Proof.Machine

/-- An exact value: (-1)^neg * m * 2^e. With `st` it lies strictly between m and m + 1 times 2^e, and m has so many bits that no
rounding point lies between. -/
inductive Val where
  | nan
  | inf (neg : Bool)
  | fin (neg : Bool) (m : Nat) (e : Int) (st : Bool)
  deriving DecidableEq, Repr

/-- Layout of a floating-point format (R20): exponent and fraction bits, bias, the largest finite pattern, infinity if it has
one, the default NaN. -/
structure FpFmt where
  eb : Nat
  fb : Nat
  bias : Nat
  top : Nat
  infP : Option Nat
  nanP : Nat

/-- The layout of formats 1 to 4. -/
def fpFmt (f : Nat) : FpFmt :=
  match f with
  | 1 => ⟨8, 23, 127, 0x7F7FFFFF, some 0x7F800000, 0x7FC00000⟩
  | 2 => ⟨8, 7, 127, 0x7F7F, some 0x7F80, 0x7FC0⟩
  | 3 => ⟨4, 3, 7, 0x7E, none, 0x7F⟩
  | _ => ⟨5, 2, 15, 0x7B, some 0x7C, 0x7E⟩

/-- A floating-point format code. -/
def fpCode (f : Nat) : Bool := decide (1 ≤ f) && decide (f ≤ 4)

/-- Bits of an element (R19, R154); NONE has the width 32. -/
def widthOf (f : Nat) : Nat :=
  match f with
  | 2 => 16
  | 3 => 8
  | 4 => 8
  | 6 => 16
  | 7 => 8
  | 11 => 64
  | 12 => 8
  | _ => 32

/-- Elements of a register (R154). -/
def countOf (f : Nat) : Nat := 4096 / widthOf f

/-- An integer as a value. -/
def intVal (x : Int) : Val := .fin (decide (x < 0)) x.natAbs 0 false

/-- The value of a floating-point pattern; `flush` reads subnormals as zero of the same sign (R44). -/
def fpVal (p : FpFmt) (flush : Bool) (x : Nat) : Val :=
  let neg := nbits x (p.eb + p.fb) 1 = 1
  let ex := nbits x p.fb p.eb
  let fr := nbits x 0 p.fb
  let body := x % 2^(p.eb + p.fb)
  if p.infP = some body then .inf neg
  else if p.top < body then .nan
  else if ex = 0 then .fin neg (if flush then 0 else fr) (1 - (p.bias : Int) - p.fb) false
  else .fin neg (2^p.fb + fr) ((ex : Int) - p.bias - p.fb) false

/-- The integer of an integer pattern (R22). -/
def intOf (f x : Nat) : Int := if f = 12 then ((x % 256 : Nat) : Int) else sgn (widthOf f) x

/-- The value of an element; `c1` is Cretus-1, which flushes FP32 and BF16 subnormals (R44). -/
def valOf (c1 : Bool) (f x : Nat) : Val :=
  if fpCode f then fpVal (fpFmt f) (c1 && decide (f ≤ 2)) x else intVal (intOf f x)

/-! Exact operations (R21). -/

/-- m * 2^(e - k) for k no larger than e. -/
def scaleTo (m : Nat) (e k : Int) : Nat := m * 2^(e - k).toNat

/-- The negation of a value. -/
def vneg (x : Val) : Val :=
  match x with
  | .nan => .nan
  | .inf n => .inf !n
  | .fin n m e st => .fin (!n) m e st

/-- Whether a value is a NaN. -/
def isNan (x : Val) : Bool :=
  match x with
  | .nan => true
  | _ => false

/-- Whether a value is a finite nonzero one. -/
def isFinNz (x : Val) : Bool :=
  match x with
  | .fin _ m _ _ => m != 0
  | _ => false

/-- Whether a value is a zero. -/
def isZero (x : Val) : Bool :=
  match x with
  | .fin _ m _ _ => m == 0
  | _ => false

/-- The exact sum. A zero sum is +0, or -0 under RDN, but a sum of two zeros of one sign keeps it (R21). -/
def vadd (rdn : Bool) (x y : Val) : Val :=
  match x, y with
  | .nan, _ => .nan
  | _, .nan => .nan
  | .inf a, .inf b => if a = b then .inf a else .nan
  | .inf a, _ => .inf a
  | _, .inf b => .inf b
  | .fin a m e _, .fin b n f _ =>
    if m = 0 && n = 0 then .fin (if a = b then a else rdn) 0 0 false
    else
      let k := if e < f then e else f
      let p := scaleTo m e k
      let q := scaleTo n f k
      if a = b then .fin a (p + q) k false
      else if p = q then .fin rdn 0 0 false
      else if q < p then .fin a (p - q) k false
      else .fin b (q - p) k false

/-- The exact product. -/
def vmul (x y : Val) : Val :=
  match x, y with
  | .nan, _ => .nan
  | _, .nan => .nan
  | .inf a, .inf b => .inf (a != b)
  | .inf a, .fin b n _ _ => if n = 0 then .nan else .inf (a != b)
  | .fin a m _ _, .inf b => if m = 0 then .nan else .inf (a != b)
  | .fin a m e _, .fin b n f _ => .fin (a != b) (m * n) (e + f) false

/-- The quotient. -/
def vdiv (x y : Val) : Val :=
  match x, y with
  | .nan, _ => .nan
  | _, .nan => .nan
  | .inf _, .inf _ => .nan
  | .inf a, .fin b _ _ _ => .inf (a != b)
  | .fin a _ _ _, .inf b => .fin (a != b) 0 0 false
  | .fin a m e _, .fin b n f _ =>
    if n = 0 then (if m = 0 then .nan else .inf (a != b))
    else
      let k := 200 + n.log2
      .fin (a != b) (m * 2^k / n) (e - f - k) (m * 2^k % n != 0)

/-- The integer square root, by bits from 2^fuel down. -/
def isqrtGo (n : Nat) (fuel r : Nat) : Nat :=
  match fuel with
  | 0 => r
  | fuel + 1 =>
    let t := r + 2^fuel
    isqrtGo n fuel (if t * t ≤ n then t else r)

/-- The integer square root of a number below 2^512. -/
def isqrt (n : Nat) : Nat := isqrtGo n 256 0

/-- m * 2^e with an even exponent. -/
def evenExp (m : Nat) (e : Int) : Nat × Int := if e % 2 = 0 then (m, e) else (2 * m, e - 1)

/-- The square root; that of -0 is -0. -/
def vsqrt (x : Val) : Val :=
  match x with
  | .nan => .nan
  | .inf n => if n then .nan else .inf false
  | .fin n m e _ =>
    if m = 0 then .fin n 0 0 false
    else if n then .nan
    else
      let p := evenExp m e
      let r := isqrt (p.1 * 2^200)
      .fin false r (p.2 / 2 - 100) (r * r != p.1 * 2^200)

/-- The reciprocal of the square root. -/
def vrsqrt (x : Val) : Val :=
  match x with
  | .nan => .nan
  | .inf n => if n then .nan else .fin false 0 0 false
  | .fin n m e _ =>
    if m = 0 then .inf n
    else if n then .nan
    else
      let p := evenExp m e
      let r := isqrt (2^400 / p.1)
      .fin false r (-(p.2 / 2) - 200) (r * r * p.1 != 2^400)

/-- Whether one value that is not a NaN lies below another; zeros are equal. -/
def vlt (x y : Val) : Bool :=
  match x, y with
  | .nan, _ => false
  | _, .nan => false
  | .inf a, .inf b => a && !b
  | .inf a, _ => a
  | _, .inf b => !b
  | .fin a m e _, .fin b n f _ =>
    let k := if e < f then e else f
    let p := scaleTo m e k
    let q := scaleTo n f k
    if p = 0 && q = 0 then false else if a != b then (a && (p != 0 || q != 0)) else if a then decide (q < p) else decide (p < q)

/-- Whether a value carries the sign bit. -/
def isNeg (x : Val) : Bool :=
  match x with
  | .nan => false
  | .inf n => n
  | .fin n _ _ _ => n

/-- Below, with -0 below +0 (spec/07_vector.md R159). -/
def vltTotal (x y : Val) : Bool := vlt x y || (isZero x && isZero y && isNeg x && !isNeg y)

/-! Rounding (R26 to R29). -/

/-- SrMix (R28). -/
def srMix (seed pos : Word32) : Word32 :=
  let a := seed ^^^ (pos * 0x9E3779B9#32)
  let b := (a ^^^ (a >>> 16)) * 0x85EBCA6B#32
  let c := (b ^^^ (b >>> 13)) * 0xC2B2AE35#32
  c ^^^ (c >>> 16)

/-- How a site rounds: mode, overflow policy, seed and position of stochastic rounding, and whether FP32 and BF16 results are
flushed (R44). -/
structure Rnd where
  mode : Nat
  ovf : Nat
  seed : Word32 := 0
  pos : Nat := 0
  c1 : Bool := false

/-- m / 2^sh rounded to an integer (R26). -/
def roundShift (r : Rnd) (neg st : Bool) (m sh : Nat) : Nat :=
  let q := m / 2^sh
  let t := m % 2^sh
  if t = 0 && !st then q
  else
    let up :=
      match r.mode with
      | 0 => decide (2^sh < 2 * t) || (decide (2 * t = 2^sh) && (st || q % 2 == 1))
      | 1 => false
      | 2 => neg
      | 3 => !neg
      | 4 => decide (2^sh ≤ 2 * t)
      | _ => decide (2^24 ≤ t * 2^24 / 2^sh + (srMix r.seed (BitVec.ofNat 32 r.pos)).toNat / 2^8)
    if up then q + 1 else q

/-- m * 2^e rounded to a multiple of 2^k: the multiple. Below 2^-64 of that multiple every mode sees only that m is not zero. -/
def roundTo (r : Rnd) (neg st : Bool) (m : Nat) (e k : Int) : Nat :=
  if k ≤ e && !st then scaleTo m e k else roundShift r neg st m (min (k - e).toNat (m.log2 + 65))

/-- What overflow gives for a floating-point format, none for CVT_OVF (R30). -/
def ovfFp (p : FpFmt) (ovf : Nat) : Option Nat :=
  match ovf with
  | 0 => some p.top
  | 1 => some (p.infP.getD p.nanP)
  | 2 => some p.nanP
  | _ => none

/-- The sign bit of a pattern. -/
def signBit (p : FpFmt) (neg : Bool) (body : Nat) : Nat :=
  if body = p.nanP then body else body + (if neg then 2^(p.eb + p.fb) else 0)

/-- RoundTo a floating-point format: the pattern, none for CVT_OVF (R26, R30). -/
def fpRoundTo (f : Nat) (r : Rnd) (x : Val) : Option Nat :=
  let p := fpFmt f
  match x with
  | .nan => some p.nanP
  | .inf n =>
    match p.infP with
    | some i => some (signBit p n i)
    | none => if r.ovf = 0 then some (signBit p n p.top) else if r.ovf = 3 then none else some p.nanP
  | .fin n m e st =>
    if m = 0 then some (signBit p n 0)
    else
      let low : Int := 1 - (p.bias : Int) - p.fb
      let u : Int := (m.log2 : Int) + e - p.fb
      let k := if u < low then low else u
      let body := (k - low).toNat * 2^p.fb + roundTo r n st m e k
      if p.top < body then (ovfFp p r.ovf).map (signBit p n)
      else if r.c1 && decide (f ≤ 2) && decide (body < 2^p.fb) then some (signBit p n 0)
      else some (signBit p n body)

/-- The range of an integer format (R22). -/
def intLo (f : Nat) : Int := if f = 12 then 0 else -(2^(widthOf f - 1) : Nat)
/-- Its upper end. -/
def intHi (f : Nat) : Int := if f = 12 then 255 else (2^(widthOf f - 1) : Nat) - 1
/-- An integer modulo 2^w. -/
def wrapInt (w : Nat) (x : Int) : Nat := (x % (2^w : Nat)).toNat
/-- An integer clamped to a format. -/
def clampInt (f : Nat) (x : Int) : Int := if x < intLo f then intLo f else if intHi f < x then intHi f else x

/-- RoundTo an integer format: the pattern, none for CVT_OVF (R30). -/
def intRoundTo (f : Nat) (r : Rnd) (x : Val) : Option Nat :=
  let w := widthOf f
  match x with
  | .nan => if r.ovf = 3 then none else some 0
  | .inf n => if r.ovf = 3 then none else some (wrapInt w (if n then intLo f else intHi f))
  | .fin n m e st =>
    let q := roundTo r n st m e 0
    let v : Int := if n then -(q : Int) else q
    if clampInt f v = v then some (wrapInt w v) else if r.ovf = 3 then none else some (wrapInt w (clampInt f v))

/-- RoundTo (R26, R30). -/
def roundFmt (f : Nat) (r : Rnd) (x : Val) : Option Nat := if fpCode f then fpRoundTo f r x else intRoundTo f r x

/-! Unpacking and packing. -/

/-- `n` elements of `w` bits, from bit 0. -/
def unpackN (w n x : Nat) : List Nat :=
  match n with
  | 0 => []
  | n + 1 => x % 2^w :: unpackN w n (x / 2^w)

/-- Elements of `w` bits as one number, element 0 lowest. -/
def packN (w : Nat) (l : List Nat) : Nat :=
  match l with
  | [] => 0
  | a :: r => a % 2^w + 2^w * packN w r

/-- Bits as one number, bit 0 first. -/
def packBits (l : List Bool) : Nat := packN 1 (l.map Bool.toNat)

/-! MX blocks (R24, R25). -/

/-- Bits of an element of format 8, 9 or 10. -/
def mxWidth (f : Nat) : Nat := if f = 8 then 8 else if f = 9 then 6 else 4
/-- f of R24. -/
def mxF (f : Nat) : Nat := if f = 8 then 6 else if f = 9 then 4 else 2
/-- Bytes of a block. -/
def mxBytes (f : Nat) : Nat := 4 * mxWidth f + 1
/-- Largest produced magnitude. -/
def mxMax (f : Nat) : Int := (2^(mxWidth f - 1) : Nat) - 1

/-- The 32 signed elements and the scale of a block held as a number. -/
def mxSplit (f x : Nat) : List Int × Nat :=
  let w := mxWidth f
  ((unpackN w 32 x).map (sgn w), nbits x (32 * w) 8)

/-- A block from its elements and scale. -/
def mxJoin (f : Nat) (q : List Int) (s : Nat) : Nat := packN (mxWidth f) (q.map (wrapInt (mxWidth f))) + 2^(32 * mxWidth f) * s

/-- The value of an element under a scale. -/
def mxVal (f s : Nat) (q : Int) : Val :=
  if s = 0xFF then .nan else .fin (decide (q < 0)) q.natAbs ((s : Int) - 127 - mxF f) false

end Sys2Proof.Machine
end

