-- ==== Sys2Proof/Machine/Vec.lean ====
section
/-! DEFINITION. The vector engine's registers, sources, masks and results in flight, and the common form of its words
(spec/05_registers.md R121 to R129, spec/07_vector.md R154 to R157). -/

namespace Sys2Proof.Machine

open Host (Outcome)

/-! Results in flight. -/

/-- The mailbox writes that `settleVe` makes, remembered for MFCs of this cycle (R117). -/
def mbxOld (c : Nat) (s : State) : List CsrOld :=
  ((coreOf s c).ve.pend.filter fun p => decide (p.due ≤ s.now)).filterMap fun p =>
    match p.mbx with
    | some n => some ⟨s.now, 0x10 + n, 2000 + 2 * c + 1, .ve (BitVec.ofNat 7 c), (mbxRead s c true n).setWidth 64⟩
    | none => none

/-- Write the elapsed results of a vector engine. -/
def settleVe (c : Nat) (s : State) : State :=
  let o := mbxOld c s
  let t := modVe s c fun v => settleVeGo s.now v.pend [] v
  if o.isEmpty then t else { t with csrOld := (s.csrOld.filter fun e => e.cycle = s.now) ++ o }

/-! Sources (R122, R56, R37). -/

/-- The vector engine whose word runs. -/
def curVe (s : State) : Ve := (coreOf s (curCore s)).ve

/-- The cycle from which a destination may be read, its results newest first: one that replaces the whole destination hides the
earlier ones, another leaves bits of theirs in it. -/
def dueVe (l : List VPend) : Nat :=
  match l with
  | [] => 0
  | p :: r => if p.wm.setWidth (if p.msk.isSome then 512 else 4096) = BitVec.allOnes (if p.msk.isSome then 512 else 4096) then p.due else max p.due (dueVe r)

/-- Read, `late` cycles after issue, something that results in flight may change: wait for interlocked ones; an early read traps under
CHECK, else obtains the old or the new. `num` is the specifier. -/
def readPend {α : Type} (num late : Nat) (names : VPend → Bool) (get : Ve → α) : Op α := fun s =>
  let v := curVe s
  let at' := s.now + late
  let hits := v.pend.filter names
  let lockT := (hits.filter (·.lock)).foldl (fun t p => max t p.due) 0
  let due := dueVe hits.reverse
  if hits.isEmpty then .ok (get v, s)
  else if at' < lockT then .error (.till (lockT - late))
  else if due ≤ at' then .ok (get (finalVe v), s)
  else if v.q.check then .error (.trap tSHORT (wd (num + 256 * (due - at'))))
  else .ok (if Config.freeBool s.free then get (finalVe v) else get v, { s with free := s.free + 1 })

/-- A vector register or last-result entry. -/
def readReg (spec late : Nat) : Op VReg := do
  let v ← gets curVe
  if spec < 0x50 then readPend spec late (fun p => p.reg == some spec) fun v => tget v.regs spec {}
  else
    match v.hids[spec - 0x50]? with
    | some id => readPend spec late (fun p => p.hpos == some id) fun v => tget v.hval id {}
    | none => pure {}

/-- A mask register; m0 reads all ones. -/
def readMask (m : Nat) : Op MBits :=
  if m = 0 then pure (BitVec.allOnes 512)
  else readPend (0x60 + m) 0 (fun p => p.msk == some m) fun v => tget v.masks m 0

/-- A tag's format code. -/
def tagCode (t : FTag) : Nat := t.toNat / 2^12

/-- POISON and TAG of an operand (R37): `accept` are the codes that pass, `declared` the code that EFVAL names. -/
def checkTag (which declared : Nat) (accept : List Nat) (raw : Bool) (t : FTag) : Op Unit := do
  raiseFreeIf (tagCode t = 15) tPOISON
  raiseIf (!raw && !accept.contains (tagCode t)) tTAG (wd (t.toNat + 2^16 * which + 2^20 * declared))

/-- A 32-bit pattern in every element of a format (R38). -/
def broadcast (f : Nat) (x : Nat) : VBits :=
  let w := min 32 (widthOf f)
  BitVec.ofNat 4096 (packN w (List.replicate (4096 / w) x))

/-- The lane-index vector under an integer format (R38). -/
def laneBits (f : Nat) : VBits := BitVec.ofNat 4096 (packN (widthOf f) (upto (countOf f)))

/-- The sources of a word in order. -/
def sourcesOf (w : EngW) : List (BitVec 8) := [w.a, w.b, w.c, w.immB.setWidth 8]

/-- Source `which` is the third distinct main-file register, or a later one: it is read a cycle after issue (R122). -/
def lateRead (w : EngW) (which : Nat) : Nat :=
  let l := (((sourcesOf w).take which).filter fun x => decide (x.toNat < 0x40)).eraseDups
  let x := (sourcesOf w).getD which 0
  if 2 ≤ l.length && decide (x.toNat < 0x40) && !l.contains x then 1 else 0

/-- Read source `which` (0 A, 1 B, 2 C) with specifier `spec`, as format `f`, `late` cycles after issue; `accept` are the tag codes that
pass. -/
def readSrc (which f : Nat) (accept : List Nat) (raw : Bool) (late : Nat) (spec : BitVec 8) : Op VBits := do
  let n := spec.toNat
  if n < 0x54 then do
    let r ← readReg n late
    checkTag which f accept raw r.tag
    pure r.bits
  else if n = 0x54 then pure 0
  else if n = 0x55 then do
    if f = 5 || f = 6 || f = 7 || f = 12 then pure (laneBits f)
    else do
      let k ← fresh
      raiseIf (!raw) tTAG (wd ((Config.freeNat k) % 2^16 + 2^16 * which + 2^20 * f))
      if fpCode f || f = 0 || f = 11 then pure (laneBits f) else pure (Config.freeVec k)
  else do
    let v ← gets curVe
    pure (broadcast f (tget v.k (n - 0x80) 0).toNat)

/-- The raw modifier (R37). -/
def isRaw (w : EngW) : Bool := w.mod.getLsbD 7
/-- The FPX enable (R156). -/
def fpxOn (w : EngW) : Bool := w.mod.getLsbD 6

/-- A source under the word's own FMT. -/
def srcF (w : EngW) (which : Nat) (spec : BitVec 8) : Op VBits := readSrc which w.fmt.toNat [w.fmt.toNat] (isRaw w) (lateRead w which) spec

/-- The cycles that a third distinct main-file source adds (R122). -/
def extraRead (l : List (BitVec 8)) : Nat := if 3 ≤ (l.filter fun x => decide (x.toNat < 0x40)).eraseDups.length then 1 else 0

/-- Cretus-1 is in force. -/
def isC1 : Op Bool := do
  let v ← gets curVe
  pure (v.q.nbv = 1)

/-- What Cretus-1 does not have (spec/02_numbers.md R44): the 8-bit floating-point formats, MXINT6, SR. -/
def versionCheck (w : EngW) (fmts : List Nat) : Op Unit := do
  let c1 ← isC1
  illopIf (c1 && (w.rnd = 5 || fmts.any fun f => f = 3 || f = 4 || f = 9))

/-- The elements that the template mask includes, as a list of `n` (R155). -/
def included (w : EngW) (n : Nat) : Op (List Bool) := do
  let m ← readMask w.m.toNat
  pure ((unpackN 1 n m.toNat).map fun b => (b == 1) != w.neg)

/-- The write mask of included elements of `w` bits, from element `lo`. -/
def writeMask (w lo : Nat) (inc : List Bool) : VBits :=
  BitVec.ofNat 4096 (packN w (inc.map fun b => if b then 2^w - 1 else 0) * 2^(w * lo))

/-- How the word rounds at site `e` (spec/02_numbers.md R28, R29, R44). -/
def rndOf (w : EngW) (v : Ve) (e : Nat) : Rnd :=
  let k15 := tget v.k 15 0
  let seed := if v.q.nbv = 2 then k15 else k15 ^^^ (BitVec.ofNat 32 v.q.pc * 0x01000193#32)
  ⟨w.rnd.toNat, w.ovf.toNat, seed, tget v.q.issued v.q.pc 0 * 512 + e, v.q.nbv = 1⟩

/-! Results. -/

/-- Deliver a vector: it takes an h position, and the register named unless D is none (R124, R125). -/
def deliver (d : Nat) (bits wm : VBits) (fmt lat : Nat) (lock q : Bool) : Op Unit := upd fun s =>
  modVe s (curCore s) fun v =>
    { v with
      pend := v.pend ++ [{ reg := if d = 0xFF then none else some d, hpos := some v.hnext, bits := bits, wm := wm,
                           tag := BitVec.ofNat 16 (fmt * 2^12), due := s.now + lat, lock := lock, q := q }]
      hids := (v.hnext :: v.hids).take 4, hnext := v.hnext + 1 }

/-- Deliver mask bits: the written ones from `wm`, bits at and above `n` zero (R128). -/
def deliverMask (m n : Nat) (bits : Nat) (inc : Nat) (lat : Nat) (q : Bool) : Op Unit := upd fun s =>
  modVe s (curCore s) fun v =>
    { v with pend := v.pend ++ [{ msk := some m, bits := BitVec.ofNat 4096 (bits % 2^n),
                                  wm := BitVec.ofNat 4096 (inc % 2^n + (2^512 - 2^n)), due := s.now + lat, q := q }] }

/-- What one element gives. -/
inductive ERes where
  | val (x : Nat)
  | ovf
  | fpx

/-- A rounded pattern, or CVT_OVF. -/
def ERes.ofRound (x : Option Nat) : ERes :=
  match x with
  | some v => .val v
  | none => .ovf

/-- The first element of a list, or 0. -/
def hd (l : List Nat) : Nat :=
  match l with
  | [] => 0
  | a :: _ => a

/-- Form every included result before anything is written: the results, or the trap code and element of the first failure
(R155). -/
def elemGo (f : Nat → Nat → Nat → Nat → ERes) (e : Nat) (inc : List Bool) (a b c : List Nat) : Except (Nat × Nat) (List Nat) :=
  match inc with
  | [] => .ok []
  | i :: rest =>
    let r := if i then f e (hd a) (hd b) (hd c) else .val 0
    match r with
    | .ovf => .error (tCVTOVF, e)
    | .fpx => .error (tFPX, e)
    | .val x =>
      match elemGo f (e + 1) rest a.tail b.tail c.tail with
      | .error z => .error z
      | .ok l => .ok (x :: l)

/-- Elements, or the engine fault of the lowest failing one. -/
def elems (f : Nat → Nat → Nat → Nat → ERes) (inc : List Bool) (a b c : List Nat) : Op (List Nat) :=
  match elemGo f 0 inc a b c with
  | .ok l => pure l
  | .error z => raise z.1 (wd z.2)

/-- Elements of a register under a format. -/
def elemsOf (f : Nat) (x : VBits) : List Nat := unpackN (widthOf f) (countOf f) x.toNat

/-- An elementwise word over `srcs` (A, B, C in order): its results under FMT, latency `lat` (R155). -/
def elemWord (w : EngW) (lat : Nat) (srcs : List (BitVec 8)) (f : Ve → Nat → Nat → Nat → Nat → ERes) (s : State) :
    Outcome State Fault Refusal :=
  engWord w.fl (do
    versionCheck w [w.fmt.toNat]
    let fm := w.fmt.toNat
    let a ← (match srcs[0]? with | some x => srcF w 0 x | none => pure 0)
    let b ← (match srcs[1]? with | some x => srcF w 1 x | none => pure 0)
    let c ← (match srcs[2]? with | some x => srcF w 2 x | none => pure 0)
    let inc ← included w (countOf fm)
    let v ← gets curVe
    let r ← elems (f v) inc (elemsOf fm a) (elemsOf fm b) (elemsOf fm c)
    let x := extraRead srcs
    deliver w.d.toNat (BitVec.ofNat 4096 (packN (widthOf fm) r)) (writeMask (widthOf fm) 0 inc) fm (lat + x) false w.fl.q
    pure x) (settleVe (curCore s) s)

/-- A word that computes a whole vector from whole sources: `f` answers bits; the mask governs elements of D. -/
def wholeWord (w : EngW) (lat : Nat) (srcs : List (BitVec 8)) (f : List VBits → VBits) (s : State) : Outcome State Fault Refusal :=
  engWord w.fl (do
    versionCheck w [w.fmt.toNat]
    let fm := w.fmt.toNat
    let a ← (match srcs[0]? with | some x => srcF w 0 x | none => pure 0)
    let b ← (match srcs[1]? with | some x => srcF w 1 x | none => pure 0)
    let inc ← included w (countOf fm)
    let x := extraRead srcs
    deliver w.d.toNat (f [a, b]) (writeMask (widthOf fm) 0 inc) fm (lat + x) false w.fl.q
    pure x) (settleVe (curCore s) s)

end Sys2Proof.Machine
end

