-- ==== Sys2Proof/Machine/VecArith.lean ====
section
/-! DEFINITION. Elementwise arithmetic, logic, shifts, compares, select and classify of the vector engine
(spec/07_vector.md R159 to R164). -/

namespace Sys2Proof.Machine

open Host (Outcome)

/-- FPX of an exact result: a NaN from operands none of which is one (R156). -/
def newNan (args : List Val) (y : Val) : Bool := isNan y && !args.any isNan

/-- Round a floating-point result of element `e`; `bad` says that the element meets an FPX condition. -/
def fpElem (w : EngW) (v : Ve) (e : Nat) (bad : Bool) (y : Val) : ERes :=
  if fpxOn w && bad then .fpx else ERes.ofRound (fpRoundTo w.fmt.toNat (rndOf w v e) y)

/-- An integer result: clamped with MOD[0], else modulo 2^w (R160). -/
def intElem (w : EngW) (x : Int) : ERes :=
  let f := w.fmt.toNat
  .val (wrapInt (widthOf f) (if w.mod.getLsbD 0 then clampInt f x else x))

/-- RND is RDN: an exact zero sum is -0 (spec/02_numbers.md R21). -/
def isRdn (w : EngW) : Bool := w.rnd == 2

/-- An arithmetic word: its exact value over values and over integers. -/
def arithWord (w : EngW) (latFp : Nat) (srcs : List (BitVec 8)) (f : Val → Val → Val → Val) (g : Int → Int → Int → Int) (s : State) :
    Outcome State Fault Refusal :=
  let fm := w.fmt.toNat
  elemWord w (if fpCode fm then latFp else 2) srcs (fun v e a b c =>
    if fpCode fm then
      let c1 := v.q.nbv = 1
      let x := valOf c1 fm a
      let y := valOf c1 fm b
      let z := valOf c1 fm c
      let r := f x y z
      fpElem w v e (newNan ([x, y, z].take srcs.length) r) r
    else intElem w (g (intOf fm a) (intOf fm b) (intOf fm c))) s

/-- VADD (R159, R160). -/
def execVadd (w : EngW) (s : State) : Outcome State Fault Refusal :=
  arithWord w 4 [w.a, w.b] (fun x y _ => vadd (isRdn w) x y) (fun x y _ => x + y) s
/-- VSUB (R159, R160). -/
def execVsub (w : EngW) (s : State) : Outcome State Fault Refusal :=
  arithWord w 4 [w.a, w.b] (fun x y _ => vadd (isRdn w) x (vneg y)) (fun x y _ => x - y) s
/-- VMUL (R159, R160). -/
def execVmul (w : EngW) (s : State) : Outcome State Fault Refusal :=
  arithWord w 4 [w.a, w.b] (fun x y _ => vmul x y) (fun x y _ => x * y) s
/-- VFMA (R159, R160). -/
def execVfma (w : EngW) (s : State) : Outcome State Fault Refusal :=
  arithWord w 5 [w.a, w.b, w.c] (fun x y z => vadd (isRdn w) (vmul x y) z) (fun x y z => x * y + z) s
/-- VFMS (R159, R160). -/
def execVfms (w : EngW) (s : State) : Outcome State Fault Refusal :=
  arithWord w 5 [w.a, w.b, w.c] (fun x y z => vadd (isRdn w) (vmul x y) (vneg z)) (fun x y z => x * y - z) s
/-- VFNMA (R159, R160). -/
def execVfnma (w : EngW) (s : State) : Outcome State Fault Refusal :=
  arithWord w 5 [w.a, w.b, w.c] (fun x y z => vadd (isRdn w) z (vneg (vmul x y))) (fun x y z => z - x * y) s

/-- The lesser of two values, NaN if either is one; -0 lies below +0 (R159). -/
def valMin (x y : Val) : Val := if isNan x || isNan y then .nan else if vltTotal y x then y else x
/-- The greater of two values. -/
def valMax (x y : Val) : Val := if isNan x || isNan y then .nan else if vltTotal x y then y else x

/-- VMIN (R159, R160). -/
def execVmin (w : EngW) (s : State) : Outcome State Fault Refusal :=
  arithWord w 2 [w.a, w.b] (fun x y _ => valMin x y) (fun x y _ => if y < x then y else x) s
/-- VMAX (R159, R160). -/
def execVmax (w : EngW) (s : State) : Outcome State Fault Refusal :=
  arithWord w 2 [w.a, w.b] (fun x y _ => valMax x y) (fun x y _ => if x < y then y else x) s

/-- The magnitude of a value. -/
def valAbs (x : Val) : Val := if isNeg x then vneg x else x

/-- VABS (R159, R160). -/
def execVabs (w : EngW) (s : State) : Outcome State Fault Refusal :=
  arithWord w 2 [w.a] (fun x _ _ => valAbs x) (fun x _ _ => (x.natAbs : Int)) s
/-- VNEG (R159, R160). -/
def execVneg (w : EngW) (s : State) : Outcome State Fault Refusal :=
  arithWord w 2 [w.a] (fun x _ _ => vneg x) (fun x _ _ => -x) s

/-- A floating-point word with a division or a root; `zdiv` is the FPX condition of a zero divisor (R156). -/
def divWord (w : EngW) (lat : Nat) (srcs : List (BitVec 8)) (zdiv : Val → Val → Bool) (f : Val → Val → Val) (s : State) :
    Outcome State Fault Refusal :=
  let fm := w.fmt.toNat
  elemWord w lat srcs (fun v e a b _ =>
    let c1 := v.q.nbv = 1
    let x := valOf c1 fm a
    let y := valOf c1 fm b
    let r := f x y
    fpElem w v e (newNan ([x, y].take srcs.length) r || zdiv x y) r) s

/-- The value 1. -/
def valOne : Val := .fin false 1 0 false

/-- VDIV (R159). -/
def execVdiv (w : EngW) (s : State) : Outcome State Fault Refusal :=
  divWord w 14 [w.a, w.b] (fun x y => isFinNz x && isZero y) vdiv s
/-- VSQRT (R159). -/
def execVsqrt (w : EngW) (s : State) : Outcome State Fault Refusal :=
  divWord w 14 [w.a] (fun _ _ => false) (fun x _ => vsqrt x) s
/-- VRCP (R159). -/
def execVrcp (w : EngW) (s : State) : Outcome State Fault Refusal :=
  divWord w 8 [w.a] (fun x _ => isZero x) (fun x _ => vdiv valOne x) s
/-- VRSQ (R159). -/
def execVrsq (w : EngW) (s : State) : Outcome State Fault Refusal :=
  divWord w 8 [w.a] (fun x _ => isZero x) (fun x _ => vrsqrt x) s

/-! Logic and shifts (R161). -/

/-- A word on the patterns of two elements. -/
def bitWord (w : EngW) (f : Nat → Nat → Nat → Nat) (s : State) : Outcome State Fault Refusal :=
  elemWord w 2 [w.a, w.b] (fun _ _ a b _ => .val (f (widthOf w.fmt.toNat) a b)) s

/-- VAND (R161). -/
def execVand (w : EngW) (s : State) : Outcome State Fault Refusal := bitWord w (fun _ a b => a &&& b) s
/-- VOR (R161). -/
def execVor (w : EngW) (s : State) : Outcome State Fault Refusal := bitWord w (fun _ a b => a ||| b) s
/-- VXOR (R161). -/
def execVxor (w : EngW) (s : State) : Outcome State Fault Refusal := bitWord w (fun _ a b => a ^^^ b) s
/-- VSHL (R161). -/
def execVshl (w : EngW) (s : State) : Outcome State Fault Refusal := bitWord w (fun k a b => a * 2^(b % k) % 2^k) s
/-- VSHR (R161). -/
def execVshr (w : EngW) (s : State) : Outcome State Fault Refusal := bitWord w (fun k a b => a / 2^(b % k)) s
/-- VSRA (R161): under UINT8 as VSHR. -/
def execVsra (w : EngW) (s : State) : Outcome State Fault Refusal :=
  bitWord w (fun k a b => wrapInt k (intOf w.fmt.toNat a / (2^(b % k) : Nat))) s
/-- VMULH: the upper half of the exact product (R161). -/
def execVmulh (w : EngW) (s : State) : Outcome State Fault Refusal :=
  bitWord w (fun k a b => wrapInt k (intOf w.fmt.toNat a * intOf w.fmt.toNat b / (2^k : Nat))) s

/-! Compare, select, classify (R162 to R164). -/

/-- The condition with code `n` over two values. -/
def vcond (n : Nat) (x y : Val) : Bool :=
  let un := isNan x || isNan y
  let lt := vlt x y
  let gt := vlt y x
  match n with
  | 0 => !un && !lt && !gt
  | 1 => un || lt || gt
  | 2 => !un && lt
  | 3 => !un && !gt
  | 4 => !un && gt
  | 5 => !un && !lt
  | 6 => un
  | _ => !un

/-- Bits over the elements of two lists. -/
def bitsOver (f : Nat → Nat → Bool) (a b : List Nat) (n : Nat) : List Bool :=
  match n with
  | 0 => []
  | n + 1 => f (hd a) (hd b) :: bitsOver f a.tail b.tail n

/-- A word that writes the mask D from its sources, latency 2. -/
def maskWord (w : EngW) (srcs : List (BitVec 8)) (f : Ve → Nat → Nat → Bool) (s : State) : Outcome State Fault Refusal :=
  engWord w.fl (do
    versionCheck w [w.fmt.toNat]
    let fm := w.fmt.toNat
    let n := countOf fm
    let a ← (match srcs[0]? with | some x => srcF w 0 x | none => pure 0)
    let b ← (match srcs[1]? with | some x => srcF w 1 x | none => pure 0)
    let inc ← included w n
    let v ← gets curVe
    let bits := packBits (bitsOver (f v) (elemsOf fm a) (elemsOf fm b) n)
    let x := extraRead srcs
    deliverMask (w.d.toNat - 0x60) n bits (packBits inc) (2 + x) w.fl.q
    pure x) (settleVe (curCore s) s)

/-- VCMP (R162). -/
def execVcmp (w : EngW) (s : State) : Outcome State Fault Refusal :=
  let fm := w.fmt.toNat
  maskWord w [w.a, w.b] (fun v a b =>
    vcond (w.immA.toNat % 8) (valOf (v.q.nbv = 1) fm a) (valOf (v.q.nbv = 1) fm b)) s

/-- The class of a floating-point pattern (R164). -/
def classOf (c1 : Bool) (f x : Nat) : Nat :=
  let p := fpFmt f
  let sub := nbits x p.fb p.eb = 0
  match valOf c1 f x with
  | .nan => 8
  | .inf n => if n then 0 else 7
  | .fin n m _ _ => if m = 0 then (if n then 3 else 4) else if sub then (if n then 2 else 5) else (if n then 1 else 6)

/-- VCLASS (R164). -/
def execVclass (w : EngW) (s : State) : Outcome State Fault Refusal :=
  maskWord w [w.a] (fun v a _ => w.immA.getLsbD (classOf (v.q.nbv = 1) w.fmt.toNat a)) s

/-- VSEL (R163): C is a mask. -/
def execVsel (w : EngW) (s : State) : Outcome State Fault Refusal :=
  engWord w.fl (do
    versionCheck w [w.fmt.toNat]
    let fm := w.fmt.toNat
    let n := countOf fm
    let a ← srcF w 0 w.a
    let b ← srcF w 1 w.b
    let c ← readMask (w.c.toNat - 0x60)
    let inc ← included w n
    let sel := writeMask (widthOf fm) 0 ((unpackN 1 n c.toNat).map fun x => x == 1)
    let x := extraRead [w.a, w.b]
    deliver w.d.toNat (putBits b a sel) (writeMask (widthOf fm) 0 inc) fm (2 + x) false w.fl.q
    pure x) (settleVe (curCore s) s)

end Sys2Proof.Machine
end

