-- ==== Sys2Proof/Machine/VecConv.lean ====
section
/-! DEFINITION. Conversions, quantisation, reductions, scan, permutations and moves of the vector engine
(spec/07_vector.md R165 to R170, spec/02_numbers.md R40, R41). -/

namespace Sys2Proof.Machine

open Host (Outcome)

/-! VCVT (R165). -/

/-- Source index of destination element `lo + j` and the destination range: (first source, first destination, count). -/
def cvtPlace (src dst p : Nat) : Nat × Nat × Nat :=
  let nf := countOf src
  let nt := countOf dst
  if nf < nt then (0, p * nf, nf) else if nt < nf then (p * nt, 0, nt) else (0, 0, nt)

/-- VCVT (R165). -/
def execVcvt (w : EngW) (s : State) : Outcome State Fault Refusal :=
  engWord w.fl (do
    let src := w.immA.toNat % 16
    let dst := w.fmt.toNat
    versionCheck w [dst, src]
    let a ← readSrc 0 src [src] (isRaw w) 0 w.a
    let inc ← included w (countOf dst)
    let (fs, fd, n) := cvtPlace src dst (w.mod.toNat % 4)
    let v ← gets curVe
    let inc' := (inc.drop fd).take n
    let xs := (elemsOf src a).drop fs
    match elemGo (fun e x _ _ => ERes.ofRound (roundFmt dst (rndOf w v e) (valOf (v.q.nbv = 1) src x))) fd inc' xs [] [] with
    | .error z => raise z.1 (wd z.2)
    | .ok r => do
      let k := widthOf dst
      deliver w.d.toNat (BitVec.ofNat 4096 (packN k r * 2^(k * fd))) (writeMask k fd inc') dst 3 false w.fl.q
      pure 0) (settleVe (curCore s) s)

/-! Quantisation (R166, R167). -/

/-- floor(log2) of the largest magnitude, or none with all zero. -/
def topExp (l : List Val) : Option Int :=
  match l with
  | [] => none
  | .fin _ m e _ :: r =>
    if m = 0 then topExp r
    else
      match topExp r with
      | none => some ((m.log2 : Int) + e)
      | some t => some (if t < (m.log2 : Int) + e then (m.log2 : Int) + e else t)
  | _ :: r => topExp r

/-- A value times 2^k. -/
def scaleVal (x : Val) (k : Int) : Val :=
  match x with
  | .fin n m e st => .fin n m (e + k) st
  | y => y

/-- A pattern of INT32 as an integer, clamped to plus or minus `m`. -/
def clampSym (m : Int) (x : Option Nat) : Int :=
  let v := sgn 32 (x.getD 0)
  if v < -m then -m else if m < v then m else v

/-- One block of 32 values, `e` the site of its first element. -/
def quantBlock (f : Nat) (r : Nat → Rnd) (e : Nat) (l : List Val) : Nat :=
  if l.any fun x => match x with
      | .fin _ _ _ _ => false
      | _ => true then mxJoin f (List.replicate 32 0) 0xFF
  else
    let t := (topExp l).getD 0 + 127
    let sc := if t < 0 then 0 else if 254 < t then 254 else t
    let q := (l.zip (upto 32)).map fun p =>
      clampSym (mxMax f) (intRoundTo 5 (r (e + p.2)) (scaleVal p.1 (mxF f + 127 - sc)))
    mxJoin f q sc.toNat

/-- VQMX (R166). -/
def execVqmx (w : EngW) (s : State) : Outcome State Fault Refusal :=
  engWord w.fl (do
    let src := w.immA.toNat % 16
    let f := w.fmt.toNat
    versionCheck w [f, src]
    let a ← readSrc 0 src [src] (isRaw w) 0 w.a
    let v ← gets curVe
    let xs := (((elemsOf src a).drop (128 * (if src = 2 then w.mod.toNat % 2 else 0))).take 128).map (valOf (v.q.nbv = 1) src)
    let rnd (e : Nat) : Rnd := { rndOf w v e with ovf := 0 }
    let bl := (upto 4).map fun i => quantBlock f rnd (32 * i) ((xs.drop (32 * i)).take 32)
    deliver w.d.toNat (BitVec.ofNat 4096 (packN (8 * mxBytes f) bl)) (BitVec.allOnes 4096) f 6 false w.fl.q
    pure 0) (settleVe (curCore s) s)

/-- The 128 values of four packed blocks. -/
def dequant (f x : Nat) : List Val :=
  ((unpackN (8 * mxBytes f) 4 x).map fun b =>
    let p := mxSplit f b
    p.1.map (mxVal f p.2)).flatten

/-- VDQMX (R167). The most negative code under scale 254 is −2^128, which neither format holds: the rule states no value, and
the element is a free value (log 70). -/
def execVdqmx (w : EngW) (s : State) : Outcome State Fault Refusal :=
  engWord w.fl (do
    let src := w.immA.toNat % 16
    let f := w.fmt.toNat
    versionCheck w [f, src]
    let a ← readSrc 0 src [src] (isRaw w) 0 w.a
    let v ← gets curVe
    let n ← fresh
    let r := (dequant src a.toNat).map fun x => (fpRoundTo f ⟨0, 3, 0, 0, v.q.nbv = 1⟩ x).getD (Config.freeNat n % 2^(widthOf f))
    let lo := if f = 2 then 128 * (w.mod.toNat % 2) else 0
    let k := widthOf f
    deliver w.d.toNat (BitVec.ofNat 4096 (packN k r * 2^(k * lo))) (writeMask k lo (List.replicate 128 true)) f 6 false w.fl.q
    pure 0) (settleVe (curCore s) s)

/-! Packing (R168). -/

/-- Elements at `o`, `o + 2`, …. -/
def everyOther (o : Nat) (l : List Nat) : List Nat := ((l.zip (upto l.length)).filter fun p => p.2 % 2 = o).map (·.1)

/-- Two lists interleaved. -/
def interleave (a b : List Nat) : List Nat :=
  match a, b with
  | x :: xs, y :: ys => x :: y :: interleave xs ys
  | _, _ => []

/-- A word of latency 3 over the element lists of its sources. -/
def permWord (w : EngW) (srcs : List (BitVec 8)) (f : List Nat → List Nat → List Nat) (s : State) : Outcome State Fault Refusal :=
  let fm := w.fmt.toNat
  wholeWord w 3 srcs (fun l =>
    BitVec.ofNat 4096 (packN (widthOf fm) (f (elemsOf fm (l.getD 0 0)) (elemsOf fm (l.getD 1 0))))) s

/-- VPACK (R168). -/
def execVpack (w : EngW) (s : State) : Outcome State Fault Refusal :=
  permWord w [w.a, w.b] (fun a b => everyOther (w.mod.toNat % 2) a ++ everyOther (w.mod.toNat % 2) b) s

/-- VUNPK (R168). -/
def execVunpk (w : EngW) (s : State) : Outcome State Fault Refusal :=
  let h := w.mod.toNat % 2 * (countOf w.fmt.toNat / 2)
  permWord w [w.a, w.b] (fun a b => (interleave (a.drop h) (b.drop h)).take (countOf w.fmt.toNat)) s

/-! Reductions and scan (R169). -/

/-- The accumulation format of a reduction under FMT (spec/02_numbers.md R40, R44). -/
def accFmt (nbv f : Nat) : Nat := if f = 2 && nbv != 3 then 2 else 1

/-- What a node gives: a value, CVT_OVF, or FPX. -/
abbrev Node := Except Nat Val

/-- One addition in the accumulation format, at site `e`. -/
def addNode (w : EngW) (v : Ve) (e : Nat) (x y : Val) : Node :=
  let acc := accFmt v.q.nbv w.fmt.toNat
  let t := vadd (isRdn w) x y
  if fpxOn w && newNan [x, y] t then .error tFPX
  else
    match fpRoundTo acc (rndOf w v e) t with
    | none => .error tCVTOVF
    | some p => .ok (valOf (v.q.nbv = 1) acc p)

/-- One level of the tree: neighbours combined, `e` the site of the first node. -/
def treeLevel (f : Nat → Val → Val → Node) (e : Nat) (l : List Val) : Except Nat (List Val) :=
  match l with
  | x :: y :: r =>
    match f e x y with
    | .error c => .error c
    | .ok z =>
      match treeLevel f (e + 1) r with
      | .error c => .error c
      | .ok t => .ok (z :: t)
  | t => .ok t

/-- The tree of R40 over `l`: `fuel` levels, `n` the element count, sites n - width + i. -/
def treeFold (f : Nat → Val → Val → Node) (n fuel : Nat) (l : List Val) : Node :=
  match fuel with
  | 0 => .ok (l.headD .nan)
  | fuel + 1 =>
    if l.length ≤ 1 then .ok (l.headD .nan)
    else
      match treeLevel f (n - l.length) l with
      | .error c => .error c
      | .ok t => treeFold f n fuel t

/-- The sequential order of Cretus-1 (spec/02_numbers.md R44). -/
def seqFold (f : Nat → Val → Val → Node) (e : Nat) (x : Val) (l : List Val) : Node :=
  match l with
  | [] => .ok x
  | y :: r =>
    match f e x y with
    | .error c => .error c
    | .ok z => seqFold f (e + 1) z r

/-- Reduce in the order of the version. -/
def reduceVals (v : Ve) (f : Nat → Val → Val → Node) (l : List Val) : Node :=
  if v.q.nbv = 1 then
    match l with
    | [] => .ok .nan
    | x :: r => seqFold f 0 x r
  else treeFold f l.length 10 l

/-- The values of a reduction's elements, the identity where the mask excludes one. -/
def redVals (c1 : Bool) (f : Nat) (ident : Val) (inc : List Bool) (a : List Nat) : List Val :=
  (inc.zip a).map fun p => if p.1 then valOf c1 f p.2 else ident

/-- The exact sum of the included integers. -/
def intSum (f : Nat) (inc : List Bool) (a : List Nat) : Int :=
  ((inc.zip a).map fun p => if p.1 then intOf f p.2 else 0).foldl (· + ·) 0

/-- Deliver a reduction's root in element 0, zero elsewhere. -/
def deliverRoot (w : EngW) (r : Nat) : Op Nat := do
  deliver w.d.toNat (BitVec.ofNat 4096 r) (BitVec.allOnes 4096) w.fmt.toNat 9 false w.fl.q
  pure 0

/-- The failure of a reduction: the element that EFVAL names is not given for a node, a free value (log 1). -/
def redFail {α : Type} (code : Nat) : Op α := do
  let n ← fresh
  raise code (Config.freeWord n)

/-- VRSUM (R169, spec/02_numbers.md R40). -/
def execVrsum (w : EngW) (s : State) : Outcome State Fault Refusal :=
  engWord w.fl (do
    let fm := w.fmt.toNat
    versionCheck w [fm]
    let a ← srcF w 0 w.a
    let inc ← included w (countOf fm)
    let v ← gets curVe
    let n := countOf fm
    if fpCode fm then
      match reduceVals v (addNode w v) (redVals (v.q.nbv = 1) fm (.fin true 0 0 false) inc (elemsOf fm a)) with
      | .error c => redFail c
      | .ok x =>
        match fpRoundTo fm (rndOf w v (n - 1)) x with
        | none => redFail tCVTOVF
        | some r => deliverRoot w r
    else
      match intRoundTo fm (rndOf w v 0) (intVal (intSum fm inc (elemsOf fm a))) with
      | none => redFail tCVTOVF
      | some r => deliverRoot w r) (settleVe (curCore s) s)

/-- VRMAX and VRMIN: `pick` of two values, `ident` the identity (R169). -/
def extremeWord (w : EngW) (pick : Val → Val → Val) (ident : Val) (s : State) : Outcome State Fault Refusal :=
  engWord w.fl (do
    let fm := w.fmt.toNat
    versionCheck w [fm]
    let a ← srcF w 0 w.a
    let inc ← included w (countOf fm)
    let v ← gets curVe
    match reduceVals v (fun _ x y => .ok (pick x y)) (redVals (v.q.nbv = 1) fm ident inc (elemsOf fm a)) with
    | .error c => redFail c
    | .ok x =>
      let r := rndOf w v (countOf fm - 1)
      match roundFmt fm (if fpCode fm then r else { r with ovf := 0 }) x with
      | none => do
        let n ← fresh
        deliverRoot w (Config.freeNat n % 2^8)
      | some p => deliverRoot w p) (settleVe (curCore s) s)

/-- VRMAX (R169). -/
def execVrmax (w : EngW) (s : State) : Outcome State Fault Refusal := extremeWord w valMax (.inf true) s
/-- VRMIN (R169). -/
def execVrmin (w : EngW) (s : State) : Outcome State Fault Refusal := extremeWord w valMin (.inf false) s

/-- The prefixes of R41 over values: each with its element number; the failing element otherwise. -/
def scanGo (f : Nat → Val → Val → Node) (out : Nat → Val → Option Nat) (e : Nat) (run : Option Val) (l : List Val) :
    Except (Nat × Nat) (List Nat) :=
  match l with
  | [] => .ok []
  | x :: r =>
    let node : Node := match run with
      | none => .ok x
      | some t => f e t x
    match node with
    | .error c => .error (c, e)
    | .ok z =>
      match out e z with
      | none => .error (tCVTOVF, e)
      | some p =>
        match scanGo f out (e + 1) (some z) r with
        | .error q => .error q
        | .ok t => .ok (p :: t)

/-- VSCAN (R169, spec/02_numbers.md R41). -/
def execVscan (w : EngW) (s : State) : Outcome State Fault Refusal :=
  engWord w.fl (do
    let fm := w.fmt.toNat
    versionCheck w [fm]
    let a ← srcF w 0 w.a
    let inc ← included w (countOf fm)
    let v ← gets curVe
    let ident : Val := if fpCode fm then .fin true 0 0 false else .fin false 0 0 false
    let xs := redVals (v.q.nbv = 1) fm ident inc (elemsOf fm a)
    let add (e : Nat) (x y : Val) : Node := if fpCode fm then addNode w v e x y else .ok (vadd false x y)
    match scanGo add (fun e x => roundFmt fm (rndOf w v e) x) 0 none xs with
    | .error z => raise z.1 (wd z.2)
    | .ok r => do
      deliver w.d.toNat (BitVec.ofNat 4096 (packN (widthOf fm) r)) (BitVec.allOnes 4096) fm 9 false w.fl.q
      pure 0) (settleVe (curCore s) s)

/-! Permutations and moves (R170). -/

/-- The integer format of a width. -/
def intFmtOf (f : Nat) : Nat :=
  match widthOf f with
  | 16 => 6
  | 8 => 7
  | 64 => 11
  | _ => 5

/-- The tag codes that an index of a format's width may carry. -/
def indexTags (f : Nat) : List Nat := if widthOf f = 8 then [7, 12] else [intFmtOf f]

/-- VPERM (R170). -/
def execVperm (w : EngW) (s : State) : Outcome State Fault Refusal :=
  engWord w.fl (do
    let fm := w.fmt.toNat
    versionCheck w [fm]
    let a ← srcF w 0 w.a
    let b ← readSrc 1 (intFmtOf fm) (indexTags fm) (isRaw w) 0 w.b
    let inc ← included w (countOf fm)
    let l := elemsOf fm a
    let hi := if widthOf fm = 8 then 256 * (w.mod.toNat % 2) else 0
    let r := (elemsOf fm b).map fun i => nth l ((i + hi) % countOf fm) 0
    let x := extraRead [w.a, w.b]
    deliver w.d.toNat (BitVec.ofNat 4096 (packN (widthOf fm) r)) (writeMask (widthOf fm) 0 inc) fm (3 + x) false w.fl.q
    pure x) (settleVe (curCore s) s)

/-- VBCAST (R170). -/
def execVbcast (w : EngW) (s : State) : Outcome State Fault Refusal :=
  permWord w [w.a] (fun a _ => List.replicate (countOf w.fmt.toNat) (nth a w.immA.toNat 0)) s

/-- VSLIDE (R170): k is signed, from -n to n. -/
def execVslide (w : EngW) (s : State) : Outcome State Fault Refusal :=
  let n := countOf w.fmt.toNat
  let k := w.immA.toInt
  permWord w [w.a, w.b] (fun a b =>
    if 0 ≤ k then ((a ++ b).drop k.toNat).take n else ((b ++ a).drop (k + n).toNat).take n) s

/-- VMOV (R170). -/
def execVmov (w : EngW) (s : State) : Outcome State Fault Refusal := wholeWord w 2 [w.a] (fun l => l.getD 0 0) s

/-- VLDI (R170). -/
def execVldi (w : EngW) (s : State) : Outcome State Fault Refusal :=
  wholeWord w 2 [] (fun _ => broadcast w.fmt.toNat (w.immB.toNat * 2^16 + w.immA.toNat)) s

end Sys2Proof.Machine
end

