-- ==== Sys2Proof/Machine/Tiu.lean ====
section
/-! DEFINITION. The table-interpolation unit: built-in tables, user tables, VTINT and VTLD (spec/07_vector.md R171 to
R174). -/

namespace Sys2Proof.Machine

open Host (Outcome)

/-! Knots 0 to 256 of the built-in tables as BF16, knot i in bits 16 i to 16 i + 15 (R173). -/

/-- GELU, erf form, RNE (R173). -/
def geluKnots : Nat :=
  0xb671b632b603b5c0b58db54db514b4d6b49ab45db41eb3e0b39fb360b31db2dcb29ab255b214b1cbb18cb13fb102b0b0b06eb020afd7af90af3faefdaea7ae5bae10adbbad74ad1eaccbac82ac27abd5ab87ab2baad7aa87aa28a9d2a982a920a8c5a872a813a7b3 +
  0xbdbdbdadbd9ebd90bd82bd69bd51bd3abd25bd12bd01bce1bcc5bcabbc94bc7ebc5abc3abc1ebc06bbe3bbbebb9fbb85bb5cbb36bb16baf6bac9baa3ba84ba55ba2cba09b9dbb9aeb989b959b92ab905b8cfb8a0b878b83fb812b7dfb7a9b780b741b711b6d9b6a2 * 2^832 +
  0x3fce3fc53fbc3fb33faa3fa13f983f8f3f863f7a3f693f573f463f353f253f143f053eeb3ecd3eb13e963e783e473e193ddd3d8d3d060000bcf3bd67bda3bdcdbdf1be08be14be1ebe25be2abe2dbe2ebe2dbe2bbe27be22be1dbe16be0fbe07bdfebdeebddebdcd * 2^1664 +
  0x409e409c409a40984096409440924090408e408c408a40884086408440824080407c407840744070406c406840644060405c405840544050404c404840444040403c40384034402f402b40274023401f401b40174012400e400a400640013ffa3ff13fe93fe03fd7 * 2^2496 +
  0x410040fe40fc40fa40f840f640f440f240f040ee40ec40ea40e840e640e440e240e040de40dc40da40d840d640d440d240d040ce40cc40ca40c840c640c440c240c040be40bc40ba40b840b640b440b240b040ae40ac40aa40a840a640a440a240a0 * 2^3328

/-- GELU under Cretus-1: the tanh form, RTZ (spec/02_numbers.md R44, log 21). -/
def gelu1Knots : Nat :=
  0xb551b50cb4bab476b420b3d0b385b32ab2d6b286b225b1cbb177b115b0b1b052aff5af8eaf23aeb9ae50ade8ad7fad0bac96ac20aba9ab30aab6aa3aa9bca93ca8b9a835a7aea726a69da612a586a4f5a45ca3c3a32ba294a1fda155a0b2a0129f6d9ebe9e169d6a +
  0xbdbdbdadbd9ebd8fbd81bd69bd50bd39bd24bd11bcffbcdebcc1bca7bc90bc77bc52bc32bc16bbfdbbd3bbafbb91bb6ebb42bb1ebaffbacdbaa4ba82ba4dba21b9fbb9c3b996b965b92eb903b8c5b893b859b820b7e9b7a8b772b72db6f5b6acb670b626b5e4b59b * 2^832 +
  0x3fce3fc53fbc3fb33faa3fa13f983f8f3f863f7a3f683f573f463f353f243f143f043eea3ecd3eb13e953e783e473e193ddc3d8c3d060000bcf3bd66bda3bdcdbdf1be07be14be1dbe25be2abe2dbe2ebe2dbe2bbe27be22be1cbe16be0fbe07bdfebdeebddebdcd * 2^1664 +
  0x409d409b40994097409540934091408f408d408b40894087408540834081407f407b40774073406f406b40674063405f405b40574053404f404b40474043403f403b40374033402f402b40274023401f401a40164012400e400a400540013ffa3ff13fe83fdf3fd7 * 2^2496 +
  0x40ff40fd40fb40f940f740f540f340f140ef40ed40eb40e940e740e540e340e140df40dd40db40d940d740d540d340d140cf40cd40cb40c940c740c540c340c140bf40bd40bb40b940b740b540b340b140af40ad40ab40a940a740a540a340a1409f * 2^3328

/-- EXP2 on [0, 1]. -/
def exp2Knots : Nat :=
  0x3f933f933f923f923f913f913f913f903f903f8f3f8f3f8f3f8e3f8e3f8d3f8d3f8d3f8c3f8c3f8c3f8b3f8b3f8a3f8a3f8a3f893f893f893f883f883f873f873f873f863f863f863f853f853f853f843f843f843f833f833f823f823f823f813f813f813f803f80 +
  0x3fa93fa93fa83fa83fa73fa73fa63fa63fa63fa53fa53fa43fa43fa33fa33fa23fa23fa23fa13fa13fa03fa03f9f3f9f3f9f3f9e3f9e3f9d3f9d3f9c3f9c3f9c3f9b3f9b3f9a3f9a3f993f993f993f983f983f973f973f973f963f963f953f953f953f943f943f93 * 2^832 +
  0x3fc33fc23fc23fc13fc13fc03fc03fbf3fbf3fbe3fbe3fbd3fbd3fbc3fbc3fbb3fba3fba3fb93fb93fb83fb83fb73fb73fb63fb63fb63fb53fb53fb43fb43fb33fb33fb23fb23fb13fb13fb03fb03faf3faf3fae3fae3fad3fad3fac3fac3fab3fab3fab3faa3faa * 2^1664 +
  0x3fe03fe03fdf3fde3fde3fdd3fdd3fdc3fdb3fdb3fda3fda3fd93fd83fd83fd73fd73fd63fd63fd53fd43fd43fd33fd33fd23fd23fd13fd03fd03fcf3fcf3fce3fce3fcd3fcc3fcc3fcb3fcb3fca3fca3fc93fc93fc83fc83fc73fc63fc63fc53fc53fc43fc43fc3 * 2^2496 +
  0x40003fff3fff3ffe3ffd3ffd3ffc3ffb3ffb3ffa3ff93ff83ff83ff73ff63ff63ff53ff43ff43ff33ff33ff23ff13ff13ff03fef3fef3fee3fed3fed3fec3feb3feb3fea3fe93fe93fe83fe83fe73fe63fe63fe53fe43fe43fe33fe33fe23fe13fe1 * 2^3328

/-- LOG2 on [1, 2]. -/
def log2Knots : Nat :=
  0x3e863e843e813e7e3e793e743e6f3e6a3e653e603e5b3e563e513e4c3e473e423e3d3e383e333e2e3e293e243e1f3e193e143e0f3e0a3e043dfe3df43de93dde3dd43dc93dbe3db33da83d9d3d923d873d793d623d4c3d363d1f3d093ce53cb73c8a3c383bb80000 +
  0x3efa3ef83ef63ef43ef13eef3eed3eeb3ee93ee73ee53ee33ee13edf3edc3eda3ed83ed63ed43ed23ecf3ecd3ecb3ec93ec73ec43ec23ec03ebe3ebc3eb93eb73eb53eb33eb03eae3eac3ea93ea73ea53ea33ea03e9e3e9c3e993e973e943e923e903e8d3e8b3e89 * 2^832 +
  0x3f2f3f2e3f2d3f2c3f2b3f2a3f293f293f283f273f263f253f243f233f223f213f203f1f3f1e3f1d3f1c3f1b3f1b3f1a3f193f183f173f163f153f143f133f123f113f103f0f3f0e3f0d3f0c3f0b3f0a3f093f083f073f063f053f043f033f023f013f003efe3efc * 2^1664 +
  0x3f5b3f5a3f593f583f583f573f563f553f543f543f533f523f513f503f503f4f3f4e3f4d3f4c3f4b3f4b3f4a3f493f483f473f463f463f453f443f433f423f413f403f403f3f3f3e3f3d3f3c3f3b3f3a3f393f393f383f373f363f353f343f333f323f323f313f30 * 2^2496 +
  0x3f803f7f3f7f3f7e3f7d3f7c3f7c3f7b3f7a3f793f793f783f773f773f763f753f743f743f733f723f713f713f703f6f3f6e3f6e3f6d3f6c3f6b3f6a3f6a3f693f683f673f673f663f653f643f643f633f623f613f603f603f5f3f5e3f5d3f5c3f5c * 2^3328

/-- TANH. -/
def tanhKnots : Nat :=
  0xbf80bf80bf80bf80bf80bf80bf80bf80bf80bf80bf80bf80bf80bf80bf80bf80bf80bf80bf80bf80bf80bf80bf80bf80bf80bf80bf80bf80bf80bf80bf80bf80bf80bf80bf80bf80bf80bf80bf80bf80bf80bf80bf80bf80bf80bf80bf80bf80bf80bf80bf80bf80 +
  0xbf6abf6dbf6fbf71bf73bf74bf76bf77bf78bf79bf7abf7abf7bbf7cbf7cbf7dbf7dbf7dbf7ebf7ebf7ebf7ebf7fbf7fbf7fbf7fbf7fbf7fbf7fbf7fbf7fbf80bf80bf80bf80bf80bf80bf80bf80bf80bf80bf80bf80bf80bf80bf80bf80bf80bf80bf80bf80bf80 * 2^832 +
  0x3f6f3f6d3f6a3f683f653f613f5d3f593f543f4f3f493f433f3c3f343f2c3f233f193f0e3f033eed3ed33eb73e9b3e7b3e3e3dff3d800000bd80bdffbe3ebe7bbe9bbeb7bed3beedbf03bf0ebf19bf23bf2cbf34bf3cbf43bf49bf4fbf54bf59bf5dbf61bf65bf68 * 2^1664 +
  0x3f803f803f803f803f803f803f803f803f803f803f803f803f803f803f803f803f803f803f803f803f803f803f803f803f7f3f7f3f7f3f7f3f7f3f7f3f7f3f7f3f7f3f7e3f7e3f7e3f7e3f7d3f7d3f7d3f7c3f7c3f7b3f7a3f7a3f793f783f773f763f743f733f71 * 2^2496 +
  0x3f803f803f803f803f803f803f803f803f803f803f803f803f803f803f803f803f803f803f803f803f803f803f803f803f803f803f803f803f803f803f803f803f803f803f803f803f803f803f803f803f803f803f803f803f803f803f803f803f80 * 2^3328

/-- A table as VTINT evaluates it. -/
structure TabFn where
  x0 : Val
  lsp : Int
  mode : Nat
  low : Nat
  high : Nat
  knot : Nat → Val
  slope : Nat → Val

/-- Knot i of a built-in table. -/
def biKnot (t i : Nat) : Val := fpVal (fpFmt 2) false (nbits t (16 * i) 16)

/-- A built-in table: its slopes are the exact differences over the spacing (R173). -/
def biTable (t : Nat) (x0 lsp : Int) (mode low high : Nat) : TabFn :=
  ⟨intVal x0, lsp, mode, low, high, biKnot t, fun i => scaleVal (vadd false (biKnot t (i + 1)) (vneg (biKnot t i))) (-lsp)⟩

/-- Built-in tables 0 to 3 (R173, spec/02_numbers.md R44). -/
def builtin (nbv id : Nat) : TabFn :=
  match id with
  | 0 => biTable (if nbv = 1 then gelu1Knots else geluKnots) (-8) (-4) 0 1 2
  | 1 => biTable exp2Knots 0 (-8) 2 0 0
  | 2 => biTable log2Knots 1 (-8) 1 0 0
  | _ => biTable tanhKnots (-8) (-4) 0 0 0

/-- A FP32 pattern's value. -/
def f32 (x : Word32) : Val := fpVal (fpFmt 1) false x.toNat

/-- A user table. -/
def userTable (t : TiuTab) : TabFn :=
  ⟨f32 t.x0, t.lsp, t.mode, t.low, t.high, fun i => f32 (nth t.segs i (0, 0)).1, fun i => f32 (nth t.segs i (0, 0)).2⟩

/-- floor of a finite value over 2^k. -/
def floorAt (x : Val) (k : Int) : Int :=
  match x with
  | .fin n m e _ =>
    let v : Int := if n then -(m : Int) else m
    if k ≤ e then v * (2^(e - k).toNat : Nat) else v / (2^(k - e).toNat : Nat)
  | _ => 0

/-- The edge rules (R171): 0 the edge value, 1 zero, 2 the input, 3 an infinity. -/
def edgeRule (rule : Nat) (edge x : Val) (neg : Bool) : Val :=
  match rule with
  | 0 => edge
  | 1 => .fin false 0 0 false
  | 2 => x
  | _ => .inf neg

/-- Seg(x) (R172), exact; `rdn` as in `vadd`. -/
def segAt (t : TabFn) (rdn : Bool) (x : Val) : Val :=
  let low := edgeRule t.low (t.knot 0) x true
  let high := edgeRule t.high (vadd rdn (t.knot 255) (scaleVal (t.slope 255) t.lsp)) x false
  match x with
  | .nan => .nan
  | .inf n => if n then low else high
  | _ =>
    let d := vadd rdn x (vneg t.x0)
    let i := floorAt d t.lsp
    if i < 0 then low
    else if 255 < i then high
    else vadd rdn (t.knot i.toNat) (vmul (t.slope i.toNat) (vadd rdn d (vneg (.fin false i.toNat t.lsp false))))

/-- The exact y of VTINT (R172). -/
def tintVal (t : TabFn) (rdn : Bool) (x : Val) : Val :=
  match x with
  | .nan => .nan
  | .inf n =>
    match t.mode with
    | 0 => segAt t rdn x
    | 1 => if n then .nan else .inf false
    | _ => if n then .fin false 0 0 false else .inf false
  | .fin n m e st =>
    match t.mode with
    | 0 => segAt t rdn x
    | 1 =>
      if m = 0 then .inf true
      else if n then .nan
      else vadd rdn (intVal ((m.log2 : Int) + e)) (segAt t rdn (.fin false m (-(m.log2 : Int)) st))
    | _ =>
      let nn := floorAt x 0
      scaleVal (segAt t rdn (vadd rdn x (vneg (intVal nn)))) nn

/-- X0 of a table is a finite number; the spec gives no meaning to another. -/
def TabFn.sound (t : TabFn) : Bool :=
  match t.x0 with
  | .fin _ _ _ _ => true
  | _ => false

/-- The table that VTINT names: it waits for a load in progress, and stops on a table never loaded or poisoned (R174). -/
def tintTable (id : Nat) : Op TabFn := do
  let v ← gets curVe
  if id < 4 then pure (builtin v.q.nbv id)
  else do
    let s ← gets (fun s => s)
    let due := tget v.tabDue id 0
    if s.now < due then stop (.till due)
    else
      match tget? v.tabs id with
      | none => do
        illopIf true
        pure (builtin 3 0)
      | some t => do
        raiseFreeIf t.poisoned tPOISON
        pure (userTable t)

/-- VTINT (R172). -/
def execVtint (w : EngW) (s : State) : Outcome State Fault Refusal :=
  engWord w.fl (do
    let fm := w.fmt.toNat
    versionCheck w [fm]
    let a ← srcF w 0 w.a
    let inc ← included w (countOf fm)
    let t ← tintTable (w.immA.toNat % 16)
    let v ← gets curVe
    let k ← fresh
    let r ← elems (fun e a _ _ =>
      let x := valOf (v.q.nbv = 1) fm a
      if !t.sound && !isNan x then .val ((Config.freeNat (k + e)) % 2^widthOf fm)
      else
        let y := tintVal t (isRdn w) x
        fpElem w v e (newNan [x] y) y) inc (elemsOf fm a) [] []
    upd fun s => { s with free := s.free + 512 }
    deliver w.d.toNat (BitVec.ofNat 4096 (packN (widthOf fm) r)) (writeMask (widthOf fm) 0 inc) fm 6 false w.fl.q
    pure 0) (settleVe (curCore s) s)

/-! Addresses of the VE (R175). -/

/-- EA: the base of ADDR[31:29] plus the signed offset, modulo 2^32. -/
def engAddr (s : State) (c : Nat) (e : EngSel) (addr : BitVec 32) : Nat :=
  let b := nbits addr.toNat 29 3
  let base := if b = 0 then 0 else streamVal s c e (b - 1)
  (((base : Int) + sgn 29 addr.toNat) % (2^32 : Nat)).toNat

/-- The checks of one access: alignment, range, poison; EFVAL is the offset, its low 32 bits where it is larger (R175). -/
def checkAcc (off n align : Nat) (write : Bool) : Op Unit := do
  let s ← gets (fun s => s)
  let v := wd (off % 2^32)
  raiseIf (off % align != 0) tALIGN v
  raiseIf (decide (0x300000 < off + n) || (write && decide (0x2F0000 < off + n))) tPROT v
  if !write && hasBad s (scrKey (curCore s) off) n then stop (.trapIn (poisonSlots s (curCore s) off n) tPOISON v) else pure ()

/-- The table that 2,064 bytes describe, or none where a field is out of its range (R171, R174). -/
def parseTable (l : List Byte) : Option TiuTab :=
  let f (o n : Nat) : Nat := recF l o n
  let x0 := f 0 4
  let lsp := sgn 8 (f 4 1)
  let mode := f 5 1
  if lsp < -12 || 4 < lsp || 2 < mode || 3 < f 6 1 || 3 < f 7 1 || f 8 8 != 0 || (mode != 0 && lsp != -8) ||
      (mode = 1 && x0 != 0x3F800000) || (mode = 2 && x0 % 2^31 != 0) then none
  else
    some { x0 := BitVec.ofNat 32 x0, lsp := lsp, mode := mode, low := f 6 1, high := f 7 1,
           segs := (upto 256).map fun i => (BitVec.ofNat 32 (f (16 + 8 * i) 4), BitVec.ofNat 32 (f (20 + 8 * i) 4)) }

/-- Cycles of a table load (log 4). -/
def latTable : Nat := 33

/-- VTLD (R174). -/
def execVtld (w : EngW) (s : State) : Outcome State Fault Refusal :=
  engWord w.fl (do
    let s ← gets (fun s => s)
    let c := curCore s
    let ea := engAddr s c .ve w.addr
    checkAcc ea 2064 16 false
    let l := scrBytes s c ea 0 2064
    match parseTable l with
    | none => do
      illopIf true
      pure 0
    | some t => do
      upd fun s => modVe { s with free := s.free + 2064 } c fun v =>
        { v with tabs := tput v.tabs (w.immA.toNat % 16) t, tabDue := tput v.tabDue (w.immA.toNat % 16) (s.now + latTable) }
      pure 0) (settleVe (curCore s) s)

end Sys2Proof.Machine
end

