-- ==== Sys2Proof/Machine/VecMem.lean ====
section
/-! DEFINITION. Vector memory words, slot words, the transom, mask words and the mailbox (spec/07_vector.md R175 to R184). -/

namespace Sys2Proof.Machine

open Host (Outcome)

/-- Bytes of an element; an MX format moves single bytes (log 22). -/
def elemBytes (f : Nat) : Nat := if 8 ≤ f && f ≤ 10 then 1 else widthOf f / 8

/-- The element addresses of a word, with the element number; the included ones only. EA alone is taken modulo 2^32 (R175): an
address beyond it stays there, and one below zero stands beyond the scratchpad too (log 26). -/
def addrsOf (inc : List Bool) (at' : Nat → Int) : List (Nat × Nat) :=
  ((inc.zip (upto inc.length)).filter (·.1)).map fun p =>
    let a := at' p.2
    ((if a < 0 then a % (2^32 : Nat) else a).toNat, p.2)

/-- Every access is checked before any byte moves (R175). -/
def checkAll (l : List (Nat × Nat)) (n : Nat) (write : Bool) : Op Unit :=
  match l with
  | [] => pure ()
  | p :: r => do
    checkAcc p.1 n n write
    checkAll r n write

/-- The bits that a load brings, element `i` of width 8 b. -/
def gatherBits (s : State) (c b : Nat) (l : List (Nat × Nat)) : Nat :=
  l.foldl (fun t p => t + bytesNat (scrBytes s c p.1 (8 * p.2) b) * 2^(8 * b * p.2)) 0

/-- Store elements of `x` in ascending order: the highest-numbered element of one byte remains (R176). -/
def scatterBits (s : State) (c b : Nat) (x : Nat) (l : List (Nat × Nat)) : State :=
  l.foldl (fun t p => scrStore t c p.1 (natBytes b (x / 2^(8 * b * p.2)))) s

/-- The offsets of the bytes of elements of `b` bytes. -/
def offsOf (b : Nat) (l : List (Nat × Nat)) : List Nat := (l.map fun p => (upto b).map (p.1 + ·)).flatten

/-- The first of these offsets whose uncorrectable 8-byte word the stores to all of them cover in part only. -/
def cutAt (s : State) (core : Nat) (offs : List Nat) : Option Nat :=
  let ks := offs.map (scrKey core)
  offs.find? fun o =>
    let w := scrKey core o / 8
    s.bad.contains w && !(upto 8).all fun i => ks.contains (8 * w + i)

/-- A store that would leave part of an uncorrectable word writes nothing, and the tag of the full slot that holds the word turns to POISON
(spec/06_scratchpad.md R135, R143). -/
def noCut (offs : List Nat) : Op Unit := do
  let s ← gets (fun s => s)
  match (if s.bad.isEmpty then none else cutAt s (curCore s) offs) with
  | some o => stop (.trapIn (poisonSlots s (curCore s) o 1) tPOISON (wd o))
  | none => pure ()

/-- Elements of `b` bytes in a register. -/
def countB (b : Nat) : Nat := 512 / b

/-- The template mask over elements of `b` bytes. -/
def includedB (w : EngW) (b : Nat) : Op (List Bool) := do
  if 8 ≤ w.fmt.toNat && w.fmt.toNat ≤ 11 then pure (List.replicate (countB b) true) else included w (countB b)

/-- The slots that the engine may fill next and has not filled: offset and length. -/
def outSlots (s : State) (c : Nat) : List (Nat × Nat) :=
  (upto 48).filterMap fun id =>
    let d := descOf s c id
    if d.en && (d.prod = 4 || d.prod = 15) && slotState s c id d.tail = 0 then some (slotBase d d.tail, d.slotb) else none

/-- Before the vector engine stores to these offsets: what an output slot that is not filled held at the mark is kept, for an eclipse discards
what is written there (spec/18_recovery.md R385). -/
def keepSlots (c : Nat) (offs : List Nat) (s : State) : State :=
  let hit := (outSlots s c).filter fun p =>
    (tget? (coreOf s c).ve.q.undo p.1).isNone && offs.any fun o => decide (p.1 ≤ o) && decide (o < p.1 + p.2)
  if hit.isEmpty then s
  else modSeqr s c .ve fun q =>
    { q with undo := hit.foldl (fun l p =>
        tput l p.1 (p.2, s.mem.filter fun e => decide (scrKey c p.1 ≤ e.1) && decide (e.1 < scrKey c p.1 + p.2))) q.undo }

/-- The cycle by which this word's scratchpad writes are performed. -/
def noteStore : Op Unit := upd fun s => modVe s (curCore s) fun v => { v with memDue := max v.memDue (s.now + Config.latOwn) }

/-- A load of included elements at `at'` (R176), interlocked. -/
def loadElems (w : EngW) (at' : Nat → Int) : Op Nat := do
  let b := elemBytes w.fmt.toNat
  let inc ← includedB w b
  let l := addrsOf inc at'
  checkAll l b false
  let s ← gets (fun s => s)
  let bits := gatherBits s (curCore s) b l
  upd fun s => { s with free := s.free + 4096 }
  deliver w.d.toNat (BitVec.ofNat 4096 bits) (writeMask (8 * b) 0 inc) w.fmt.toNat 6 true w.fl.q
  pure 0

/-- A store of the included elements of `x` at `at'` (R176). -/
def storeElems (w : EngW) (x : VBits) (at' : Nat → Int) : Op Nat := do
  let b := elemBytes w.fmt.toNat
  let inc ← includedB w b
  let l := addrsOf inc at'
  checkAll l b true
  noCut (offsOf b l)
  upd fun s => healOffs (scatterBits (keepSlots (curCore s) (offsOf b l) s) (curCore s) b x.toNat l) (curCore s) (offsOf b l)
  noteStore
  pure 0

/-- EA of the word. -/
def eaOf (w : EngW) : Op Int := do
  let s ← gets (fun s => s)
  pure (engAddr s (curCore s) .ve w.addr)

/-- VLD (R176). -/
def execVld (w : EngW) (s : State) : Outcome State Fault Refusal :=
  engWord w.fl (do
    versionCheck w [w.fmt.toNat]
    let ea ← eaOf w
    loadElems w fun e => ea + (e * elemBytes w.fmt.toNat : Nat)) (settleVe (curCore s) s)

/-- VST (R176). -/
def execVst (w : EngW) (s : State) : Outcome State Fault Refusal :=
  engWord w.fl (do
    versionCheck w [w.fmt.toNat]
    let a ← srcF w 0 w.a
    let ea ← eaOf w
    storeElems w a fun e => ea + (e * elemBytes w.fmt.toNat : Nat)) (settleVe (curCore s) s)

/-- VLDS (R176). -/
def execVlds (w : EngW) (s : State) : Outcome State Fault Refusal :=
  engWord w.fl (do
    versionCheck w [w.fmt.toNat]
    let ea ← eaOf w
    loadElems w fun e => ea + e * w.immB.toInt) (settleVe (curCore s) s)

/-- VSTS (R176). -/
def execVsts (w : EngW) (s : State) : Outcome State Fault Refusal :=
  engWord w.fl (do
    versionCheck w [w.fmt.toNat]
    let a ← srcF w 0 w.a
    let ea ← eaOf w
    storeElems w a fun e => ea + e * w.immB.toInt) (settleVe (curCore s) s)

/-- The offsets of VGATH and VSCAT: INT32 under a 32-bit FMT, INT16 under a 16-bit one, read unsigned. -/
def offsetsOf (w : EngW) : Op (List Nat) := do
  let f := intFmtOf w.fmt.toNat
  let b ← readSrc 1 f [f] (isRaw w) 0 w.b
  pure (elemsOf f b)

/-- VGATH (R176). -/
def execVgath (w : EngW) (s : State) : Outcome State Fault Refusal :=
  engWord w.fl (do
    versionCheck w [w.fmt.toNat]
    let o ← offsetsOf w
    let ea ← eaOf w
    loadElems w fun e => ea + (nth o e 0 * elemBytes w.fmt.toNat : Nat)) (settleVe (curCore s) s)

/-- VSCAT (R176). -/
def execVscat (w : EngW) (s : State) : Outcome State Fault Refusal :=
  engWord w.fl (do
    versionCheck w [w.fmt.toNat]
    let a ← srcF w 0 w.a
    let o ← offsetsOf w
    let ea ← eaOf w
    let x := extraRead [w.a, w.b]
    let n ← storeElems w a fun e => ea + (nth o e 0 * elemBytes w.fmt.toNat : Nat)
    pure (n + x)) (settleVe (curCore s) s)

/-! Slots (R177). -/

/-- The runs of bytes that a slot word moves: slot offset, register byte, length. -/
def slotRuns (w : EngW) : List (Nat × Nat × Nat) :=
  let z := w.mod.toNat % 16
  let h := w.mod.toNat / 16 % 2
  let y := w.immA.toNat
  if z = 4 then
    let n := 4 * mxBytes w.fmt.toNat
    [(y * n, 0, n)]
  else
    (upto 8).map fun j =>
      let u := 8 * h + j
      let o := if z = 2 then 64 * (u ^^^ (y % 8)) else if z = 3 then 128 * ((u / 2) ^^^ (y % 8)) + 64 * (u % 2) else 64 * u
      (1024 * y + o, 64 * j, 64)

/-- An enabled ring or tile that an engine word names, waiting for a QCFG (spec/06_scratchpad.md R153). -/
def engDesc (id : Nat) : Op Desc := do
  let s ← gets (fun s => s)
  let d := descOf s (curCore s) id
  waitIf (!d.en) 1 (wd id)
  pure d

/-- The producer check of an engine (reason 2). -/
def engProd (d : Desc) (id kind : Nat) : Op Unit := raiseIf (d.prod != kind && d.prod != 15) tRING (ringVal id 2)
/-- The consumer check of an engine (reason 3). -/
def engCons (d : Desc) (id kind : Nat) : Op Unit := raiseIf (d.cons != kind) tRING (ringVal id 3)

/-- The LASTU of an engine's wait (spec/19_observation.md R407). -/
def noteEngLast (n : Nat) : Op Unit := upd fun s => modSeqr s (curCore s) (curEng s) fun q =>
  match q.waiting with
  | some w => { q with waiting := some { w with lastu := n } }
  | none => q

/-- Wait until the slot at HEAD is full. -/
def engFull (d : Desc) (id : Nat) : Op Unit := do
  let s ← gets (fun s => s)
  waitIf (!headFull s (curCore s) id d) 1 (wd id)
  noteEngLast (sysRead s (curCore s) (hdrOff id d.head + 8) 2)

/-- The fill of a ring or tile that the engine comes to was made before an eclipse: the replay passes it (log 39). -/
def refills (s : State) (id : Nat) : Bool := (seqrOf s (curCore s) (curEng s)).refill.contains id

/-- Wait until the slot at TAIL is empty. -/
def engEmpty (d : Desc) (id : Nat) : Op Unit := do
  let s ← gets (fun s => s)
  if refills s id then pure ()
  else do
  waitIf (!tailEmpty s (curCore s) id d) 1 (wd id)
  noteEngLast (sysRead s (curCore s) (hdrOff id d.tail + 10) 2)

/-- The runs lie within a slot (reason 4). -/
def runsFit (d : Desc) (id : Nat) (l : List (Nat × Nat × Nat)) : Op Unit :=
  raiseIf (l.any fun r => decide (d.slotb < r.1 + r.2.2)) tRING (ringVal id 4)

/-- POISON, TAG and SWZ of a full slot at HEAD (spec/02_numbers.md R37); uncorrectable data first turn its TAG to POISON
(spec/06_scratchpad.md R143). `which` is the operand, `swz` the expected swizzle. -/
def checkSlot (d : Desc) (id which fmt swz : Nat) (raw : Bool) : Op Unit := do
  let s ← gets (fun s => s)
  let c := curCore s
  let base := slotBase d d.head
  if hasBad s (scrKey c base) d.slotb && slotTag s c id d.head / 2^12 != 15 then
    stop (.trapIn (sysWrite s c (hdrOff id d.head + 2) 2 0xF000) tPOISON (wd base))
  else pure ()
  let t := slotTag s c id d.head
  raiseIf (t / 2^12 = 15) tPOISON (wd base)
  raiseIf (!raw && t / 2^12 != fmt) tTAG (wd (t + 2^16 * which + 2^20 * fmt))
  raiseIf (t / 2^8 % 16 != swz) tSWZ (wd (t + 2^16 * which + 2^20 * swz))

/-- VLDT (R177). -/
def execVldt (w : EngW) (s : State) : Outcome State Fault Refusal :=
  engWord w.fl (do
    versionCheck w [w.fmt.toNat]
    let id := w.a.toNat
    let d ← engDesc id
    engCons d id 4
    let runs := slotRuns w
    runsFit d id runs
    engFull d id
    checkSlot d id 0 w.fmt.toNat (w.mod.toNat % 16) (isRaw w)
    let s ← gets (fun s => s)
    let base := slotBase d d.head
    let bits := runs.foldl (fun t r => t + bytesNat (scrBytes s (curCore s) (base + r.1) r.2.1 r.2.2) * 2^(8 * r.2.1)) 0
    let b := elemBytes w.fmt.toNat
    let inc ← includedB w b
    upd fun s => { s with free := s.free + 512 }
    deliver w.d.toNat (BitVec.ofNat 4096 bits) (writeMask (8 * b) 0 inc) w.fmt.toNat 6 true w.fl.q
    pure 0) (settleVe (curCore s) s)

/-- The bytes of a run whose element the mask includes are written. -/
def writeRun (s : State) (c base b : Nat) (x : Nat) (inc : List Bool) (r : Nat × Nat × Nat) : State :=
  let hit := (upto r.2.2).filter fun i => inc.getD ((r.2.1 + i) / b) false
  let s0 := if hit.length = r.2.2 then noteStored s c (base + r.1) r.2.2 else hit.foldl (fun t i => noteStored t c (base + r.1 + i) 1) s
  hit.foldl (fun t i => storeBytes t (scrKey c (base + r.1 + i)) [BitVec.ofNat 8 (x / 2^(8 * (r.2.1 + i)))]) s0

/-- VSTT (R177): the pending tag of the slot is what QPUSHE and SETF record. A slot that the engine has filled before an eclipse is written
by no replay (log 39). -/
def execVstt (w : EngW) (s : State) : Outcome State Fault Refusal :=
  engWord w.fl (do
    versionCheck w [w.fmt.toNat]
    let id := w.d.toNat
    let d ← engDesc id
    engProd d id 4
    let runs := slotRuns w
    runsFit d id runs
    engEmpty d id
    let a ← srcF w 0 w.a
    let b := elemBytes w.fmt.toNat
    let inc ← includedB w b
    let offs := (runs.map fun r =>
      ((upto r.2.2).filter fun i => inc.getD ((r.2.1 + i) / b) false).map fun i => slotBase d d.tail + r.1 + i).flatten
    let s ← gets (fun s => s)
    if refills s id then pure ()
    else do
      noCut offs
      upd fun s =>
        let c := curCore s
        let t := healOffs (runs.foldl (fun u r => writeRun u c (slotBase d d.tail) b a.toNat inc r) (keepSlots c offs s)) c offs
        modVe t c fun v =>
          { v with ptag := tput v.ptag (64 * id + d.tail) (BitVec.ofNat 16 (w.fmt.toNat * 2^12 + w.mod.toNat % 16 * 2^8)) }
    noteStore
    pure 0) (settleVe (curCore s) s)

/-! The transom (R179 to R181). -/

/-- The counters of a transom. -/
def transomOf (s : State) (c id : Nat) : Transom :=
  ⟨id, sysRead s c (descOff id + 16) 2, sysRead s c (descOff id + 18) 2, sysRead s c (descOff id + 20) 2⟩
/-- Write them. -/
def putTransom (s : State) (c : Nat) (t : Transom) : State :=
  sysWrite (sysWrite (sysWrite s c (descOff t.id + 16) 2 t.twr) c (descOff t.id + 18) 2 t.trd) c (descOff t.id + 20) 2 t.tcnt
/-- Its capacity. -/
def transomCap (d : Desc) : Nat := min 4096 (d.depth * d.slotb / 32)

/-- An enabled transom of the VE (R179): reason 1 for a ring or tile that is none, 2 and 3 where the VE is not PROD or not CONS. -/
def transomDesc (id : Nat) : Op Desc := do
  let d ← engDesc id
  raiseIf (!d.transom || decide (16 ≤ id)) tRING (ringVal id 1)
  raiseIf (d.prod != 4) tRING (ringVal id 2)
  engCons d id 4
  pure d

/-- The 32 bytes of an entry. -/
def entryBytes (lane : Nat) (xs : List (List Nat)) : List Byte :=
  natBytes 4 lane ++ (xs.map fun l => natBytes 4 (nth l lane 0)).flatten ++ List.replicate (28 - 4 * xs.length) 0

/-- VDEFER (R180). -/
def execVdefer (w : EngW) (s : State) : Outcome State Fault Refusal :=
  engWord w.fl (do
    let id := w.d.toNat
    let fm := w.fmt.toNat
    let n := w.immA.toNat % 8
    let d ← transomDesc id
    let a ← (if 1 ≤ n then srcF w 0 w.a else pure 0)
    let b ← (if 2 ≤ n then srcF w 1 w.b else pure 0)
    let c ← (if 3 ≤ n then srcF w 2 w.c else pure 0)
    let e ← (if 4 ≤ n then srcF w 3 (w.immB.setWidth 8) else pure 0)
    let inc ← included w 128
    let lanes := ((inc.zip (upto 128)).filter (·.1)).map (·.2)
    let s ← gets (fun s => s)
    let core := curCore s
    let t := transomOf s core id
    let cap := transomCap d
    raiseIf (decide (cap < t.tcnt + tget (curVe s).tfree id 0 + lanes.length)) tRING (ringVal id 8)
    let xs := ([a, b, c, e].take n).map (elemsOf fm)
    upd fun s =>
      let u := (lanes.zip (upto lanes.length)).foldl (fun u p =>
        scrStore u core (d.base + 32 * ((t.twr + p.2) % cap)) (entryBytes p.1 xs)) s
      putTransom u core { t with twr := (t.twr + lanes.length) % cap, tcnt := t.tcnt + lanes.length }
    noteStore
    pure (extraRead ([w.a, w.b, w.c, w.immB.setWidth 8].take n))) (settleVe (curCore s) s)

/-- Deliver one vector of VDRAIN. -/
def drainOut (w : EngW) (d : Nat) (l : List Nat) (fmt : Nat) : Op Unit :=
  deliver d (BitVec.ofNat 4096 (packN 32 l)) (BitVec.allOnes 4096) fmt 6 true w.fl.q

/-- VDRAIN (R181). -/
def execVdrain (w : EngW) (s : State) : Outcome State Fault Refusal :=
  engWord w.fl (do
    let id := w.a.toNat
    let n := w.immA.toNat % 8
    let d ← transomDesc id
    let s ← gets (fun s => s)
    let core := curCore s
    let t := transomOf s core id
    let cap := max 1 (transomCap d)
    let k := min 128 t.tcnt
    let entry (j : Nat) : Nat := d.base + 32 * ((t.trd + j) % cap)
    match (upto k).find? fun j => hasBad s (scrKey core (entry j)) 32 with
    | some j => stop (.trapIn (poisonSlots s core (entry j) 32) tPOISON (wd (entry j)))
    | none => pure ()
    let col (i : Nat) : List Nat := (upto k).map fun j => scrRead s core (d.base + 32 * ((t.trd + j) % cap) + 4 * i) 4
    drainOut w w.d.toNat (col 0) 5
    if 1 ≤ n then drainOut w (w.d.toNat + 1) (col 1) w.fmt.toNat else pure ()
    if 2 ≤ n then drainOut w (w.d.toNat + 2) (col 2) w.fmt.toNat else pure ()
    if 3 ≤ n then drainOut w (w.d.toNat + 3) (col 3) w.fmt.toNat else pure ()
    if 4 ≤ n then drainOut w (w.d.toNat + 4) (col 4) w.fmt.toNat else pure ()
    upd fun s =>
      let u := putTransom s core { t with trd := (t.trd + k) % cap, tcnt := t.tcnt - k }
      modVe u core fun v =>
        { v with
          tfree := tput v.tfree id (tget v.tfree id 0 + k)
          pend := v.pend ++ [{ msk := some 7, bits := BitVec.ofNat 4096 (2^k - 1), wm := BitVec.ofNat 4096 (2^512 - 1),
                               due := s.now + 6, lock := true, q := w.fl.q }] }
    pure 0) (settleVe (curCore s) s)

/-- A 32-bit value in every element of D, as INT32, latency 2. -/
def splat32 (w : EngW) (x : Nat) : Op Unit := do
  let inc ← included w 128
  deliver w.d.toNat (broadcast 5 x) (writeMask 32 0 inc) 5 2 false w.fl.q

/-- VTQRY (R181). -/
def execVtqry (w : EngW) (s : State) : Outcome State Fault Refusal :=
  engWord w.fl (do
    let _ ← transomDesc w.a.toNat
    let s ← gets (fun s => s)
    splat32 w (transomOf s (curCore s) w.a.toNat).tcnt
    pure 0) (settleVe (curCore s) s)

/-! Masks and the mailbox (R183, R184). -/

/-- A mask word over its sources, written in full (R183). -/
def maskOp (w : EngW) (f : MBits → MBits → MBits) (two : Bool) (s : State) : Outcome State Fault Refusal :=
  engWord w.fl (do
    versionCheck w [w.fmt.toNat]
    let a ← readMask (w.a.toNat - 0x60)
    let b ← (if two then readMask (w.b.toNat - 0x60) else pure 0)
    let n := countOf w.fmt.toNat
    deliverMask (w.d.toNat - 0x60) n (f a b).toNat (2^n - 1) 2 w.fl.q
    pure 0) (settleVe (curCore s) s)

/-- MAND (R183). -/
def execMand (w : EngW) (s : State) : Outcome State Fault Refusal := maskOp w (fun a b => a &&& b) true s
/-- MOR (R183). -/
def execMor (w : EngW) (s : State) : Outcome State Fault Refusal := maskOp w (fun a b => a ||| b) true s
/-- MXOR (R183). -/
def execMxor (w : EngW) (s : State) : Outcome State Fault Refusal := maskOp w (fun a b => a ^^^ b) true s
/-- MNOT (R183). -/
def execMnot (w : EngW) (s : State) : Outcome State Fault Refusal := maskOp w (fun a _ => ~~~a) false s

/-- MPOPC (R183). -/
def execMpopc (w : EngW) (s : State) : Outcome State Fault Refusal :=
  engWord w.fl (do
    let a ← readMask (w.a.toNat - 0x60)
    splat32 w ((unpackN 1 128 a.toNat).foldl (· + ·) 0)
    pure 0) (settleVe (curCore s) s)

/-- VMBX, read form (R184). -/
def execVmbxRead (w : EngW) (s : State) : Outcome State Fault Refusal :=
  engWord w.fl (do
    let s ← gets (fun s => s)
    splat32 w (mbxSeen s (curCore s) true (w.immA.toNat % 16)).toNat
    pure 0) (settleVe (curCore s) s)

/-- VMBX, write form (R184): the mailbox changes in the completion cycle, two cycles later. -/
def execVmbxWrite (w : EngW) (s : State) : Outcome State Fault Refusal :=
  engWord w.fl (do
    let a ← srcF w 0 w.a
    upd fun s => modVe s (curCore s) fun v =>
      { v with pend := v.pend ++ [{ mbx := some (w.immA.toNat % 16), bits := a, due := s.now + 2, q := w.fl.q }] }
    pure 0) (settleVe (curCore s) s)

end Sys2Proof.Machine
end

