-- ==== Sys2Proof/Machine/Matrix.lean ====
section
/-! DEFINITION. The matrix engine: K-steps, the coma, drains, commits and its words (spec/09_accumulators.md R200 to R218). -/

namespace Sys2Proof.Machine

open Host (Outcome)

/-- The matrix engine whose word or job runs. -/
def curMe (s : State) : Me := (coreOf s (curCore s)).me

/-- A job of the matrix engine is in progress. -/
def meBusy (m : Me) : Bool := !m.mma.isEmpty || m.drain.isSome || m.load.isSome

/-- Close the banks that MCLRs have due (spec/09_accumulators.md R216, R217). -/
def closeBanks (now : Nat) (m : Me) : Me :=
  let l := (m.closing.filter fun e => decide (e.2 ≤ now)).map fun e => e.1
  if l.isEmpty then m
  else { m with closing := m.closing.filter fun e => decide (now < e.2), banks := m.banks.filter fun b => !l.contains b.1,
                coma := m.coma.filter fun e => !l.contains e.bank }

/-- Write the mailbox writes of MCOMA that are due, and close the banks of MCLRs (spec/09_accumulators.md R216). -/
def settleMe (c : Nat) (s0 : State) : State :=
  let s := modMe s0 c (closeBanks s0.now)
  let m := (coreOf s c).me
  let due := m.mbxPend.filter fun p => decide (p.2.2 ≤ s.now)
  if due.isEmpty then s
  else
    let old : List CsrOld := due.map fun p =>
      ⟨s.now, 0x10 + p.1, 2000 + 2 * c, .me (BitVec.ofNat 7 c), (tget m.mbx p.1 0).setWidth 64⟩
    let t := modMe s c fun m =>
      { m with mbx := due.foldl (fun b p => tput b p.1 p.2.1) m.mbx, mbxPend := m.mbxPend.filter fun p => decide (s.now < p.2.2) }
    { t with csrOld := (s.csrOld.filter fun o => o.cycle = s.now) ++ old }

/-! Gangs and operands (R200 to R202). -/

/-- MX format code of a gang code. -/
def gangFmt (g : Nat) : Nat := 8 + g

/-- Products per position per K-step (R200). -/
def gangK (a b : Nat) : Nat :=
  if a = 2 && b = 2 then 32 else if a = 2 || b = 2 || (a = 1 && b = 1) then 16 else 8

/-- Bytes of an operand slot. -/
def operandBytes (f : Nat) : Nat := 256 * mxBytes f

/-- Block `blk` of row or column `i` of the slot at `base`: its 32 elements and its scale. -/
def operandBlock (s : State) (c base f i blk : Nat) : List Int × Nat :=
  mxSplit f (scrRead s c (base + (4 * i + blk) * mxBytes f) (mxBytes f))

/-- Scales of block `blk` for the 64 rows or columns. -/
def operandScales (s : State) (c base f blk : Nat) : List Nat := (upto 64).map fun i => (operandBlock s c base f i blk).2

/-- The exponent of R205. -/
def stepExp (sa sb fa fb : Nat) (w : Int) : Int := (sa : Int) + sb - 254 - mxF fa - mxF fb - w

/-- The first (block, row, column) whose exponent exceeds 16 (R206). -/
def rangeFail (s : State) (c ba bb fa fb : Nat) (w : Int) : Option (Nat × Nat × Nat) :=
  ((upto 4).filterMap fun blk =>
    let sa := operandScales s c ba fa blk
    let sb := operandScales s c bb fb blk
    ((sa.zip (upto 64)).filterMap fun p =>
      ((sb.zip (upto 64)).filterMap fun q =>
        if p.1 != 0xFF && q.1 != 0xFF && decide (16 < stepExp p.1 q.1 fa fb w) then some (blk, p.2, q.2) else none).head?).head?).head?

/-! The coma (R207, R208). -/

/-- What ComaAdd gives: the entries, a count out of range, or no free entry. -/
inductive ComaRes where
  | ok (l : List ComaE)
  | range
  | full

/-- Add to an existing entry. -/
def comaBump (bank pos : Nat) (carry : Int) (l : List ComaE) : ComaRes :=
  match l with
  | [] => .full
  | e :: r =>
    if e.bank = bank && e.pos = pos then
      (if e.count + carry < -32767 || 32767 < e.count + carry then .range else .ok ({ e with count := e.count + carry } :: r))
    else
      match comaBump bank pos carry r with
      | .ok t => .ok (e :: t)
      | x => x

/-- ComaAdd (R207). -/
def comaAdd (bank pos : Nat) (carry : Int) (l : List ComaE) : ComaRes :=
  if l.any fun e => e.bank = bank && e.pos = pos then comaBump bank pos carry l
  else if carry < -32767 || 32767 < carry then .range
  else if l.length < 2048 then .ok (l ++ [⟨bank, pos, carry⟩])
  else .full

/-- The count of a position. -/
def comaCount (bank pos : Nat) (l : List ComaE) : Int :=
  match l.find? fun e => e.bank = bank && e.pos = pos with
  | some e => e.count
  | none => 0

/-- How a pass over positions ends. -/
inductive PassEnd where
  | done
  | full (pos : Nat)
  | range (pos : Nat)
  deriving DecidableEq, Repr

/-- A 20-bit lane of a sum (R205). -/
def wrap20 (x : Int) : Int := (x + (2^19 : Nat)) % (2^20 : Nat) - (2^19 : Nat)

/-- One K-step over the positions from `start`, in ascending order: `term` is none under a NaN scale (R205). -/
def stepGo (bank start : Nat) (term : Nat → Option Int) (pos : Nat) (lanes : List Int) (poison : List Bool) (coma : List ComaE) :
    List Int × List Bool × List ComaE × PassEnd :=
  match lanes, poison with
  | x :: xs, p :: ps =>
    if pos < start then
      let r := stepGo bank start term (pos + 1) xs ps coma
      (x :: r.1, p :: r.2.1, r.2.2)
    else
      match term pos with
      | none =>
        let r := stepGo bank start term (pos + 1) xs ps coma
        (x :: r.1, true :: r.2.1, r.2.2)
      | some t =>
        let nl := wrap20 (x + t)
        if nl = x + t then
          let r := stepGo bank start term (pos + 1) xs ps coma
          (nl :: r.1, p :: r.2.1, r.2.2)
        else
          match comaAdd bank pos ((x + t - nl) / (2^20 : Nat)) coma with
          | .ok l =>
            let r := stepGo bank start term (pos + 1) xs ps l
            (nl :: r.1, p :: r.2.1, r.2.2)
          | .range => (lanes, poison, coma, .range pos)
          | .full => (lanes, poison, coma, .full pos)
  | _, _ => ([], [], coma, .done)

/-! Banks. -/

/-- A bank, if it is open. -/
def bankOf (m : Me) (n : Nat) : Option Bank := tget? m.banks n
/-- Replace a bank. -/
def putBank (m : Me) (n : Nat) (b : Bank) : Me := { m with banks := tput m.banks n b }
/-- Discard a bank with its coma entries. -/
def dropBank (m : Me) (n : Nat) : Me := { m with banks := tdel m.banks n, coma := m.coma.filter fun e => e.bank != n }
/-- An open bank of zeros. -/
def zeroBank (w : Int) : Bank := { lanes := List.replicate 4096 0, poison := List.replicate 4096 false, w := w }
/-- The entries of the coma with HIGH kept (R216). -/
def putComa (m : Me) (l : List ComaE) : Me := { m with coma := l, high := max m.high l.length }

/-- FDET (R209). -/
def fdet (bank row col why step : Nat) : Nat := bank + 2^2 * row + 2^8 * col + 2^14 * why + 2^16 * step

/-- ACC_OVF and ACC_RANGE (R209): the ME is reset, its retired-pending slots are full again, the launch ends. -/
def accFault (c pc code detail : Nat) (s : State) : State :=
  engFaultAt c .me pc code 0 detail (modMe (unpopSlots s c 3) c fun m => { m with popped := [] })

/-- A full coma waits while the drain of another bank goes on (R208). -/
def comaWaits (m : Me) (bank : Nat) (stopFull : Bool) : Bool :=
  !stopFull && (match m.drain with
    | some d => d.bank != bank
    | none => false)

/-- Pop the slot at HEAD of a ring and remember who popped it (R210, R212). -/
def mePop (c id issueNo : Nat) (s : State) : State :=
  let d := descOf s c id
  modMe (popSlot s c id 3) c fun m => { m with popped := (id, d.head, issueNo) :: m.popped.filter fun p => !(p.1 = id && p.2.1 = d.head) }

/-- Cycles between K-steps: throttling spaces them out (spec/20_host.md R423). -/
def kSpacing (s : State) : Nat := if s.power.thr then 2^s.power.j else 1

/-- An uncorrectable word that a job of the word with number `no` reads (spec/06_scratchpad.md R135): the tag of its full slot turns to POISON, and
the launch ends with it, once the drain of an earlier word has ended (spec/03_encoding.md R60); till then the job, put off by `later`, waits. -/
def mePoison (c pc no off : Nat) (later : Me → Me) (s : State) : State :=
  if (coreOf s c).me.drain.any fun d => decide (d.issueNo < no) then modMe s c later
  else engFaultAt c .me pc tPOISON off 0 (poisonSlots s c off 1)

/-- The first of a list of byte ranges of a scratchpad that holds an uncorrectable word. -/
def firstBad (s : State) (c : Nat) (l : List (Nat × Nat)) : Option Nat :=
  if s.bad.isEmpty then none else (l.find? fun p => hasBad s (scrKey c p.1) p.2).map fun p => p.1

/-- The bytes of block `blk` of the 64 rows or columns of the slot at `base`. -/
def rowBytes (base f blk : Nat) : List (Nat × Nat) := (upto 64).map fun i => (base + (4 * i + blk) * mxBytes f, mxBytes f)

/-- K_STEP: one K-step of the MMA in progress (R205, R208, R217). -/
def execKStep (s : State) : Outcome State Fault Refusal :=
  let c := curCore s
  let m := curMe s
  match m.mma with
  | [] => .next s
  | j :: rest =>
    match bankOf m j.bank with
    | none => .next (modMe s c fun m => { m with mma := rest })
    | some b =>
      let k := gangK j.fa j.fb
      let fa := gangFmt j.fa
      let fb := gangFmt j.fb
      let blk := j.t * k / 32
      let o := j.t * k % 32
      let da := descOf s c j.qa
      let db := descOf s c j.qb
      match firstBad s c (rowBytes (slotBase da j.sa) fa blk ++ rowBytes (slotBase db j.sb) fb blk) with
      | some off => .next (mePoison c j.pc j.issueNo off (fun m => { m with mma := { j with due := s.now + 1 } :: rest }) s)
      | none =>
      let rows := (upto 64).map fun i => operandBlock s c (slotBase da j.sa) fa i blk
      let cols := (upto 64).map fun i => operandBlock s c (slotBase db j.sb) fb i blk
      let term (pos : Nat) : Option Int :=
        let x := rows.getD (pos / 64) ([], 0)
        let y := cols.getD (pos % 64) ([], 0)
        if x.2 = 0xFF || y.2 = 0xFF then none
        else
          let dot := (((x.1.drop o).take k).zipWith (· * ·) ((y.1.drop o).take k)).foldl (· + ·) 0
          let e := stepExp x.2 y.2 fa fb b.w
          some (if e < 0 then dot / (2^(-e).toNat : Nat) else dot * (2^e.toNat : Nat))
      let r := stepGo j.bank j.pos term 0 b.lanes b.poison m.coma
      let t := modMe { s with free := s.free + 2^16 } c fun m =>
        putComa (putBank m j.bank { b with lanes := r.1, poison := r.2.1 }) r.2.2.1
      match r.2.2.2 with
      | .range pos => .next (accFault c j.pc tACCOVF (fdet j.bank (pos / 64) (pos % 64) 0 j.t) t)
      | .full pos =>
        if comaWaits m j.bank j.stopFull then
          .next (modMe t c fun m => { m with mma := { j with pos := pos, due := s.now + 1 } :: rest })
        else .next (accFault c j.pc tACCOVF (fdet j.bank (pos / 64) (pos % 64) 1 j.t) t)
      | .done =>
        if j.t + 1 < 128 / k then
          .next (modMe t c fun m => { m with mma := { j with t := j.t + 1, pos := 0, due := s.now + kSpacing s } :: rest })
        else
          .next (modMe (mePop c j.qb j.issueNo (mePop c j.qa j.issueNo t)) c fun m =>
            { m with mma := rest.map fun x => { x with due := max x.due (s.now + kSpacing s) } })

/-! Drains (R214). -/

/-- The value of a WIDE64 element (spec/02_numbers.md R23): m and W. -/
def wideVal (x : Nat) : Int × Int := (sgn 56 x, sgn 8 (x / 2^56))

/-- An integer times 2^e as a value, zero as +0. -/
def dyadic (x e : Int) : Val := .fin (decide (x < 0)) x.natAbs e false

/-- y of R214 for MDRN. -/
def drainVal (fmt : Nat) (r : Rnd) (alpha : Option Word32) (poison : Bool) (x : Val) : Option Nat :=
  if poison then roundFmt fmt r .nan
  else
    match alpha with
    | none => roundFmt fmt r x
    | some a =>
      let av := f32 a
      let p := vmul av x
      if isNan av then roundFmt fmt r .nan
      else if isZero x then
        match av with
        | .inf _ => roundFmt fmt r .nan
        | _ => roundFmt fmt r (.fin false 0 0 false)
      else if isZero p then roundFmt fmt r (.fin false 0 0 false)
      else roundFmt fmt r p

/-- Bytes of an output element. -/
def drainBytes (wide : Bool) (fmt : Nat) : Nat := if wide then 8 else widthOf fmt / 8

/-- Slot offset of linear byte `l` under a swizzle with rows of 1,024 bytes (spec/02_numbers.md R35). -/
def swzByte (swz l : Nat) : Nat :=
  let y := l / 1024
  let u := l % 1024 / 64
  let v := if swz = 2 then u ^^^ (y % 8) else if swz = 3 then 2 * ((u / 2) ^^^ (y % 8)) + u % 2 else u
  1024 * y + 64 * v + l % 64

/-- Element `pos` of a WIDE64 slot. -/
def wideElem (s : State) (c base swz pos : Nat) : Nat := scrRead s c (base + swzByte swz (8 * pos)) 8
/-- The bytes of row `row` of a WIDE64 slot. -/
def wideBytes (base swz row : Nat) : List (Nat × Nat) := (upto 64).map fun i => (base + swzByte swz (8 * (64 * row + i)), 8)

/-- One output of a drain: its pattern, none for CVT_OVF. -/
def drainElem (s : State) (c : Nat) (j : DrainJob) (b : Bank) (coma : List ComaE) (pos : Nat) : Option Nat :=
  let v := nth b.lanes pos 0 + (2^20 : Nat) * comaCount j.bank pos coma
  if j.wide then some (wrapInt 8 b.w * 2^56 + wrapInt 56 v)
  else
    let x := dyadic v b.w
    let y := match j.addend with
      | none => x
      | some id =>
        let d := descOf s c id
        let a := wideVal (wideElem s c (slotBase d j.addSlot) j.swz pos)
        vadd false x (dyadic a.1 a.2)
    drainVal j.fmt ⟨j.rnd, j.ovf, j.seed, pos + 4096 * j.nth, false⟩ j.alpha (nth b.poison pos false) y

/-- The outputs of a row by their offsets in the slot, or the position of the first that fails. -/
def drainRow (s : State) (c : Nat) (j : DrainJob) (b : Bank) (coma : List ComaE) (fuel pos : Nat) : Except Nat (List (Nat × List Byte)) :=
  match fuel with
  | 0 => .ok []
  | fuel + 1 =>
    match drainElem s c j b coma pos with
    | none => .error pos
    | some x =>
      let n := drainBytes j.wide j.fmt
      match drainRow s c j b coma fuel (pos + 1) with
      | .error p => .error p
      | .ok l => .ok ((swzByte j.swz (n * pos), natBytes n x) :: l)

/-- ROW_FOLD: one row of the drain in progress; its coma entries are freed (R214). -/
def execRowFold (s : State) : Outcome State Fault Refusal :=
  let c := curCore s
  let m := curMe s
  match m.drain with
  | none => .next s
  | some j =>
    match bankOf m j.bank with
    | none => .next (modMe s c fun m => { m with drain := none })
    | some b =>
      match firstBad s c (match j.addend with
        | some id => wideBytes (slotBase (descOf s c id) j.addSlot) j.swz j.row
        | none => []) with
      | some off => .next (mePoison c j.pc j.issueNo off id s)
      | none =>
      match drainRow s c j b m.coma 64 (64 * j.row) with
      | .error pos => .next (engFaultAt c .me j.pc tCVTOVF pos 0 s)
      | .ok l =>
        .next (modMe { s with free := s.free + 1024 } c fun m =>
          { m with
            coma := m.coma.filter fun e => !(e.bank = j.bank && e.pos / 64 = j.row)
            drain := some { j with row := j.row + 1, outs := j.outs ++ l, poisonOut := j.poisonOut || ((b.poison.drop (64 * j.row)).take 64).any id } })

/-- The ME's mark at a commit: the position after the commit word, the slots popped but by later words (R212). It is the launch's final
mark if no word issues after the commit word (spec/08_sequencer.md R191). -/
def commitMark (c : Nat) (j : DrainJob) (s : State) : State :=
  let m := (coreOf s c).me
  let s1 := emptyRetired s c 3 fun id i => !m.popped.any fun p => p.1 = id && p.2.1 = i && decide (j.issueNo < p.2.2)
  let s2 := modMe (modCore s1 c fun k => { k with meMarked := true }) c fun m =>
    { m with
      popped := m.popped.filter fun p => decide (j.issueNo < p.2.2)
      q := { m.q with mark := j.snap, markIdx := m.q.markIdx + 1, ordinal := 0, wdFrom := s.now, wdIdle := 0,
                      fills := m.q.fills.filter (fun p => decide (j.issueNo < p.2)), refill := [],
                      endMarked := match j.snap with
                        | some k => k.issued == m.q.issued
                        | none => false } }
  traceEng c .me 0x02 0 j.pc (launchSeq s c .me) (seqrOf s2 c .me).markIdx.toNat (seqrOf s c .me).lvl 0 s2

/-- COMMIT (R212, R214): the outputs are written and their slot filled, once the slot at TAIL is empty (R143), a ring addend popped, the
mark written, the bank closed. The outputs cover every byte of the slot up to COUNT, so they heal its uncorrectable words and cut none. The tag of a poisoned WIDE64 output keeps no swizzle (log 59). -/
def execCommit (s : State) : Outcome State Fault Refusal :=
  let c := curCore s
  match (curMe s).drain with
  | none => .next s
  | some j =>
    let d := descOf s c j.out
    let tag := if j.poisonOut && j.wide then 0xF000 else (if j.wide then 11 else j.fmt) * 2^12 + j.swz * 2^8
    if !tailEmpty s c j.out d then .next (modMe s c fun m => { m with drain := some { j with start := s.now + 1 - 72 } })
    else
    let n := 4096 * drainBytes j.wide j.fmt
    let o := slotBase d d.tail
    let s0 := healBad (j.outs.foldl (fun t x => storeBytes t (scrKey c (o + x.1)) x.2) (noteStored s c o n)) (scrKey c o) n
    let s1 := fillSlot s0 c j.out tag j.step (3 + 16 * c) n
    let s2 := match j.addend with
      | some id => if id < 16 then mePop c id j.issueNo s1 else s1
      | none => s1
    .next (commitMark c j (modMe s2 c fun m => { dropBank m j.bank with drain := none }))

/-! MACLD (R215). -/

/-- Load the positions from `pos`, `n` of them: lanes and coma. -/
def loadGo (s : State) (c base swz bank : Nat) (n pos : Nat) (lanes : List Int) (coma : List ComaE) :
    List Int × List ComaE × PassEnd :=
  match n with
  | 0 => (lanes, coma, .done)
  | n + 1 =>
    let v := (wideVal (wideElem s c base swz pos)).1
    let l := wrap20 v
    let cnt := (v - l) / (2^20 : Nat)
    if cnt = 0 then loadGo s c base swz bank n (pos + 1) (setNth lanes pos l) coma
    else
      match comaAdd bank pos cnt coma with
      | .ok t => loadGo s c base swz bank n (pos + 1) (setNth lanes pos l) t
      | .range => (lanes, coma, .range pos)
      | .full => (lanes, coma, .full pos)

/-- MACLD_ROW: one row of the load in progress (R215). -/
def execMacldRow (s : State) : Outcome State Fault Refusal :=
  let c := curCore s
  let m := curMe s
  match m.load with
  | none => .next s
  | some j =>
    match bankOf m j.bank with
    | none => .next (modMe s c fun m => { m with load := none })
    | some b =>
      let d := descOf s c j.src
      let from' := if j.pos = 0 then 64 * j.row else j.pos
      match firstBad s c (wideBytes (slotBase d d.head) j.swz j.row) with
      | some off => .next (mePoison c j.pc j.issueNo off (fun m => { m with load := some { j with start := s.now + 1 - (4 + j.row) } }) s)
      | none =>
      let r := loadGo s c (slotBase d d.head) j.swz j.bank (64 * (j.row + 1) - from') from' b.lanes m.coma
      let t := modMe { s with free := s.free + 1024 } c fun m => putComa (putBank m j.bank { b with lanes := r.1 }) r.2.1
      match r.2.2 with
      | .range pos => .next (accFault c j.pc tACCOVF (fdet j.bank (pos / 64) (pos % 64) 3 0) t)
      | .full pos =>
        if comaWaits m j.bank j.stopFull then
          .next (modMe t c fun m => { m with load := some { j with pos := pos, start := s.now + 1 - (4 + j.row) } })
        else .next (accFault c j.pc tACCOVF (fdet j.bank (pos / 64) (pos % 64) 3 0) t)
      | .done =>
        if j.row < 63 then .next (modMe t c fun m => { m with load := some { j with row := j.row + 1, pos := 0 } })
        else
          let u := if j.src < 16 then mePop c j.src j.issueNo t else t
          .next (modMe u c fun m => { m with load := none })

/-! Words (R213 to R216). -/

/-- The words of the engine take effect in issue order: a fault of one is raised once the jobs of earlier words have ended (spec/03_encoding.md
R60, log 60). -/
def inOrder {α : Type} (body : Op α) : Op α := fun s =>
  let busy := meBusy (curMe s)
  match body s with
  | .error (.trap code val) => .error (if busy then .wait 0 0 else .trap code val)
  | .error (.trapIn t code val) => .error (if busy then .wait 0 0 else .trapIn t code val)
  | .error (.left t) => .error (if busy then .wait 0 0 else .left t)
  | r => r

/-- A word of the matrix engine: its number in issue order. -/
def meWord (fl : EFlags) (body : Nat → Op Nat) (s : State) : Outcome State Fault Refusal :=
  engWord fl (do
    let m ← gets curMe
    let n ← inOrder (body m.issueNo)
    upd fun s => modMe s (curCore s) fun m => { m with issueNo := m.issueNo + 1 }
    pure n) (settleMe (curCore s) s)

/-- Wait, one cycle at a time, for earlier words of the engine. -/
def meWait (b : Bool) : Op Unit := waitIf b 0 0

/-- An earlier word other than an MMA acts on bank `n`. -/
def bankHeld (m : Me) (n : Nat) : Bool :=
  (match m.load with | some j => j.bank = n | none => false) || (match m.drain with | some j => j.bank = n | none => false) ||
    m.closing.any fun e => e.1 = n

/-- An earlier word acts on bank `n`. -/
def bankBusy (m : Me) (n : Nat) : Bool := (m.mma.any fun j => j.bank = n) || bankHeld m n

/-- Reason 9 of R210: HEAD is a slot the ME itself holds retired-pending, and no commit issued before this word will empty it. -/
def ownRetired (id : Nat) (d : Desc) : Op Unit := do
  let s ← gets (fun s => s)
  let m := curMe s
  let c := curCore s
  let mine := slotState s c id d.head = 2 && sysRead s c (hdrOff id d.head + 10) 1 % 16 = 3
  let freed := match m.drain with
    | some j => m.popped.any fun p => p.1 = id && p.2.1 = d.head && decide (p.2.2 ≤ j.issueNo)
    | none => false
  raiseIf (mine && !freed) tRING (ringVal id 9)

/-- A ring or tile whose slot an earlier load or drain reads and will pop. -/
def ringHeld (m : Me) (id : Nat) : Bool :=
  (match m.load with | some j => j.src = id | none => false) || (match m.drain with | some j => j.addend == some id | none => false)

/-- Slots of a ring or tile that the MMAs in progress read and will pop. -/
def pendingPops (m : Me) (id : Nat) : Nat :=
  (m.mma.map fun j => (if j.qa = id then 1 else 0) + (if j.qb = id then 1 else 0)).foldl (· + ·) 0

/-- A ring or tile whose slot at HEAD an earlier word of the engine reads. -/
def ringBusy (m : Me) (id : Nat) : Bool := ringHeld m id || pendingPops m id != 0

/-- The descriptor as an MMA finds it: HEAD past the slots that MMAs in progress will pop. -/
def afterPops (m : Me) (id : Nat) (d : Desc) : Desc := { d with head := (d.head + pendingPops m id) % max 1 d.depth }

/-- An MMA waits for the words that read its rings, and for the pop of a slot that it would find again. -/
def operandHeld (m : Me) (id : Nat) (d : Desc) : Bool := ringHeld m id || decide (max 1 d.depth ≤ pendingPops m id)

/-- A pop or fill by the matrix engine waits for the jobs of earlier words that read, or fill, its ring or tile
(spec/06_scratchpad.md R144). -/
def meReads (id : Nat) : Op Unit := do
  let s ← gets (fun s => s)
  let m := curMe s
  meWait (curEng s == .me && (ringBusy m id || (match m.drain with | some j => j.out = id | none => false)))

/-- The K-steps that an MMA in progress has left allow no further MMA yet (R217). -/
def mmaHeld (m : Me) : Bool := m.mma.any fun j => decide (j.t + 3 < 128 / gangK j.fa j.fb)

/-- MMA (R213). -/
def execMma (w : EngW) (s : State) : Outcome State Fault Refusal :=
  meWord w.fl (fun no => do
    let m ← gets curMe
    let c := curCore (← gets (fun s => s))
    let n := w.d.toNat
    let fa := w.fmt.toNat / 4
    let fb := w.fmt.toNat % 4
    let z := w.mod.getLsbD 0
    let wexp := sgn 8 w.immA.toNat
    illopIf (m.q.nbv = 1 && (fa = 1 || fb = 1))
    meWait (mmaHeld m || bankHeld m n)
    let b := bankOf m n
    illopIf (z == b.isSome)
    illopIf (match b with | some x => x.w != wexp | none => false)
    let qa := w.a.toNat
    let qb := w.b.toNat
    let ra ← engDesc qa
    let rb ← engDesc qb
    meWait (operandHeld m qa ra || operandHeld m qb rb)
    let da := afterPops m qa ra
    let db := afterPops m qb rb
    ownRetired qa da
    ownRetired qb db
    engFull da qa
    engFull db qb
    checkSlot da qa 0 (gangFmt fa) 4 false
    checkSlot db qb 1 (gangFmt fb) 4 false
    engCons da qa 3
    engCons db qb 3
    raiseIf (decide (da.slotb < operandBytes (gangFmt fa))) tRING (ringVal qa 4)
    raiseIf (decide (db.slotb < operandBytes (gangFmt fb))) tRING (ringVal qb 4)
    let s ← gets (fun s => s)
    match rangeFail s c (slotBase da da.head) (slotBase db db.head) (gangFmt fa) (gangFmt fb) wexp with
    | some (blk, i, j) => stop (.left (accFault c m.q.pc tRANGE (fdet n i j 2 blk) s))
    | none => do
      upd fun s => modMe s c fun m =>
        { (if z then putBank m n (zeroBank wexp) else m) with
          mma := m.mma ++ [{ bank := n, qa := qa, qb := qb, sa := da.head, sb := db.head, fa := fa, fb := fb,
                             stopFull := m.q.accp || w.mod.getLsbD 1, t := 0, due := s.now + 3, issueNo := no, pc := m.q.pc }] }
      pure (128 / gangK fa fb - 1)) s

/-- The WIDE64 source at HEAD of `id` (R214, R215), field number `which`: EN, consumer, size, full, POISON, TAG and SWZ. -/
def wideSource (id which swz : Nat) : Op Desc := do
  let m ← gets curMe
  meWait (ringBusy m id)
  let d ← engDesc id
  engCons d id 3
  raiseIf (decide (d.slotb < 32768)) tRING (ringVal id 4)
  engFull d id
  checkSlot d id which 11 swz false
  pure d

/-- MDRN and MDRNP (R214): the drain starts at issue, folds row i in cycle c + 4 + i and commits in cycle c + 72. The output is checked
first, then the addend, then the output's slot is awaited (log 59). -/
def drainWord (w : EngW) (wide : Bool) (s : State) : Outcome State Fault Refusal :=
  let c := curCore s
  let r := meWord w.fl (fun no => do
    let m ← gets curMe
    let n := w.a.toNat
    let out := w.d.toNat
    let swz := w.mod.toNat % 16
    illopIf (m.q.nbv = 1 && w.rnd = 5)
    meWait (bankBusy m n || m.drain.isSome || !m.closing.isEmpty)
    illopIf ((bankOf m n).isNone || m.banks.any fun b => b.1 != n)
    let d ← engDesc out
    engProd d out 3
    raiseIf (decide (d.slotb < 4096 * drainBytes wide w.fmt.toNat)) tRING (ringVal out 4)
    let addend := if wide || w.b = 0xFF then none else some w.b.toNat
    let slot ← (match addend with
      | some id => do
        let x ← wideSource id 1 swz
        pure x.head
      | none => pure 0)
    engEmpty d out
    upd fun s => modMe s c fun m =>
      { m with
        drain := some { bank := n, out := out, addend := addend, addSlot := slot, wide := wide, fmt := w.fmt.toNat, rnd := w.rnd.toNat,
                        ovf := w.ovf.toNat, swz := swz, alpha := if w.mod.getLsbD 4 then some (w.immA ++ w.immB) else none,
                        seed := m.k15, nth := m.drains, row := 0, start := s.now, issueNo := no, pc := m.q.pc,
                        step := nth m.q.idx 0 0 }
        drains := if wide then m.drains else m.drains + 1 }
    pure 0) s
  match r with
  | .next t =>
    match (curMe s).drain, (coreOf t c).me.drain with
    | none, some j => .next (modMe t c fun m => { m with drain := some { j with snap := some (markOf t c .me) } })
    | _, _ => .next t
  | x => x

/-- MDRN (R214). -/
def execMdrn (w : EngW) (s : State) : Outcome State Fault Refusal := drainWord w false s
/-- MDRNP (R214). -/
def execMdrnp (w : EngW) (s : State) : Outcome State Fault Refusal := drainWord w true s

/-- The first element of a partial whose exponent is not W (R215). -/
def loadMismatch (s : State) (c base swz : Nat) (wexp : Int) : Option Nat :=
  (upto 4096).find? fun pos => (wideVal (wideElem s c base swz pos)).2 != wexp

/-- MACLD (R215): opens the bank; row i is loaded in cycle c + 4 + i. -/
def execMacld (w : EngW) (s : State) : Outcome State Fault Refusal :=
  meWord w.fl (fun no => do
    let m ← gets curMe
    let s0 ← gets (fun s => s)
    let c := curCore s0
    let n := w.d.toNat
    let src := w.a.toNat
    let swz := nbits w.mod.toNat 2 4
    let wexp := sgn 8 w.immA.toNat
    meWait (bankBusy m n || m.load.isSome)
    illopIf (bankOf m n).isSome
    let d ← wideSource src 0 swz
    let s ← gets (fun s => s)
    match loadMismatch s c (slotBase d d.head) swz wexp with
    | some pos => stop (.left (accFault c m.q.pc tRANGE (fdet n (pos / 64) (pos % 64) 2 0) s))
    | none => do
      upd fun s => modMe { s with free := s.free + 2^15 } c fun m =>
        { putBank m n (zeroBank wexp) with
          load := some { bank := n, src := src, swz := swz, stopFull := m.q.accp || w.mod.getLsbD 1, row := 0, start := s.now,
                         issueNo := no, pc := m.q.pc } }
      pure 0) s

/-- MCLR (R216): the bank is closed in cycle c + 2. -/
def execMclr (w : EngW) (s : State) : Outcome State Fault Refusal :=
  meWord w.fl (fun _ => do
    let m ← gets curMe
    meWait (bankBusy m w.d.toNat)
    upd fun s => modMe s (curCore s) fun m => { m with closing := m.closing ++ [(w.d.toNat, s.now + 2)] }
    pure 0) s

/-- The value of MCOMA (R216). -/
def comaWord (m : Me) : Nat :=
  m.coma.length + 2^12 * m.high + 2^24 * ((upto 4).map fun n => if (bankOf m n).isSome then 2^n else 0).foldl (· + ·) 0

/-- MCOMA (R216): the mailbox is written in cycle c + 2. -/
def execMcoma (w : EngW) (s : State) : Outcome State Fault Refusal :=
  meWord w.fl (fun _ => do
    let m ← gets curMe
    meWait (meBusy m || !m.closing.isEmpty || !m.mbxPend.isEmpty)
    upd fun s => modMe s (curCore s) fun m =>
      { m with
        mbxPend := m.mbxPend ++ [(w.immA.toNat % 16, BitVec.ofNat 32 (comaWord m), s.now + 2)]
        high := if w.immA.getLsbD 4 then m.coma.length else m.high }
    pure 1) s

end Sys2Proof.Machine
end

