-- ==== Sys2Proof/Machine/Seq.lean ====
section
/-! DEFINITION. The sequencer: starting and ending a launch, entering a level, marks of the vector engine, the engine
control words, and the restart from a mark (spec/08_sequencer.md R185 to R198, spec/03_encoding.md R65, R80, R81). -/

namespace Sys2Proof.Machine

open Host (Outcome)

/-! The program image (R80, R81). -/

/-- The program image of a launch: templates by entry, words, length in bytes, the bytes themselves. -/
structure Image where
  tpl : Tab Nat
  words : List Nat
  len : Nat
  bytes : List Byte := []

/-- Split bytes into little-endian numbers of `n` bytes. -/
def chunkNats (n fuel : Nat) (l : List Byte) : List Nat :=
  match fuel with
  | 0 => []
  | fuel + 1 => if l.isEmpty then [] else bytesNat (l.take n) :: chunkNats n fuel (l.drop n)

/-- Number the elements of a list from `i`. -/
def numbered (i : Nat) (l : List Nat) : Tab Nat :=
  match l with
  | [] => []
  | x :: r => (i, x) :: numbered (i + 1) r

/-- A header that R81 refuses: `eng` 1 ME or 2 VE, `last` the last word of level 0. -/
def badHeader (h : List Byte) (eng nbv last : Nat) : Bool :=
  recF h 0 2 = 0 || decide (4096 < recF h 0 2) || decide (63 < recF h 2 1) || recF h 3 1 != nbv || recF h 4 1 != eng ||
    (h.drop 5).any (· != 0) || recF h 0 2 != last + 1

/-- Why a launch does not start. -/
inductive ImageErr where
  | code (c : Nat)
  | walk (reason va : Nat)

/-- Read and check the image of the launch at the head of the queue. -/
def readImage (s : State) (c : Nat) (e : EngSel) (nbv : Nat) : Except ImageErr Image × State :=
  let q := seqrOf s c e
  let va := entryField s c e q.head 8 8
  let p := q.part.toNat
  let last := nbits (entryField s c e q.head 0x20 4) 12 12
  match unitRead s c p va 64 with
  | (.error (.code k, _), t) => (.error (.code k), t)
  | (.error (.walk r, a), t) => (.error (.walk r a), t)
  | (.ok h, t) =>
    if badHeader h (engKind e - 2) nbv last then (.error (.code tILLOP), t)
    else
      let nt := recF h 2 1
      let nw := recF h 0 2
      match unitRead t c p (va + 64) (16 * nt + 4 * nw) with
      | (.error (.code k, _), u) => (.error (.code k), u)
      | (.error (.walk r, a), u) => (.error (.walk r a), u)
      | (.ok b, u) =>
        (.ok ⟨numbered 0 (chunkNats 16 nt (b.take (16 * nt))), chunkNats 4 nw (b.drop (16 * nt)), 64 + 16 * nt + 4 * nw, h ++ b⟩, u)

/-! Starting (R190). -/

/-- A launch that cannot start: ST 4 with its cause, ENGF, the next launch follows. -/
def notStarted (c : Nat) (e : EngSel) (code : Nat) (s : State) : State :=
  let q := seqrOf s c e
  let st := 4 + 2^8 * code
  let va := entryVa s c e q.head
  let x := ctxOfNum (launchField s c e 1 1)
  let s1 := entryWrite s c e q.head 0xFC 4 st
  let s2 := traceEng c e 0x30 1 0 code 0 0 0 s1
  let s3 := traceEng c e 0x03 0 0 (launchSeq s c e) st 0 0 s2
  raiseEngf c e x va (popEntry c e s3)

/-- The constants of a launch, K (R185). -/
def launchK (s : State) (c : Nat) (e : EngSel) : Tab Word32 :=
  (upto 16).map fun i => (i, BitVec.ofNat 32 (launchField s c e (0xB0 + 4 * i) 4))

/-- The engine's own state at a launch start (spec/05_registers.md R131, spec/09_accumulators.md R204), and at a restart from a mark.
DESIGN CHOICE (log 71): HIGH of MCOMA counts afresh after a restart too (spec/09_accumulators.md R216). -/
def clearEngine (c : Nat) (e : EngSel) (s : State) : State :=
  let k := launchK s c e
  match e with
  | .me => modMe s c fun m =>
      { m with banks := [], coma := [], high := 0, mma := [], drain := none, load := none, closing := [], popped := [], issueNo := 0,
               drains := 0, k15 := tget k 15 0, mbxPend := [] }
  | .ve => modVe s c fun v =>
      { v with regs := [], masks := [], k := k, hids := [], hval := [], hnext := 0, pend := [] }

/-- A digest takes its place among those of a partition, ascending and distinct (spec/19_observation.md R414). -/
def insertDigest (x : BitVec 256) (l : List (BitVec 256)) : List (BitVec 256) :=
  match l with
  | [] => [x]
  | y :: r => if x = y then y :: r else if x < y then x :: y :: r else y :: insertDigest x r

/-- A program image that has been loaded is measured. -/
def measureImage (p : Nat) (l : List Byte) (s : State) : State := modPart s p fun q => { q with progs := insertDigest (Config.sm3 l) q.progs }

/-- A launch starts on its image; until its first mark, a restart finds the position and the counters of its start. -/
def startLaunch (c : Nat) (e : EngSel) (img : Image) (s : State) : State :=
  let p := seenPart s (seqrOf s c e).part.toNat
  let s1 := modSeqr s c e fun q =>
    { q with running := true, heldImage := false, nbv := p.nbv.toNat, check := p.mode.getLsbD 0, accp := p.mode.getLsbD 1,
             issuer := ctxOfNum (launchField s c e 1 1), words := img.words, tpl := img.tpl, tplSrc := [],
             idx := [0, 0, 0, 0, 0, 0], trip := [0, 0, 0, 0, 0, 0], lvl := 0, pc := 0, phase := .entry,
             ready := max q.ready (s.now + 16 + (img.len + 255) / 256), waiting := none, markIdx := 0, ordinal := 0, mark := none,
             emask := 0, issued := [], wdFrom := s.now, wdIdle := 0, endMarked := false, fills := [], refill := [], undo := [] }
  let s2 := clearEngine c e s1
  let m := markOf s2 c e
  traceEng c e 0x01 0 0 (launchSeq s c e) (entryVa s c e (seqrOf s c e).head).toNat (engKind e) 0
    (measureImage (seqrOf s c e).part.toNat img.bytes (modSeqr s2 c e fun q => { q with mark := some m }))

/-- The issuer of the head entry has an ENGF pending from this engine (spec/18_recovery.md R400). -/
def engfPending (s : State) (c : Nat) (e : EngSel) : Bool :=
  let y := ctxOf s c (ctxOfNum (launchField s c e 1 1))
  match e with
  | .me => y.engfMe.isSome
  | .ve => y.engfVe.isSome

/-- LAUNCH_START of the running engine (R190). -/
def execLaunchStart (s : State) : Outcome State Fault Refusal :=
  let c := curCore s
  let e := curEng s
  let q := seqrOf s c e
  if q.running || q.heldImage then .next s
  else if !q.puts.isEmpty then .next (flushPuts c e 64 s)
  else if q.count = 0 || engfPending s c e then .next s
  else
    match entryPut s c e q.head 0xFC 4 1 with
    | (some (.walk r, a), t) => .next (engHold c e a true r t)
    | (some (.code k, _), t) => .next (notStarted c e k t)
    | (none, s1) =>
      match readImage s1 c e (seenPart s q.part.toNat).nbv.toNat with
      | (.ok img, t) => .next (startLaunch c e img t)
      | (.error (.code k), t) => .next (notStarted c e k t)
      | (.error (.walk r va), t) => .next (engHold c e va false r t)

/-! Levels and marks (R193, R194, R197). -/

/-- The mailbox value that a trip count reads: an MTC of this cycle is not seen (R193). -/
def tripMbx (s : State) (c : Nat) (e : EngSel) (n : Nat) : Nat :=
  let g := 2000 + 2 * c + (e == .ve).toNat
  match s.csrOld.find? fun o => o.cycle = s.now && o.num = 0x10 + n && o.group = g && o.writer != engAgent c e with
  | some o => o.old.toNat % 2^32
  | none => (mbxRead s c (e == .ve) n).toNat

/-- Writes of the engine to its mailboxes that are still in flight: the cycle in which the last is performed. -/
def mbxDue (s : State) (c : Nat) (e : EngSel) : Nat :=
  match e with
  | .me => ((coreOf s c).me.mbxPend.map fun p => p.2.2).foldl max 0
  | .ve => (((coreOf s c).ve.pend.filter fun p => p.mbx.isSome).map fun p => p.due).foldl max 0

/-- Write the results of an engine that are due. -/
def settleEng (c : Nat) (e : EngSel) (s : State) : State :=
  match e with
  | .me => settleMe c s
  | .ve => settleVe c s

/-- LEVEL_ENTRY: the trip count is read once the engine's mailbox writes have completed; trip 0 skips the level (R193, R194). -/
def execLevelEntry (s : State) : Outcome State Fault Refusal :=
  let c := curCore s
  let e := curEng s
  let q := seqrOf s c e
  if !q.running || q.phase != .entry then .next s
  else
    let due := mbxDue s c e
    if s.now < due then .next (modSeqr s c e fun q => { q with ready := due })
    else
      let t := settleEng c e s
      let raw := launchField s c e (0x10 + 2 * q.lvl) 2
      let trip := if raw / 2^15 = 1 then tripMbx t c e (raw % 16) else raw
      let lv := lvlsOf s c e
      .next (seek c e (modSeqr t c e fun q =>
        let q1 := { q with trip := setNth q.trip q.lvl trip, idx := setNth q.idx q.lvl 0 }
        if trip = 0 then leaveLvl lv q1 else { q1 with pc := (nth lv q.lvl noLvl).first, phase := .body }))

/-- The cycle by which every word of the engine has completed and every scratchpad write is performed; none while a job goes on. -/
def quietEng (s : State) (c : Nat) (e : EngSel) : Option Nat :=
  match e with
  | .me =>
    let m := (coreOf s c).me
    if meBusy m then none else some ((m.closing.map fun e => e.2).foldl max (mbxDue s c .me))
  | .ve =>
    let v := (coreOf s c).ve
    some (max v.memDue (((v.pend.map fun p => p.due) ++ (v.tabDue.map fun p => p.2)).foldl max 0))

/-- Go on in a later cycle if the engine is not quiet, else with the state in which every result is written. -/
def whenQuiet (c : Nat) (e : EngSel) (s : State) (f : State → State) : State :=
  match quietEng s c e with
  | none => modSeqr s c e fun q => { q with ready := s.now + 1 }
  | some t => if s.now < t then modSeqr s c e fun q => { q with ready := t } else f (settleEng c e s)

/-- ITERATION_MARK: the vector engine's mark at the end of an iteration of level 0 or 1 (R197). -/
def execIterationMark (s : State) : Outcome State Fault Refusal :=
  let c := curCore s
  let e := curEng s
  let q := seqrOf s c e
  if !q.running || q.phase != .mark then .next s
  else
    .next (whenQuiet c e s fun t =>
      let lv := lvlsOf t c e
      let u := modSeqr t c e (iterNext lv)
      let v := modSeqr u c e fun q => { q with endMarked := q.phase == .finish }
      seek c e (markEng c e (fun _ _ => true) v))

/-! The end of a launch (R191). -/

/-- The keyed update of an engine (R195, spec/12_semaphores.md R268). -/
def engineKeyed (c : Nat) (e : EngSel) (idx : Nat) (delta : Nat) (s : State) : State :=
  let q := seqrOf s c e
  let u : EngineUpdate :=
    { die := BitVec.ofNat 2 (dieOfCore c), engine := engKind e + 16 * c, record := launchField s c e 2 2, mark := q.markIdx,
      ordinal := q.ordinal, index := BitVec.ofNat 16 idx, delta := (delta : Nat), last := BitVec.ofNat 32 (engKind e + 16 * c) }
  { modSeqr s c e fun q => { q with ordinal := q.ordinal + 1 } with
    events := s.events ++ [⟨engAgent c e, some (.hssEngineUpdate u)⟩] }

/-- The final mark, unless the last word's mark is it; the banks and the coma of an ME are released. -/
def finalMark (c : Nat) (e : EngSel) (s : State) : State :=
  let s1 := match e with
    | .me => modMe s c fun m => { m with banks := [], coma := [], popped := [] }
    | .ve => s
  if (seqrOf s c e).endMarked then s1 else modSeqr (markEng c e (fun _ _ => true) s1) c e fun q => { q with endMarked := true }

/-- The completion actions in their order: final mark, ST 2, COMPL, the interrupt. The write of ST 2 to the record is held at a walk fault; a
refused one is an engine fault. -/
def completeLaunch (c : Nat) (e : EngSel) (s : State) : State :=
  let q := seqrOf s c e
  match entryPut (finalMark c e s) c e q.head 0xFC 4 2 with
  | (some (.walk r, a), t) => engHold c e a true r t
  | (some (.code k, a), t) => engFaultAt c e q.pc k a 0 t
  | (none, s3) =>
  let compl := launchField s c e 0xF8 2
  let s4 := if nbits compl 2 1 = 1 then
      engineKeyed c e (launchField s c e (0xF0 + 2 * (compl % 4)) 2) (nbits compl 8 8) s3
    else s3
  let va := entryVa s c e q.head
  let s5 := if nbits (launchField s c e 0 1) 5 1 = 1 then
      raiseUi c (ctxOfNum (launchField s c e 1 1)) va (engKind e - 1) 2 s4
    else s4
  popEntry c e (traceEng c e 0x03 0 0 (launchSeq s c e) 2 0 0 s5)

/-- LAUNCH_END (R191). -/
def execLaunchEnd (s : State) : Outcome State Fault Refusal :=
  let c := curCore s
  let e := curEng s
  let q := seqrOf s c e
  if !q.running || q.phase != .finish || q.heldImage then .next s else .next (whenQuiet c e s (completeLaunch c e))

/-! Engine control words (R195, R196). -/

/-- A control word of the running engine: its fault in the matrix engine waits for the jobs of earlier words (spec/03_encoding.md R60). -/
def ecOrder {α : Type} (body : Op α) : Op α := fun s => if curEng s == .me then inOrder body s else body s

/-- A control word of the running engine. -/
def ecWord (fl : EFlags) (body : Op Unit) (s : State) : Outcome State Fault Refusal :=
  engWord fl (do
    ecOrder body
    pure 0) (settleEng (curCore s) (curEng s) s)

/-- Wait until the running engine is quiet. -/
def engQuiet : Op Unit := do
  let s ← gets (fun s => s)
  match quietEng s (curCore s) (curEng s) with
  | none => stop (.wait 0 0)
  | some t => if s.now < t then stop (.till t) else upd (settleEng (curCore s) (curEng s))

/-- ENOP. -/
def execEnop (w : EFlags) (s : State) : Outcome State Fault Refusal := ecWord w (pure ()) s

/-- EFENCE (R195). -/
def execEfence (w : EFlags) (s : State) : Outcome State Fault Refusal := ecWord w engQuiet s

/-- EEND: no later word issues (R195). -/
def execEend (w : EFlags) (s : State) : Outcome State Fault Refusal :=
  ecWord w (upd fun s => modSeqr s (curCore s) (curEng s) fun q => { q with phase := .finish }) s

/-- EMARK: the mark follows every earlier word, and stands at the position after it (R195, R197). -/
def execEmark (w : EmarkW) (s : State) : Outcome State Fault Refusal :=
  let c := curCore s
  let e := curEng s
  match (do ecOrder (illopIf (e == .me)); engQuiet : Op Unit) s with
  | .error x => .next (engStopped c e x s)
  | .ok (_, t) =>
    .next (markEng c e (fun _ _ => true) (engDone w.fl 0 c e (modSeqr t c e fun q => { q with emask := w.m })))

/-- WAITF (R195). -/
def execWaitf (w : EIdW) (s : State) : Outcome State Fault Refusal :=
  ecWord w.fl (do
    let d ← engDesc w.i.toNat
    engFull d w.i.toNat) s

/-- WAITE (R195). -/
def execWaite (w : EIdW) (s : State) : Outcome State Fault Refusal :=
  ecWord w.fl (do
    let d ← engDesc w.i.toNat
    engEmpty d w.i.toNat) s

/-- A fill made before an eclipse is passed by the replay; another is noted as made since the mark (log 39). -/
def noteFill (c : Nat) (e : EngSel) (id : Nat) (s : State) : State :=
  let no := match e with
    | .me => (coreOf s c).me.issueNo
    | .ve => 0
  let d := descOf s c id
  modSeqr s c e fun q => { q with fills := q.fills ++ [(id, no)], refill := q.refill.erase id, undo := tdel q.undo (slotBase d d.tail) }

/-- Fill a tile or the slot at TAIL (R195). Under Cretus-1 no fill declares a format that it does not have (spec/02_numbers.md R44). DESIGN
CHOICE (log 80): a ring that is a transom is filled as any ring; R179 of spec/07_vector.md says that its headers stay empty, and no rule
refuses the fill. DEDUCED (log 39): each fill since the mark takes effect once; a replay passes it. -/
def engFill (id : Nat) (ring : Bool) : Op Unit := do
  raiseIf (decide (id < 16) != ring) tRING (ringVal id 1)
  let s ← gets (fun s => s)
  let c := curCore s
  let e := curEng s
  let d ← engDesc id
  engProd d id (engKind e)
  meReads id
  engEmpty d id
  let tag := (tget (curVe s).ptag (64 * id + d.tail) 0).toNat
  illopIf ((seqrOf s c e).nbv = 1 && (tag / 2^12 = 3 || tag / 2^12 = 4 || tag / 2^12 = 9))
  upd fun s =>
    let t := noteFill c e id s
    if refills s id then t else fillSlot t c id tag (nth (seqrOf s c e).idx 0 0) (engKind e + 16 * c) d.slotb

/-- Pop a tile or the slot at HEAD (R195). -/
def engPop (id : Nat) (ring : Bool) : Op Unit := do
  raiseIf (decide (id < 16) != ring) tRING (ringVal id 1)
  let s ← gets (fun s => s)
  let c := curCore s
  let e := curEng s
  let d ← engDesc id
  engCons d id (engKind e)
  meReads id
  engFull d id
  upd fun s =>
    match e with
    | .ve => popSlot s c id 4
    | .me => mePop c id (coreOf s c).me.issueNo s

/-- SETF (R195). -/
def execSetf (w : EIdW) (s : State) : Outcome State Fault Refusal := ecWord w.fl (engFill w.i.toNat false) s
/-- SETE (R195). -/
def execSete (w : EIdW) (s : State) : Outcome State Fault Refusal := ecWord w.fl (engPop w.i.toNat false) s
/-- QPOPE (R195). -/
def execQpope (w : EIdW) (s : State) : Outcome State Fault Refusal := ecWord w.fl (engPop w.i.toNat true) s
/-- QPUSHE (R195). -/
def execQpushe (w : EIdW) (s : State) : Outcome State Fault Refusal := ecWord w.fl (engFill w.i.toNat true) s

/-- Wait until the engine's scratchpad writes are performed. -/
def engWritesDone : Op Unit := do
  let s ← gets (fun s => s)
  match curEng s with
  | .me => if (coreOf s (curCore s)).me.drain.isSome then stop (.wait 0 0) else pure ()
  | .ve => if s.now < (curVe s).memDue then stop (.till (curVe s).memDue) else pure ()

/-- ESEM (R195): a keyed update; the 256th between two marks is refused. -/
def execEsem (w : EsemW) (s : State) : Outcome State Fault Refusal :=
  ecWord w.fl (do
    engWritesDone
    let s ← gets (fun s => s)
    let c := curCore s
    let e := curEng s
    let q := seqrOf s c e
    let idx := launchField s c e (0xF0 + 2 * (w.e.toNat % 4)) 2
    if w.d = 0 then pure ()
    else do
      illopIf (decide (255 ≤ q.ordinal))
      raiseFreeIf (!hssInRange s q.part.toNat idx) tPROT
      raiseFreeIf (hssPoisoned s (dieOfCore c) idx) tPOISON
      upd (engineKeyed c e idx w.d.toNat)) s

/-- TPLD (R195): 16 bytes at ix0 into a template entry. -/
def execTpld (w : TpldW) (s : State) : Outcome State Fault Refusal :=
  ecWord w.fl (do
    let s ← gets (fun s => s)
    let c := curCore s
    let e := curEng s
    let o := streamVal s c e 0
    checkAcc o 16 16 false
    let v := scrRead s c o 16
    upd fun s => modSeqr { s with free := s.free + 16 } c e fun q =>
      { q with tpl := tput q.tpl w.e.toNat v, tplSrc := tput q.tplSrc w.e.toNat o }) s

/-- An exit from level `v` (R196): the position after the level's iteration, the squashable words in flight killed. -/
def exitLevel (c v : Nat) (s : State) : State :=
  let lv := lvlsOf s c .ve
  let t := modSeqr (modVe s c fun x => { x with pend := x.pend.filter fun p => !(p.q && decide (s.now < p.due)) }) c .ve fun q =>
    { q with idx := (upto 6).map (fun l => if l < v then nth q.idx l 0 else if l = v then nth q.trip v 0 - 1 else 0),
             lvl := v, pc := (nth lv v noLvl).last + 1 }
  seek c .ve t

/-- LEXIT (R196). -/
def execLexit (w : LexitW) (s : State) : Outcome State Fault Refusal :=
  let c := curCore s
  let e := curEng s
  let s0 := settleEng c e s
  match (do
    ecOrder (illopIf (e == .me))
    let q ← curSeqr
    illopIf (decide (q.lvl < w.v.toNat))
    readMask w.m.toNat : Op MBits) s0 with
  | .error x => .next (engStopped c e x s0)
  | .ok (m, t) =>
    if (if w.y then m != 0 else m == 0) then
      .next (exitLevel c w.v.toNat (modSeqr (endEngWait c e t) c e fun q =>
        { q with ready := s.now + max 3 (1 + w.fl.st.toNat), endMarked := false,
                 issued := tput q.issued q.pc (tget q.issued q.pc 0 + 1) }))
    else .next (engDone w.fl 0 c e t)

/-! Fetching an engine's next word. -/

/-- The instruction of a P-word under a template table: its template patched (R62), or its control word (R65); none is ILLOP. -/
def decodePword (e : EngSel) (tpl : Tab Nat) (w : Nat) : Option Instr :=
  if fld w 26 6 = 63 then decodeEc w
  else
    match tget? tpl (fld w 26 6) with
    | none => none
    | some t =>
      match patchTpl t (fld w 22 4) (fld w 6 16) with
      | none => none
      | some x =>
        match e with
        | .me => decodeMe x (efl w)
        | .ve => decodeVe x (efl w)

/-- The row that an engine does next: the start of a launch, an entry, a mark, the end, or a word; none for a word that raises
ILLOP (R71). -/
def engRow (s : State) (c : Nat) (e : EngSel) : Option Instr :=
  let q := seqrOf s c e
  if !q.running then some .launchStart
  else
    match q.phase with
    | .entry => some .levelEntry
    | .mark => some .iterationMark
    | .finish => some .launchEnd
    | .body => decodePword e q.tpl (engPword s c e)

/-- An engine word that does not decode is an engine fault (R71); in the matrix engine it waits for the jobs of earlier words
(spec/03_encoding.md R60). -/
def engIllop (c : Nat) (e : EngSel) (s : State) : State :=
  if e == .me && meBusy (coreOf s c).me then engBlock c e 0 0 s else engFault c e tILLOP (engPword s c e) 0 s

/-! Restart (R198, spec/18_recovery.md R385, R386). -/

/-- Read the templates that TPLD loaded again. -/
def replayTpl (s : State) (c : Nat) (l : Tab Nat) (tpl : Tab Nat) : Tab Nat :=
  l.foldl (fun t e => tput t e.1 (scrRead s c e.2 16)) tpl

/-- What an engine wrote into output slots that it has not filled is discarded (R385). -/
def undoStores (c : Nat) (e : EngSel) (s : State) : State :=
  let l := (seqrOf s c e).undo
  if l.isEmpty then s
  else modSeqr { s with mem := l.foldl (fun m x => x.2.2.foldl (fun m y => bput m y.1 y.2)
      (m.filter fun y => !(decide (scrKey c x.1 ≤ y.1) && decide (y.1 < scrKey c x.1 + x.2.1)))) s.mem } c e fun q => { q with undo := [] }

/-- The engine's registers as a mark holds them; without a mark as at the start of the launch. -/
def restoreRegs (c : Nat) (e : EngSel) (m : Option EMark) (s : State) : State :=
  let s1 := unpopSlots (clearEngine c e (undoStores c e s)) c (engKind e)
  match e with
  | .me => modMe s1 c fun x => { x with drains := match m with
      | some k => k.drains
      | none => 0 }
  | .ve =>
    match m with
    | none => modVe s1 c fun v => { v with tfree := [] }
    | some k => (k.transoms.foldl (fun t x => putTransom t c x) s1 |> fun t =>
        modVe t c fun v => { v with regs := k.wregs, masks := k.masks, ptag := k.ptag, tfree := [] })

/-- The fills since the mark that a replay passes: those that it has made, or passed, and those that it had still to pass. -/
def toRefill (q : Seqr) : List Nat := (q.fills.map fun p => p.1) ++ q.refill

/-- Restart a running launch from its last mark: image and K again where they can be read (log 23), the loop state, the
templates that TPLD loaded, the saved registers. A mark of the ME that follows every word stays the launch's final mark (R191). -/
def restartEngine (c : Nat) (e : EngSel) (s : State) : State :=
  let q := seqrOf s c e
  if !q.running then s
  else
    let img := match readImage s c e q.nbv with
      | (.ok i, _) => i
      | (.error _, _) => ⟨q.tpl, q.words, 0, []⟩
    let s1 := restoreRegs c e q.mark s
    match q.mark with
    | none => modSeqr s1 c e fun q =>
        { q with words := img.words, tpl := img.tpl, tplSrc := [], idx := [0, 0, 0, 0, 0, 0], trip := [0, 0, 0, 0, 0, 0], lvl := 0,
                 pc := 0, phase := .entry, ready := s.now + 1, waiting := none, ordinal := 0, emask := 0, issued := [],
                 endMarked := false, wdFrom := s.now, wdIdle := 0, fills := [], refill := toRefill q }
    | some k => modSeqr s1 c e fun q =>
        { q with words := img.words, tpl := replayTpl s1 c k.tplSrc img.tpl, tplSrc := k.tplSrc, idx := k.idx, trip := k.trip,
                 lvl := k.lvl, pc := k.pc, phase := k.phase, ready := s.now + 1, waiting := none, ordinal := 0, emask := k.emask,
                 issued := k.issued, endMarked := k.phase == .finish || (e == .me && q.markIdx != 0), wdFrom := s.now, wdIdle := 0,
                 fills := [], refill := toRefill q }

end Sys2Proof.Machine
end

