-- ==== Sys2Proof/Machine/Copy.lean ====
section
/-! DEFINITION. Copy queues, CPY and the copy engine (spec/13_copy.md R280 to R299). -/

namespace Sys2Proof.Machine

open Host (Outcome)

/-! Queues. -/

/-- The copy engine of a core. -/
def ceOf (s : State) (c : Nat) : Ce := (coreOf s c).ce
/-- Change a copy engine. -/
def modCe (s : State) (c : Nat) (f : Ce → Ce) : State := modCore s c fun k => { k with ce := f k.ce }
/-- The running packet. -/
def setJob (s : State) (c : Nat) (j : Option CopyJob) : State := modCe s c fun e => { e with job := j }

/-- The fields of a queue descriptor (R280). -/
structure QDesc where
  base : Nat
  logn : Nat
  part : Nat
  widx : Nat
  ridx : Nat
  knock : Nat

/-- A descriptor's fields from its bytes. -/
def qDescOf (l : List Byte) : QDesc := ⟨recF l 0 8, recF l 8 1, recF l 9 1, recF l 0x10 8, recF l 0x18 8, recF l 0x20 8⟩

/-- The VA of the entry for index `i`. -/
def QDesc.entry (d : QDesc) (i : Nat) : Nat := d.base + 64 * (i % 2^d.logn)
/-- Indices claimed and not served. -/
def QDesc.used (d : QDesc) : Nat := (d.widx + 2^64 - d.ridx) % 2^64

/-! CPY (R283). -/

/-- The registered queue that a CPY names. -/
def cpyQueue (s : State) (sel : Nat) : Option CopyQ := tget? (ceOf s (nbits sel 0 7)).slots (nbits sel 7 4)

/-- A refused access of the word: a walk fault enters the fault queue, or waits where that is full (spec/10_pages.md R229, R230); then
the trap, with the VA. -/
def cpyRefused {α : Type} (t : State) (p : Nat) (write : Bool) (e : UErr) (a : Nat) : Op α :=
  match e with
  | .code k => stop (.trapIn t k (wd a))
  | .walk r =>
    wordHold t (dieOfCore (curCore t)) p a write r (ctxNum (curSel t)) (curCore t)

/-- A claim acts at the descriptor's home: the die's copies of its lines are dropped first (R281). -/
def homeTgt (core p : Nat) : Resolver := fun s need va k =>
  match servedTgt core p s need va k with
  | (.ok (.phys pa pte), t) =>
    (.ok (.phys pa pte), if copyable (dieOfCore core) pa pte then dropL2 t (dieOfCore core) (pa / 128) else t)
  | r => r

/-- Read for the issuing core in partition `p`, at the home. -/
def cpyRead (p va n : Nat) : Op (List Byte) := do
  let s ← gets (fun s => s)
  match readVia (homeTgt (curCore s) p) (n / 64 + 2) s (curCore s) va n with
  | (.ok l, t) => do
    upd fun _ => t
    pure l
  | (.error (e, a), t) => cpyRefused t p false e a

/-- A write of the issuing core that would be refused: the word has no effect (spec/18_recovery.md R399). -/
def cpyCheck (p va n : Nat) : Op Unit := do
  let s ← gets (fun s => s)
  match probeVia (servedTgt (curCore s) p) (n / 64 + 2) s va n with
  | (none, t) => upd fun _ => t
  | (some (e, a), t) => cpyRefused t p true e a

/-- Write for the issuing core. -/
def cpyWrite (p va : Nat) (l : List Byte) : Op Unit := do
  let s ← gets (fun s => s)
  match unitWrite s (curCore s) p va l with
  | (none, t) => upd fun _ => t
  | (some (e, a), t) => cpyRefused t p true e a

/-- The packet as CPY writes it: STATUS and MARK zero, CTX, SEQ. -/
def cpyPacket (img : List Byte) (ctx w : Nat) : List Byte :=
  (img.take 2) ++ [0, 0] ++ natBytes 4 w ++ ((img.drop 8).take 0x2C) ++ [0, 0, 0, 0] ++ ((img.drop 0x38).take 7) ++ [BitVec.ofNat 8 ctx]

/-- CPY (R283), a logged word. -/
def execCpy (w : D3W) (s : State) : Outcome State Fault Refusal :=
  loggedWord w.st 0x23 0 (some (w.d.toNat, Config.latHome, true)) (do
    operands [w.a.toNat, w.b.toNat] [w.d.toNat]
    let sel ← gr w.a.toNat
    let img ← gr w.b.toNat
    raiseIf (fieldOf sel 11 53 != 0) tPROT sel
    raiseIf (img.toNat % 64 != 0) tALIGN img
    let s0 ← gets (fun s => s)
    let p := curPart s0
    match cpyQueue s0 sel.toNat with
    | none => raise tPROT sel
    | some q => do
      raiseIf (q.part.toNat != p) tPROT sel
      needEntry
      let x ← withVal img (ctxRead64 img)
      let pk := natBytes 64 x
      raiseIf (recF pk 1 1 % 2 = 1 && fieldOf sel 0 7 != curCore s0) tPROT img
      waitQuiet
      releaseAt 3
      let d := qDescOf (← cpyRead p q.desc.toNat 64)
      if decide (2^d.logn ≤ d.used) then pure (BitVec.allOnes 64)
      else do
        cpyCheck p (q.desc.toNat + 0x10) 8
        cpyCheck p (d.entry d.widx) 64
        cpyCheck p (q.desc.toNat + 0x20) 8
        cpyWrite p (q.desc.toNat + 0x10) (natBytes 8 (d.widx + 1))
        cpyWrite p (d.entry d.widx) (cpyPacket pk (ctxNum (curSel s0)) d.widx)
        cpyWrite p (q.desc.toNat + 0x20) (natBytes 8 (d.widx + 1))
        holdEntry Config.latHome
        upd fun s => modCur s fun x =>
          { x with engOut := x.engOut ++ [.copy (BitVec.ofNat 7 (nbits sel.toNat 0 7)) (BitVec.ofNat 4 (nbits sel.toNat 7 4))
                                              (BitVec.ofNat 32 d.widx)] }
        pure (wd d.widx)) s

/-! Readiness (R281, R282). -/

/-- Look at the packet at RIDX of a queue: the descriptor and whether the packet is ready, with the state after the reads. -/
def queueLook (s : State) (c : Nat) (q : CopyQ) : Except (UErr × Nat) (Option QDesc) × State :=
  match unitRead s c q.part.toNat q.desc.toNat 64 with
  | (.error e, t) => (.error e, t)
  | (.ok l, t) =>
    let d := qDescOf l
    if d.used = 0 then (.ok none, t)
    else
      match unitRead t c q.part.toNat (d.entry d.ridx) 64 with
      | (.error e, u) => (.error e, u)
      | (.ok b, u) => (.ok (if recF b 4 4 = d.ridx % 2^32 then some d else none), u)

/-- The descriptor of a queue whose packet at RIDX is ready; none while an examination of it is held, or its packet is away. -/
def queueReady (s : State) (c : Nat) (q : CopyQ) : Option QDesc :=
  if q.held || q.away then none
  else
    match (queueLook s c q).1 with
    | .ok d => d
    | .error _ => none

/-- The queue slots in rotating order after the one served last. -/
def rotation (last : Nat) : List Nat := (upto 16).map fun i => (last + 1 + i) % 16

/-- The next queue whose packet is ready; with `knocked`, only packets that a producer has announced. -/
def nextReady (s : State) (c : Nat) (knocked : Bool) : Option (Nat × CopyQ × QDesc) :=
  ((rotation (ceOf s c).last).filterMap fun n =>
    match tget? (ceOf s c).slots n with
    | none => none
    | some q =>
      match queueReady s c q with
      | none => none
      | some d => if !knocked || decide (d.ridx < d.knock) then some (n, q, d) else none).head?

/-! Packets (R284 to R294). -/

/-- A field of the running packet. -/
def CopyJob.f (j : CopyJob) (off n : Nat) : Nat := recF j.pkt off n
/-- KIND. -/
def CopyJob.kind (j : CopyJob) : Nat := j.f 0 1
/-- A flag: 0 IRQ, 1 SHUT, 2 REMOTE, 3 PFONLY, 4 SLOT, 5 BARV. -/
def CopyJob.flag (j : CopyJob) (n : Nat) : Bool := nbits (j.f 1 1) n 1 = 1
def CopyJob.saddr (j : CopyJob) : Nat := j.f 8 8
def CopyJob.daddr (j : CopyJob) : Nat := j.f 0x10 8
def CopyJob.len0 (j : CopyJob) : Nat := j.f 0x18 4
/-- LEN1 and LEN2; LIN acts with 1 (R287). -/
def CopyJob.len1 (j : CopyJob) : Nat := if j.kind = 1 then 1 else j.f 0x1C 2
def CopyJob.len2 (j : CopyJob) : Nat := if j.kind = 1 then 1 else j.f 0x1E 2
/-- Strides: 0 SSTR1, 1 DSTR1, 2 SSTR2, 3 DSTR2. -/
def CopyJob.str (j : CopyJob) (n : Nat) : Int := sgn 32 (j.f (0x20 + 4 * n) 4)
def CopyJob.cvt (j : CopyJob) : Nat := j.f 0x30 4
def CopyJob.bar (j : CopyJob) : Nat := j.f 0x38 4
def CopyJob.sem (j : CopyJob) : Nat := j.f 0x3C 2
def CopyJob.semd (j : CopyJob) : Nat := j.f 0x3E 1
def CopyJob.ctx (j : CopyJob) : Nat := j.f 0x3F 1
def CopyJob.seq (j : CopyJob) : Nat := j.f 4 4
/-- Element sizes of source and destination: bytes but for CVT. -/
def CopyJob.es (j : CopyJob) : Nat := if j.kind = 3 && j.cvt % 16 = 2 then 2 else 1
def CopyJob.ed (j : CopyJob) : Nat := if j.kind = 3 && nbits j.cvt 4 4 = 2 then 2 else 1
/-- Destination bytes of a row. -/
def CopyJob.row (j : CopyJob) : Nat := j.len0 / j.es * j.ed
/-- Destination bytes. -/
def CopyJob.total (j : CopyJob) : Nat := if j.kind = 6 then 0 else j.row * j.len1 * j.len2
/-- The source is memory. -/
def CopyJob.reads (j : CopyJob) : Bool := j.kind != 5 && j.kind != 6
/-- The destination slot that DADDR names: core and id. -/
def CopyJob.slotName (j : CopyJob) (c : Nat) : Option (Nat × Nat) :=
  let a := j.daddr
  if nbits a 0 22 < 0x30 then
    if a / 2^22 = 0xFE * 2^26 then some (c, nbits a 0 22)
    else if nbits a 48 16 = 0xFD && nbits a 29 19 = 0 then some (nbits a 22 7, nbits a 0 22)
    else none
  else none

/-- An address in the remote window. -/
def isRemote (a : Nat) : Bool := a / 2^48 = 0xFC

/-- Lowest and highest offset of a strided box from its first byte: strides, rows, planes, bytes per row. -/
def boxSpan (s1 s2 : Int) (l1 l2 row : Nat) : Int × Int :=
  let a := s1 * ((l1 - 1 : Nat) : Int)
  let b := s2 * ((l2 - 1 : Nat) : Int)
  (min 0 a + min 0 b, max 0 a + max 0 b + row - 1)

/-- The span of the destination bytes from DADDR, or from the slot's start. -/
def CopyJob.dstSpan (j : CopyJob) : Int × Int :=
  if j.kind = 4 || j.kind = 1 then (0, (j.total : Int) - 1) else boxSpan (j.str 1) (j.str 3) j.len1 j.len2 j.row

/-- The span of the source bytes from SADDR (R286, R289). -/
def CopyJob.srcSpan (j : CopyJob) : Int × Int :=
  if j.kind = 4 then
    let rows := j.str 0 * ((nbits (j.f 0x2C 4) 16 15 : Nat) - 1 : Int)
    (min 0 rows, max 0 rows + (nbits (j.f 0x2C 4) 0 15 * j.len0 : Nat) - 1)
  else if j.kind = 1 then (0, (j.len0 : Int) - 1)
  else boxSpan (j.str 0) (j.str 2) j.len1 j.len2 j.len0

/-- Fields that must be zero, counts and flags (R286, R287, R289 to R294). DESIGN CHOICE (log 89): WIN with LEN0 = 0, for which R289 gives no
limit, is among them. -/
def CopyJob.badPkt (j : CopyJob) (c : Nat) : Bool :=
  let k := j.kind
  let strides := (upto 4).any fun n => j.str n != 0
  let win := decide (k = 4)
  let counts := k != 6 && (j.len0 = 0 || j.len1 = 0 || j.len2 = 0)
  nbits (j.f 1 1) 6 2 != 0 || nbits j.bar 29 3 != 0 || nbits j.ctx 2 6 != 0 ||
    (k = 1 && (j.f 0x1C 4 != 0 || strides)) || (k = 5 && (j.str 0 != 0 || j.str 2 != 0)) ||
    (k = 6 && (!j.flag 1 || j.flag 3 || j.flag 4 || j.f 0x18 8 != 0 || strides)) ||
    (k != 3 && (if j.flag 4 then decide (256 ≤ j.cvt) else j.cvt != 0)) || counts ||
    (win && (nbits (j.f 0x28 4) 16 8 = 0 || nbits (j.f 0x28 4) 24 8 = 0 || nbits (j.f 0x2C 4) 0 15 = 0 ||
      nbits (j.f 0x2C 4) 16 15 = 0 || nbits (j.f 0x2C 4) 31 1 = 1)) ||
    (k = 3 && j.len0 % j.es != 0) || decide (2^40 < j.total) || (j.flag 0 && j.ctx % 4 = 3) ||
    (j.flag 3 && (decide (2 < k) || j.daddr != 0 || j.str 1 != 0 || j.str 3 != 0 || j.flag 1 || j.flag 4 || j.flag 5 || j.cvt != 0)) ||
    (j.flag 4 && (j.flag 1 || j.flag 2 || (j.slotName c).isNone))

/-- Conversion runs are kept until their sector group is whole: one overflow leaves the group unwritten (spec/02_numbers.md R31). -/
def CopyJob.keeps (j : CopyJob) : Bool := j.kind = 3 && nbits j.cvt 11 2 = 3
/-- Bytes of the current sector group are still to be moved. -/
def CopyJob.moving (j : CopyJob) (hi : Nat) : Bool := decide (j.next < hi) || !j.buf.isEmpty || !j.flush.isEmpty || j.wr.isSome

/-- Conversion codes that a packet may not carry (R288). -/
def CopyJob.badCvt (j : CopyJob) : Bool :=
  let p := (j.cvt % 16, nbits j.cvt 4 4)
  !(p = (2, 3) || p = (2, 4) || p = (3, 2) || p = (4, 2)) || decide (6 ≤ nbits j.cvt 8 3) || j.nbv = 1

/-- REMOTE set exactly when one address lies in 0xFC (R286). -/
def CopyJob.badRemote (j : CopyJob) : Bool :=
  let a := j.reads && isRemote j.saddr
  let b := !j.flag 3 && !j.flag 4 && isRemote j.daddr
  (a && b) || (j.flag 2 != (a || b))

/-- Two closed intervals meet. -/
def meets (a b : Int × Int) : Bool := decide (a.1 ≤ b.2) && decide (b.1 ≤ a.2)

/-- The VA from which destination offsets count: DADDR, or the start of the slot at TAIL. -/
def dstBase (s : State) (c : Nat) (j : CopyJob) : Nat :=
  match (if j.flag 4 then j.slotName c else none) with
  | some (k, id) => j.daddr - id + slotBase (descOf s k id) (descOf s k id).tail
  | none => j.daddr

/-- Source and destination overlap (R286). -/
def overlap (s : State) (c : Nat) (j : CopyJob) : Bool :=
  let a := j.srcSpan
  let b := j.dstSpan
  let o := dstBase s c j
  j.reads && !j.flag 3 && meets (j.saddr + a.1, j.saddr + a.2) (o + b.1, o + b.2)

/-- An address or stride of a CVT that is no multiple of its element size (R286). -/
def CopyJob.badAlign (j : CopyJob) : Bool :=
  let es : Int := j.es
  let ed : Int := j.ed
  j.kind = 3 && (j.saddr % j.es != 0 || j.str 0 % es != 0 || j.str 2 % es != 0 || (!j.flag 4 && j.daddr % j.ed != 0) ||
    j.str 1 % ed != 0 || j.str 3 % ed != 0)

/-- A slot packet of another kind than CVT that names E4M3 or E5M2 where they do not exist (spec/02_numbers.md R44). DESIGN CHOICE (log 76): one
that names MXINT6 fills its slot; R44 has ILLOP there, which no packet can take. -/
def CopyJob.noFp8 (j : CopyJob) : Bool := j.kind != 3 && j.flag 4 && j.nbv = 1 && (j.cvt % 16 = 3 || j.cvt % 16 = 4)

/-- The checks of R286 in their order: the status of the first that fails, with its detail. DESIGN CHOICE (log 62): a slot packet that
declares a format 13 to 15 without converting ends with BADPKT, as R286 says of such a packet, where spec/02_numbers.md R19 has BADCVT
for any copy packet. A poisoned counter in SEM ends the packet with POISON (spec/12_semaphores.md R263). -/
def ceChecks (s : State) (c : Nat) (j : CopyJob) : Option (Nat × Nat) :=
  let p := j.part.toNat
  let bc := nbits j.bar 22 7
  let bo := nbits j.bar 0 22
  if j.kind = 0 || 6 < j.kind then some (0x10, 0)
  else if j.badPkt c then some (0x11, 0)
  else if (j.kind = 3 && j.badCvt) || j.noFp8 then some (0x12, 0)
  else if j.kind != 3 && j.flag 4 && (12 < j.cvt % 16 || 4 < nbits j.cvt 4 4) then some (0x11, 0)
  else if j.badRemote then some (0x11, 0)
  else if overlap s c j then some (0x13, 0)
  else if j.badAlign then some (0x18, 0)
  else if j.flag 5 && (!coreInPart s p bc || bo % 16 != 0 || 0x2F0000 ≤ bo) then some (0x15, 0)
  else if j.sem != 0xFFFF && j.semd != 0 && !hssInRange s p j.sem then some (0x15, 0)
  else if j.sem != 0xFFFF && j.semd != 0 && hssPoisoned s (dieOfCore c) j.sem then some (0x17, 0)
  else
    match (if j.flag 4 then j.slotName c else none) with
    | none => none
    | some (k, id) =>
      let d := descOf s k id
      if k != c && !coreInPart s p k then some (0x15, 0)
      else if !d.en then some (0x1C, 1)
      else if d.prod != 5 && d.prod != 15 then some (0x1C, 2)
      else if j.dstSpan.1 < 0 || (d.slotb : Int) ≤ j.dstSpan.2 then some (0x1C, 4)
      else none

/-! Ending a packet (R282, R297, R298). -/

/-- Write a field of the packet's record: the refusal, if any. -/
def cePut (s : State) (c : Nat) (j : CopyJob) (off n v : Nat) : Option (UErr × Nat) × State :=
  unitWrite s c j.part.toNat (j.va + off) (natBytes n v)

/-- Write MARK (R295). -/
def ceMark (s : State) (c : Nat) (j : CopyJob) (groups stage : Nat) : Option (UErr × Nat) × State := cePut s c j 0x34 4 (groups + 2^24 * stage)

/-- How a stretch of moves ends. -/
inductive MvEnd where
  | done
  | stop
  | fail (code : Nat)

/-- An unanswered access: held on the fault queue, or to be tried again where the queue is full (R229, R230). -/
def ceHold (s : State) (c : Nat) (j : CopyJob) (va : Nat) (write : Bool) (reason : Nat) : State × CopyJob × MvEnd :=
  match unitHold s (dieOfCore c) j.part.toNat va write false reason 5 c [.copy (BitVec.ofNat 7 c)] with
  | some t => (t, { j with held := true }, .stop)
  | none => (fqHold (dieOfCore c) 5 c va s, j, .stop)

/-- The packet waits for a held write of the engine's own. -/
def ceWaitPut (c : Nat) (j : CopyJob) (va reason : Nat) (s : State) : State :=
  let r := ceHold s c j va true reason
  modCe (setJob r.1 c (some r.2.1)) c fun e => { e with ready := max e.ready (s.now + 1) }

/-- A trace record of a copy engine. -/
def traceCe (c : Nat) (j : CopyJob) (kind obj a b : Nat) (s : State) : State :=
  traceUnit (dieOfCore c) 5 c j.part.toNat kind 0 0 obj a b 0 s

/-- A packet is no longer outstanding for any context (spec/11_ordering.md R257). -/
def ceForget (c : Nat) (j : CopyJob) (s : State) : State :=
  let w : EngOut := .copy (BitVec.ofNat 7 c) (BitVec.ofNat 4 j.queue) (BitVec.ofNat 32 j.idx)
  let f (x : Ctx) : Ctx := { x with engOut := x.engOut.filter fun e => !(e == w) }
  s.cores.foldl (fun t e => modAllCtx t e.1 fun _ x => f x) s

/-- The packet has ended, its RIDX written: the engine is free, for a packet of a restored team first. -/
def ceLeave (c : Nat) (j : CopyJob) (status : Nat) (s : State) : State :=
  modCe (ceForget c j (traceCe c j 0x03 j.seq status 0 s)) c fun e =>
    { e with
      job := e.parked.head?, parked := e.parked.tail, last := j.queue, ready := max e.ready (s.now + 1), fresh := true
      slots := match tget? e.slots j.queue with
        | some q => if q.away then tput e.slots j.queue { q with away := false } else e.slots
        | none => e.slots }

/-- RIDX of a packet that has ended (R282); a walk fault holds the write, another refusal leaves RIDX (log 20). -/
def ceRidx (c : Nat) (j : CopyJob) (status : Nat) (s : State) : State :=
  match (match tget? (ceOf s c).slots j.queue with
    | some q => unitWrite s c j.part.toNat (q.desc.toNat + 0x18) (natBytes 8 (j.idx + 1))
    | none => (none, s)) with
  | (some (.walk r, a), t) => ceWaitPut c { j with fin := some (status, true) } a r t
  | (_, t) => ceLeave c j status t

/-- The record of an ended packet is written: the interrupt, then RIDX. DESIGN CHOICE (log 78): CTX[1:0] = 3, with which R286 ends a packet that
has IRQ set, interrupts S. -/
def ceTell (c : Nat) (j : CopyJob) (status : Nat) (s : State) : State :=
  let w : EngOut := .copy (BitVec.ofNat 7 c) (BitVec.ofNat 4 j.queue) (BitVec.ofNat 32 j.idx)
  ceRidx c j status (if j.flag 0 then raiseUiFor w c (ctxOfNum (j.ctx % 4)) (wd j.va) 1 status s else s)

/-- The end of a packet: STATUS and STAGE 4, the interrupt, RIDX. A walk fault holds the write that meets it (spec/10_pages.md R230); a record
whose page refuses the write ends the packet with that status (spec/10_pages.md R237) and keeps its bytes. -/
def ceEnd (c : Nat) (j0 : CopyJob) (status : Nat) (s : State) : State :=
  let j := { j0 with start := false, reload := false }
  let wait (a r : Nat) (t : State) : State := ceWaitPut c { j with fin := some (status, false) } a r t
  let refused (k : Nat) (t : State) : State := ceTell c j (if status = 2 then statusOf k else status) t
  match cePut s c j 2 2 status with
  | (some (.walk r, a), t) => wait a r t
  | (some (.code k, _), t) => refused k t
  | (none, s1) =>
    match ceMark s1 c j j.groups 4 with
    | (some (.walk r, a), t) => wait a r t
    | (some (.code k, _), t) => refused k t
    | (none, s2) => ceTell c j status (traceCe c j 0x02 j.seq j.groups 4 s2)

/-- A packet whose end waited for a write goes on with it; with `skip` without the write, whose page will not come. -/
def ceEndAgain (c : Nat) (j : CopyJob) (status : Nat) (written skip : Bool) (s : State) : State :=
  if written then (if skip then ceLeave c j status s else ceRidx c j status s)
  else if skip then ceTell c j status s else ceEnd c j status s

/-- Set ERR in a barrier (spec/12_semaphores.md R276). -/
def barrierErr (core off : Nat) (s : State) : State :=
  let b := barrierOf (rdN s.mem (scrKey core off) 16)
  storeBytes s (scrKey core off) (natBytes 16 { b with err := true }.bits)

/-- A packet ends with an error status (R298). ERR is set where BAR names a barrier of the partition. -/
def ceFail (c : Nat) (j : CopyJob) (code detail : Nat) (s : State) : State :=
  let bc := nbits j.bar 22 7
  let bo := nbits j.bar 0 22
  let s1 := if j.flag 5 && coreInPart s j.part.toNat bc && bo % 16 = 0 && bo < 0x2F0000 then barrierErr bc bo s else s
  ceEnd c j (code + 2^8 * detail) s1

/-! Moving bytes (R287 to R295). -/

/-- Where bytes come from. -/
inductive Src where
  | mem (va n : Nat)
  | zeros
  | pattern

/-- A run of destination bytes: its offset from the base, its length, its source. -/
structure Frag where
  off : Int
  len : Nat
  src : Src

/-- A VA modulo 2^64. -/
def vaOf (x : Int) : Nat := (x % (2^64 : Nat)).toNat

/-- Clamp into 0 to n - 1. -/
def clampTo (x : Int) (n : Nat) : Int := if x < 0 then 0 else if (n : Int) ≤ x then (n : Int) - 1 else x

/-- The run at destination byte `n`, to the end of its row (R287 to R290). -/
def CopyJob.fragAt (j : CopyJob) (n : Nat) : Frag :=
  let row := max 1 j.row
  let x := n % row
  let r := n / row
  if j.kind = 4 then
    let u := r % max 1 j.len1
    let v := r / max 1 j.len1
    let d1 := j.f 0x24 4
    let s2 := j.f 0x28 4
    let d2 := j.f 0x2C 4
    let px := sgn 16 d1 + (u * nbits s2 16 8 : Nat) + sgn 8 s2
    let py := sgn 16 (d1 / 2^16) + (v * nbits s2 24 8 : Nat) + sgn 8 (s2 / 2^8)
    let w := nbits d2 0 15
    let h := nbits d2 16 15
    let cx := clampTo px w
    let cy := clampTo py h
    let inside := cx = px && cy = py
    let src := vaOf ((j.saddr : Int) + cy * j.str 0 + cx * (j.len0 : Nat) + (x : Nat))
    ⟨(n : Nat), row - x, if inside || nbits d2 15 1 = 1 then .mem src (row - x) else .zeros⟩
  else
    let y : Int := ((r % max 1 j.len1 : Nat) : Int)
    let z : Int := ((r / max 1 j.len1 : Nat) : Int)
    let off := z * j.str 3 + y * j.str 1 + (x : Nat)
    if j.kind = 5 then ⟨off, row - x, .pattern⟩
    else
      let so := z * j.str 2 + y * j.str 0 + (x / j.ed * j.es : Nat)
      ⟨off, row - x, .mem (vaOf (j.saddr + so)) ((row - x) / j.ed * j.es)⟩

/-- The run cut to `m` bytes. -/
def Frag.cut (f : Frag) (j : CopyJob) (m : Nat) : Frag :=
  { f with
    len := min f.len m
    src := match f.src with
      | .mem va _ => .mem va (min f.len m / j.ed * j.es)
      | x => x }

/-- Convert elements from number `k` (R288); none where one overflows under OVF 11. -/
def convGo (f t : Nat) (r : Rnd) (k : Nat) (l : List Nat) : Option (List Nat) :=
  match l with
  | [] => some []
  | x :: rest =>
    match roundFmt t { r with pos := k } (valOf r.c1 f x) with
    | none => none
    | some y =>
      match convGo f t r (k + 1) rest with
      | none => none
      | some ys => some (y :: ys)

/-- What a run's bytes become. -/
def CopyJob.convert (j : CopyJob) (n : Nat) (l : List Byte) : Option (List Byte) :=
  if j.kind = 3 then
    let r : Rnd := ⟨nbits j.cvt 8 3, nbits j.cvt 11 2, BitVec.ofNat 32 (nbits j.cvt 13 19), 0, false⟩
    match convGo (j.cvt % 16) (nbits j.cvt 4 4) r (n / j.ed) (chunkNats j.es l.length l) with
    | none => none
    | some xs => some ((xs.map (natBytes j.ed)).flatten)
  else some l

/-- The writes of the package that have not been acknowledged. -/
def openWrites (s : State) : List (BitVec 12 × BitVec 24) := (s.fab.asked.filter fun a => a.kind = .write).map fun a => (a.peer, a.pkt)

/-- A signal takes its number and its place behind earlier requests, all the writes of the package among them (spec/12_semaphores.md
R273). -/
def queueSig (i : Nat) (va : Word) (behind : List (BitVec 12 × BitVec 24)) (t : Tx) (s : State) : State :=
  let n := tget s.fab.pktNext t.dest.toNat 0
  if behind.isEmpty && t.dest != s.peer then queueTx i va t s
  else
  { s with
    fab := { s.fab with pktNext := tput s.fab.pktNext t.dest.toNat (n + 1),
                        asked := s.fab.asked ++ [⟨t.dest, n, i, .signal, t.unitKind, t.who, va⟩],
                        sigs := s.fab.sigs ++ [({ t with pkt := n }, behind)] } }

/-- The bytes at places of this package. -/
def readRuns (s : State) (c : Nat) (j : CopyJob) (l : List (Tgt × Nat)) : Except (State × CopyJob × MvEnd) (List Byte × State × CopyJob) :=
  match l with
  | [] => .ok ([], s, j)
  | (g, n) :: r =>
    match tgtRead s c g n with
    | .error e => .error (tgtPoison s g n, j, .fail (statusOf e.trap))
    | .ok a =>
      match readRuns s c j r with
      | .ok (b, t, y) => .ok (a ++ b, t, y)
      | .error e => .error e

/-- The bytes of a source run. -/
def ceRead (s : State) (c : Nat) (j : CopyJob) (src : Src) (dst len : Nat) : Except (State × CopyJob × MvEnd) (List Byte × State × CopyJob) :=
  match src with
  | .zeros => .ok (List.replicate len 0, s, j)
  | .pattern => .ok ((upto len).map (fun i => BitVec.ofNat 8 (j.saddr / 2^(8 * ((dst + i) % 8)))), s, j)
  | .mem va n =>
    let p := j.part.toNat
    match j.rdata with
    | some l => .ok (l, s, { j with rdata := none })
    | none =>
      match unitTgt s c p ⟨true, false, false, false⟩ va (if isRemote va then n else 1) with
      | (.ok (.remote peer off), t) =>
        if peer = s.peer.toNat then
          match exportRuns t p off n false with
          | .error st => .error (t, j, .fail st)
          | .ok l => readRuns t c j l
        else
          let r := sendTx t (unitTx t .read 5 c p peer off n)
          .error (r.2, { j with rd := some r.1 }, .stop)
      | _ =>
        match unitRead s c p va n with
        | (.ok l, t) => .ok (l, { t with free := t.free + n }, j)
        | (.error (.code k, _), t) => .error (t, j, .fail (statusOf k))
        | (.error (.walk r, a), t) => .error (ceHold t c j a false r)

/-- Store a run at a place on this package; one that covers part of an uncorrectable word only ends the packet (spec/06_scratchpad.md R135). -/
def ceStore (s : State) (c : Nat) (j : CopyJob) (g : Tgt) (l : List Byte) : State × CopyJob × MvEnd :=
  if tgtCut s g l.length then (tgtPoison s g l.length, j, .fail 0x17) else (tgtWrite s c j.part.toNat g l, j, .done)

/-- Store a run at places of this package, in their order. -/
def ceStores (s : State) (c : Nat) (j : CopyJob) (gs : List (Tgt × Nat)) (l : List Byte) : State × CopyJob × MvEnd :=
  match gs with
  | [] => (s, j, .done)
  | (g, n) :: r =>
    match ceStore s c j g (l.take n) with
    | (t, y, .done) => ceStores t c y r (l.drop n)
    | x => x

/-- Write a run at VA `va`. -/
def ceWrite (s : State) (c : Nat) (j : CopyJob) (va : Nat) (l : List Byte) : State × CopyJob × MvEnd :=
  let p := j.part.toNat
  match unitTgt s c p ⟨false, true, false, false⟩ va l.length with
  | (.error (.code k), t) => (if k = tDENIED then sendEvent (p + 1) 0x22 [] t else t, j, .fail (statusOf k))
  | (.error (.walk r), t) => ceHold t c j va true r
  | (.ok (.remote peer off), t) =>
    if j.flag 1 then (t, j, .fail 0x11)
    else if peer = s.peer.toNat then
      match exportRuns t p off l.length true with
      | .error st => (t, j, .fail st)
      | .ok gs => ceStores t c j gs l
    else
      let r := sendTx t { unitTx t .write 5 c p peer off l.length with data := l }
      (r.2, { j with outs := j.outs ++ [r.1] }, .done)
  | (.ok (.phys pa pte), t) =>
    if j.flag 1 && (!pteShv pte || (match j.shut with | some n => n != nbits pte 11 12 | none => false)) then (t, j, .fail 0x11)
    else ceStore t c (if j.flag 1 then { j with shut := some (nbits pte 11 12) } else j) (.phys pa pte) l
  | (.ok g, t) => if j.flag 1 then (t, j, .fail 0x11) else ceStore t c j g l

/-- Bytes of a write to another package (spec/15_fabric.md R324, spec/25_prog_remote.md R435). -/
def writeMost (s : State) (j : CopyJob) : Nat := if (seenPart s j.part.toNat).isSealed then 216 else 232

/-- Gather a run into a write to another package: it leaves when it is full, or where the run does not follow it (spec/25_prog_remote.md R435). -/
def ceGather (s : State) (c : Nat) (j : CopyJob) (dst : Nat) (l : List Byte) : State × CopyJob × MvEnd :=
  match j.wr with
  | none => (s, { j with wr := some (dst, l) }, .done)
  | some (a, b) =>
    if a + b.length = dst && a / 2^36 = dst / 2^36 then
      let n := writeMost s j
      let x := b ++ l
      if x.length < n then (s, { j with wr := some (a, x) }, .done)
      else
        match ceWrite s c j a (x.take n) with
        | (t, j1, .done) => (t, { j1 with wr := if x.length = n then none else some (a + n, x.drop n) }, .done)
        | r => r
    else
      match ceWrite s c j a b with
      | (t, j1, .done) => (t, { j1 with wr := some (dst, l) }, .done)
      | r => r

/-- The write that is being gathered leaves. -/
def ceLast (s : State) (c : Nat) (j : CopyJob) : State × CopyJob × MvEnd :=
  match j.wr with
  | none => (s, j, .done)
  | some (a, b) =>
    match ceWrite s c j a b with
    | (t, j1, .done) => (t, { j1 with wr := none }, .done)
    | r => r

/-- Write a run at its place: the destination slot, or a VA. -/
def cePlace (s : State) (c : Nat) (j : CopyJob) (dst : Nat) (l : List Byte) : State × CopyJob × MvEnd :=
  match j.slot with
  | some (k, _, _) => ceStore s c j (.scr k (nbits dst 0 22)) l
  | none => if isRemote dst && nbits dst 36 12 != s.peer.toNat then ceGather s c j dst l else ceWrite s c j dst l

/-- Move destination bytes up to `hi`, at most `fuel` runs. -/
def mvGo (fuel : Nat) (s : State) (c hi : Nat) (j : CopyJob) : State × CopyJob × MvEnd :=
  match fuel, j.flush with
  | 0, _ => (s, j, .stop)
  | fuel + 1, (dst, b) :: rest =>
    match cePlace s c j dst b with
    | (u, j1, .done) => mvGo fuel u c hi { j1 with flush := rest }
    | r => r
  | fuel + 1, [] =>
    if hi ≤ j.next then (if j.buf.isEmpty then ceLast s c j else mvGo fuel s c hi { j with buf := [], flush := j.buf.reverse })
    else
      let f0 := j.fragAt j.next
      let base := match j.slot with
        | some (k, id, i) => 0xFD * 2^48 + k * 2^22 + slotBase (descOf s k id) i
        | none => j.daddr
      let dst := vaOf (base + f0.off)
      let f := f0.cut j (min (hi - j.next) (64 - dst % 64))
      match ceRead s c j f.src dst f.len with
      | .error r => r
      | .ok (l, t, j1) =>
        match j1.convert j1.next l with
        | none => (t, j1, .fail 0x1B)
        | some b =>
          if j.keeps then mvGo fuel t c hi { j1 with next := j1.next + f.len, buf := (dst, b) :: j1.buf }
          else
            match cePlace t c j1 dst b with
            | (u, j2, .done) => mvGo fuel u c hi { j2 with next := j2.next + f.len }
            | r => r

/-- Bytes up to the end of the current sector group (R295). -/
def CopyJob.groupEnd (j : CopyJob) : Nat := min j.total (2^16 * (j.groups + 1))

/-- Put the outcome of a stretch of moves into the engine. -/
def cePutMoves (c n : Nat) (r : State × CopyJob × MvEnd) : State :=
  match r with
  | (t, j, .fail code) => ceFail c j code 0 t
  | (t, j, _) => modCe (setJob t c (some j)) c fun e => { e with ready := max e.ready (t.now + 1 + n / 512) }

/-- Move the current sector group. A packet that only prefetches moves nothing (R292). -/
def ceMove (c : Nat) (j : CopyJob) (s : State) : State :=
  if j.flag 3 then cePutMoves c 0 (s, { j with next := j.groupEnd }, .done)
  else cePutMoves c (j.groupEnd - j.next) (mvGo 140000 s c j.groupEnd j)

/-- Look for the destination slot: begin if it is empty, else wait (R294). -/
def ceBegin (c : Nat) (j : CopyJob) (s : State) : State :=
  match (if j.flag 4 && j.slot.isNone then j.slotName c else none) with
  | none => ceMove c j s
  | some (k, id) =>
    let d := descOf s k id
    if tailEmpty s k id d then ceMove c { j with slot := some (k, id, d.tail) } s
    else modCe (setJob s c (some j)) c fun e => { e with ready := s.now + 1 }

/-- The shutter that a PUBLISH names, or that the groups already marked of a restarted packet were written through: behind the DADDR page
(R291). -/
def cePublishPage (c : Nat) (j : CopyJob) (s : State) : State :=
  let none' := if j.kind = 6 then 0x15 else 0x11
  if 0xFC * 2^48 ≤ j.daddr then ceFail c j none' 0 s
  else
  match translate s c j.part.toNat true ⟨false, true, false, false⟩ j.daddr with
  | (.refused k, t) => ceFail c j (statusOf k) 0 t
  | (.walkFault r, t) => cePutMoves c 0 (ceHold t c j j.daddr true r)
  | (.ok _ pte, t) =>
    if pteShv pte then cePutMoves c 0 (t, { j with shut := some (nbits pte 11 12) }, .done) else ceFail c j none' 0 t

/-- Sectors of group `g` (R295). -/
def CopyJob.sectors (j : CopyJob) (g : Nat) : Nat := (min j.total (2^16 * (g + 1)) + 255) / 256 - 256 * g

/-- The landing after a mark (R296). -/
def ceLanding (c : Nat) (j : CopyJob) (groups sectors : Nat) (s : State) : State :=
  if !j.flag 5 || sectors = 0 then s
  else
    let l : Landing := ⟨BitVec.ofNat 7 (nbits j.bar 22 7), BitVec.ofNat 22 (nbits j.bar 0 22), false, BitVec.ofNat 7 c,
      BitVec.ofNat 4 j.queue, BitVec.ofNat 32 j.seq, BitVec.ofNat 24 groups, sectors⟩
    { s with events := s.events ++ [⟨.ce (BitVec.ofNat 7 c), some (.landing l)⟩] }

/-- The packet as its record holds it after an eclipse: stage 0 goes on from group GROUPS (R299), into the slot that it has waited for, which
stands at TAIL until it is filled (R294). -/
def CopyJob.again (j : CopyJob) (l : List Byte) : CopyJob :=
  let mark := recF l 0x34 4
  let g := nbits mark 0 24
  { queue := j.queue, idx := j.idx, pkt := l, va := j.va, part := j.part, nbv := j.nbv, limit := j.limit, since := j.since, slot := j.slot,
    groups := g, stage := nbits mark 24 3, next := 2^16 * g }

/-- After an eclipse the packet goes on from its record, and the landing of the last mark is sent again (R299). A packet that its record
calls ended is not restarted. -/
def ceReload (c : Nat) (j : CopyJob) (s : State) : State :=
  match unitRead s c j.part.toNat j.va 64 with
  | (.error (.code k, _), t) => ceFail c { j with reload := false } (statusOf k) 0 t
  | (.error (.walk r, a), t) => cePutMoves c 0 (ceHold t c j a false r)
  | (.ok l, t) =>
    let j1 := j.again l
    if 4 ≤ j1.stage then ceRidx c j1 (recF l 2 2) t
    else
      let u := cePutMoves c 0 (t, j1, .done)
      if j1.groups = 0 || j1.flag 3 then u else ceLanding c j1 j1.groups (j1.sectors (j1.groups - 1)) u

/-- Go on with a packet whose checks have passed. -/
def ceGo (c : Nat) (j : CopyJob) (s : State) : State :=
  if j.reload then ceReload c j s
  else if j.kind = 6 || (j.flag 1 && j.shut.isNone && decide (0 < j.groups)) then cePublishPage c j s else ceBegin c j s

/-- A packet has been taken: STATUS RUNNING, the checks of R286, the first bytes. -/
def ceStart (c : Nat) (j : CopyJob) (s : State) : State :=
  match cePut s c j 2 2 1 with
  | (some (.walk r, a), t) => ceWaitPut c j a r t
  | (some (.code k, _), t) => ceFail c j (statusOf k) 0 t
  | (none, t) =>
    let j1 := { j with start := false }
    match ceChecks t c j1 with
    | some (code, detail) => ceFail c j1 code detail t
    | none => ceGo c j1 t

/-- Take the packet at RIDX of queue `n`. An overrun queue's packets are unspecified: free bytes (R281, log 1). -/
def ceTake (c n : Nat) (q : CopyQ) (d : QDesc) (s : State) : State :=
  let overrun := q.overrun || decide (2^d.logn < d.used)
  let va := d.entry d.ridx
  let bytes := match (unitRead s c q.part.toNat va 64).1 with
    | .ok l => l
    | .error _ => []
  let pkt := if overrun then (upto 64).map fun i => Config.freeByte (s.free + i) else bytes
  let j : CopyJob := { queue := n, idx := d.ridx, pkt := pkt, va := va, part := q.part, nbv := (seenPart s q.part.toNat).nbv.toNat,
                       limit := stallLimit s q.part.toNat, since := s.now, start := true }
  let s1 := modCe { s with free := s.free + 64 } c fun e => { e with slots := tput e.slots n { q with overrun := overrun }, fresh := false }
  ceStart c j (traceCe c j 0x01 j.seq va 5 s1)

/-- The kind row that a packet belongs to: 1 to 6, 7 for a prefetch, 0 for a kind that does not exist. -/
def rowOfKind (kind flags : Nat) : Nat :=
  if kind = 0 || 6 < kind then 0 else if kind ≤ 2 && nbits flags 3 1 = 1 then 7 else kind

/-- The row of the packet that a queue has ready. -/
def readyRow (s : State) (c : Nat) (q : CopyQ) (d : QDesc) : Nat :=
  match (unitRead s c q.part.toNat (d.entry d.ridx) 2).1 with
  | .ok l => rowOfKind (recF l 0 1) (recF l 1 1)
  | .error _ => 0

/-- A packet of kind row `k`: taken, or gone on with after a wait (R282, R286). -/
def ceRow (k : Nat) (s : State) : Outcome State Fault Refusal :=
  let c := curCore s
  match (ceOf s c).job with
  | some j =>
    .next (if !((j.stage = 0 || j.reload) && !j.held && j.fin.isNone && rowOfKind j.kind (j.f 1 1) = k) then s
      else if j.start then ceStart c j s else ceGo c j s)
  | none =>
    match nextReady s c !(ceOf s c).fresh with
    | none => .next s
    | some (n, q, d) => .next (if readyRow s c q d = k then ceTake c n q d s else s)

/-- LIN (R287). -/
def execCeLin (s : State) : Outcome State Fault Refusal := ceRow 1 s
/-- BOX (R287). -/
def execCeBox (s : State) : Outcome State Fault Refusal := ceRow 2 s
/-- CVT (R288). -/
def execCeCvt (s : State) : Outcome State Fault Refusal := ceRow 3 s
/-- WIN (R289). -/
def execCeWin (s : State) : Outcome State Fault Refusal := ceRow 4 s
/-- FILL (R290). -/
def execCeFill (s : State) : Outcome State Fault Refusal := ceRow 5 s
/-- PUBLISH (R291). -/
def execCePublish (s : State) : Outcome State Fault Refusal := ceRow 6 s
/-- PFONLY (R292). -/
def execPfonly (s : State) : Outcome State Fault Refusal := ceRow 7 s

/-- The examination of queue `n` in a scan: a walk fault is held on the fault queue, or tried again in the next cycle where that is
full (spec/10_pages.md R229, R230). -/
def ceExamine (c : Nat) (s : State) (n : Nat) : State :=
  match tget? (ceOf s c).slots n with
  | none => s
  | some q =>
    if q.held || q.away then s
    else
      match queueLook s c q with
      | (.error (.walk r, va), t) =>
        match unitHold t (dieOfCore c) q.part.toNat va false false r 5 c [.copyQueue (BitVec.ofNat 7 c) (BitVec.ofNat 4 n)] with
        | some u => modCe u c fun e => { e with slots := tput e.slots n { q with held := true } }
        | none => modCe (fqHold (dieOfCore c) 5 c va t) c fun e => { e with fresh := true, ready := max e.ready (s.now + 1) }
      | (_, t) => t

/-- The scan of a copy engine (R281): every queue's slot at RIDX is examined, and the next ready packet taken, knocked or not. -/
def ceScan (s : State) : State :=
  let c := curCore s
  let s1 := (rotation (ceOf s c).last).foldl (ceExamine c) (modCe s c fun e => { e with scan := s.now, fresh := false })
  match (ceOf s c).job with
  | some _ => s1
  | none =>
    match nextReady s1 c false with
    | none => s1
    | some (n, q, d) => ceTake c n q d s1

/-- SLOT_WAIT_TIMEOUT (R294): a packet that has waited longer than STALLTO allows ends with BUDGET. -/
def execSlotWaitTimeout (s : State) : Outcome State Fault Refusal :=
  let c := curCore s
  match (ceOf s c).job with
  | some j =>
    .next (if j.flag 4 && j.slot.isNone && j.stage = 0 && j.limit != 0 && decide (j.limit < s.now - j.since) then ceFail c j 0x1E 0 s else s)
  | none => .next s

/-! Packets of a team that is saved (spec/18_recovery.md R401). -/

/-- The packets that a copy engine has under way. -/
def ceJobs (e : Ce) : List CopyJob := e.job.toList ++ e.parked

/-- A packet as an image keeps it: it goes on from its last mark, as after an eclipse (R299). -/
def aside (j : CopyJob) : CopyJob :=
  { j with
    held := false, rd := none, rdata := none, outs := [], refused := none, buf := [], flush := [], wr := none, asked := false, taken := none
    next := if j.stage = 0 then 2^16 * j.groups else j.next }

/-- The packets of partition `p` leave the engine with the image of its core; their queues wait for them. -/
def ceAside (c p : Nat) (s : State) : State :=
  let mine (j : CopyJob) : Bool := j.part.toNat = p
  modCe s c fun e =>
    let l := (ceJobs e).filter fun j => !mine j
    { e with
      job := l.head?, parked := l.tail
      slots := ((ceJobs e).filter mine).foldl (fun t j => match tget? t j.queue with
        | some q => tput t j.queue { q with away := true }
        | none => t) e.slots }

/-- A packet comes back to its engine. -/
def ceResume (c : Nat) (j : CopyJob) (s : State) : State :=
  modCe s c fun e =>
    if e.job.isNone then { e with job := some j, wd := { e.wd with since := s.now, hold := none }, ready := max e.ready (s.now + 1) }
    else { e with parked := e.parked ++ [j] }

/-! Marks and completion (R295 to R297). -/

/-- The fill of the destination slot, which is at TAIL, in the step of the final mark (R294). -/
def ceFill (c : Nat) (j : CopyJob) (s : State) : State :=
  match j.slot with
  | none => s
  | some (k, id, _) =>
    let tag := if j.kind = 3 then nbits j.cvt 4 4 * 2^12 else j.cvt % 16 * 2^12 + nbits j.cvt 4 4 * 2^8
    fillSlot s k id tag j.seq (5 + 16 * c) j.total

/-- The destination slot, no longer at TAIL or not empty, cannot be filled yet: another filler has come first (spec/06_scratchpad.md R143). -/
def slotTaken (s : State) (j : CopyJob) : Bool :=
  match j.slot with
  | some (k, id, i) => (descOf s k id).tail != i || !tailEmpty s k id (descOf s k id)
  | none => false

/-- The packet waits to fill its slot, at most as long as STALLTO allows (R294). -/
def ceTaken (c : Nat) (j : CopyJob) (s : State) : State :=
  let since := j.taken.getD s.now
  if j.limit != 0 && decide (j.limit < s.now - since) then ceFail c j 0x1E 0 s
  else modCe (setJob s c (some { j with taken := some since })) c fun e => { e with ready := s.now + 1 }

/-- SECTOR_GROUP_MARK (R295): the group's bytes are performed; its mark and landing; the next group's bytes. -/
def execSectorGroupMark (s : State) : Outcome State Fault Refusal :=
  let c := curCore s
  match (ceOf s c).job with
  | none => .next s
  | some j =>
    let go := !(j.moving j.groupEnd || (j.kind = 6 && j.shut.isNone) || (j.flag 4 && j.slot.isNone))
    if j.stage != 0 || j.reload || j.held || j.start || j.fin.isSome || !j.outs.isEmpty || j.rd.isSome then .next s
    else
      match j.refused with
      | some code => .next (ceFail c j code 0 s)
      | none =>
        if !go then .next s
        else if decide (j.total ≤ j.next) && slotTaken s j then .next (ceTaken c j s)
        else
        let g := if j.kind = 6 then 0 else j.groups + 1
        let final := decide (j.total ≤ j.next)
        let j1 := { j with groups := g, stage := final.toNat }
        match ceMark s c j g final.toNat with
        | (some (.walk r, a), t) => .next (ceWaitPut c j a r t)
        | (some (.code k, _), t) => .next (ceFail c j (statusOf k) 0 t)
        | (none, s0) =>
          let s1 := traceCe c j 0x02 j.seq g g s0
          let s2 := if final then ceFill c j s1 else s1
          let s3 := ceLanding c j g (if j.kind = 6 || j.flag 3 then 0 else j.sectors j.groups) s2
          .next (if final then modCe (setJob s3 c (some j1)) c fun e => { e with ready := s.now + 1 } else ceMove c j1 s3)

/-- The packet's increment (R297, spec/12_semaphores.md R268): mark index GROUPS, ordinal 0. -/
def ceUpdate (_s : State) (c : Nat) (j : CopyJob) : Option EngineUpdate :=
  if j.sem = 0xFFFF || j.semd = 0 then none
  else
    some { die := BitVec.ofNat 2 (dieOfCore c), engine := 5 + 16 * c, record := j.queue + 16 * j.seq, mark := BitVec.ofNat 32 j.groups,
           ordinal := 0, index := BitVec.ofNat 16 j.sem, delta := (j.semd : Nat), last := BitVec.ofNat 32 (5 + 16 * c) }

/-- Move to a stage of completion, written to MARK first; a mark of the packet (spec/19_observation.md R403). -/
def ceStage (c : Nat) (j : CopyJob) (n : Nat) (s : State) : State :=
  match ceMark s c j j.groups n with
  | (some (.walk r, a), t) => ceWaitPut c j a r t
  | (some (.code k, _), t) => ceFail c j (statusOf k) 0 t
  | (none, t) =>
    modCe (setJob (traceCe c j 0x02 j.seq j.groups n t) c (some { j with stage := n })) c fun e => { e with ready := s.now + 1 }

/-- Apply the packet's increment and go on to stage 3; a counter that has been poisoned ends the packet (spec/12_semaphores.md R263). -/
def ceIncrement (c : Nat) (j : CopyJob) (s : State) : State :=
  match ceUpdate s c j with
  | some u => if updateLost u s then ceFail c j 0x17 0 s else ceStage c j 3 (applyUpdate j.part.toNat u s)
  | none => ceStage c j 3 s

/-- A landing of a copy engine is on its way. -/
def landingOpen (s : State) (c : Nat) : Bool :=
  s.events.any fun e =>
    match e.what with
    | some (.landing l) => !l.xe && l.src.toNat = c
    | _ => false

/-- The publish of a packet is among those in progress. -/
def cePublishing (s : State) (c : Nat) (j : CopyJob) : Bool :=
  s.pubs.any fun p => p.core.toNat = c && p.queue = j.queue && p.seq = j.seq && p.groups = j.groups

/-- Request the publish of R291. -/
def ceRequestPublish (c : Nat) (j : CopyJob) (s : State) : State :=
  let n := BitVec.ofNat 12 (j.shut.getD 0)
  let busy := s.pubs.any fun p => p.shutter == n
  let t := setJob { s with pubs := s.pubs ++ [⟨n, j.part, BitVec.ofNat 7 c, j.queue, j.seq, j.groups, false, []⟩] } c
    (some { j with asked := true })
  if busy then t else { t with events := t.events ++ [⟨.l2dir (BitVec.ofNat 2 (n.toNat / 1024)), some (.shutterPublish n)⟩] }

/-- PACKET_COMPLETION (R297): the next stage. -/
def execPacketCompletion (s : State) : Outcome State Fault Refusal :=
  let c := curCore s
  match (ceOf s c).job with
  | none => .next s
  | some j =>
    match j.fin with
    | some (status, written) => .next (if j.held then s else ceEndAgain c j status written false s)
    | none =>
    if j.reload || j.held || j.start then .next (if j.held || j.start then s else ceReload c j s)
    else
    match j.stage with
    | 1 => .next (if landingOpen s c then s else ceStage c j 2 s)
    | 2 =>
      if j.flag 1 then
        .next (if j.asked || cePublishing s c j then s else if j.shut.isNone then cePublishPage c j s else ceRequestPublish c j s)
      else .next (ceIncrement c j s)
    | 3 => .next (ceEnd c j 2 s)
    | _ => .next s

/-! Landings (R296; spec/15_fabric.md R341). -/

/-- Offset of the entry of a landing table: the copy engines' by core id, the collective engines' by die. -/
def landingOff (xe : Bool) (src : Nat) : Nat := if xe then 0x2F7000 + 16 * src else 0x2F4800 + 16 * src

/-- Apply a landing whose entry lies at `o`: a key that the entry holds is discarded, another is applied and recorded. -/
def applyLanding (l : Landing) (o : Nat) (s : State) : State :=
  let c := l.core.toNat
  let key := l.queue.toNat + 128
  if sysRead s c o 4 = l.seq.toNat && sysRead s c (o + 4) 4 = l.groups.toNat && sysRead s c (o + 8) 1 = key then s
  else
    let b := barrierOf (rdN s.mem (scrKey c l.off.toNat) 16)
    let t := noteGen (scrKey c l.off.toNat) b.gen (b.land l.sectors).gen
      (storeBytes s (scrKey c l.off.toNat) (natBytes 16 (b.land l.sectors).bits))
    sysWrite (sysWrite (sysWrite t c o 4 l.seq.toNat) c (o + 4) 4 l.groups.toNat) c (o + 8) 1 key
/-- LANDING (R296). -/
def execLanding (l : Landing) (s : State) : Outcome State Fault Refusal :=
  .next (applyLanding l (landingOff l.xe l.src.toNat) s)

/-! Restart (R299). -/

/-- A copy engine discards what it holds of its packet and reads the record again (R299). -/
def restartCe (c : Nat) (s : State) : State :=
  match (ceOf s c).job with
  | none => s
  | some j =>
    let busy := j.start || j.fin.isSome
    setJob s c (some { j.again j.pkt with groups := j.groups, stage := j.stage, held := j.held, reload := !busy, start := j.start, fin := j.fin })

end Sys2Proof.Machine
end

