-- ==== Sys2Proof/Machine/Halo.lean ====
section
/-! DEFINITION. Grids: HSTEP, HWAIT, HQRY, grid loads and stores, and the halo engine (spec/14_grids.md R300 to R318). -/

namespace Sys2Proof.Machine

open Host (Outcome)

/-- Change a halo engine. -/
def modHe (s : State) (d : Nat) (f : He → He) : State := modDie s d fun x => { x with he := f x.he }

/-- NONE of a tag, COMMIT or REL (R307). -/
def stepNone : Nat := 2^32 - 1

/-! Descriptors (R300 to R302). -/

/-- Zero fields, ranges and relations within a descriptor. -/
def Grid.badDesc (g : Grid) : Bool :=
  let l := g.desc
  let zeros (o n : Nat) : Bool := ((l.drop o).take n).any (· != 0)
  let dims := upto 3
  g.ndim = 0 || 3 < g.ndim || !(1 ≤ g.fmt && g.fmt ≤ 7 || g.fmt = 12) || g.ncomp = 0 || 16 < g.ncomp || g.gw = 0 || 8 < g.gw ||
    g.depth = 0 || 4 < g.depth || zeros 5 3 || zeros 0x1A 2 || zeros 0x38 8 || zeros 0x50 0xB0 || nbits (g.f 0x1C 4) 18 14 != 0 ||
    g.pmap % 8 != 0 || g.state % 64 != 0 ||
    dims.any (fun k =>
      if k < g.ndim then
        g.pcnt k = 0 || g.size k = 0 || g.size k % g.pcnt k != 0 || decide (g.n k < g.gw * g.depth)
      else g.size k != 1 || g.pcnt k != 1) ||
    decide (65536 < g.parts) ||
    (upto 6).any (fun f =>
      decide (2^fmtBits g.fmt ≤ g.fixv f) ||
        (if f < g.faces then 5 < g.rule f || ((g.rule f = 0) != (g.rule (f - f % 2 + (1 - f % 2)) = 0)) else g.rule f != 0))

/-- A map entry that R301 refuses for partition `p`. -/
def badEntry (s : State) (p : Nat) (g : Grid) (e : Nat) : Bool :=
  nbits e 19 13 != 0 || nbits e 54 10 != 0 || peerByte s p (mapPeer e) % 4 != 3 || decide (0x2F0000 < mapBase e + g.frameBytes) ||
    (mapPeer e = s.peer.toNat &&
      (!coreInPart s p (mapCore e) || mapBase e % 64 != 0 ||
        ((framesOf s (mapCore e)).any fun x =>
          x.1.id != g.id && decide (x.2.2 < mapBase e + g.frameBytes) && decide (mapBase e < x.2.2 + x.1.frameBytes)) ||
        decide (8 ≤ ((framesOf s (mapCore e)).filter fun x => x.1.id != g.id).length)))

/-- No (peer, core) pair appears twice. -/
def distinctPairs (l : List Nat) : Bool :=
  match l with
  | [] => true
  | e :: r => r.all (fun x => x % 2^19 != e % 2^19) && distinctPairs r

/-- A descriptor that R301 accepts. -/
def gridValid (s : State) (p : Nat) (g : Grid) : Bool :=
  !g.badDesc && g.map.all (fun e => !badEntry s p g e) && distinctPairs g.map

/-- The grid registered on a die under an id. -/
def gridOn (s : State) (d p id : Nat) : Option Grid := (dieOf s d).he.grids.find? fun g => g.id = id && g.part.toNat = p

/-- Read a grid's table entry, descriptor and map: none where the entry is 0 or the descriptor breaks R301. -/
def gridRead (s : State) (d p id : Nat) : Except (UErr × Nat) (Option Grid) × State :=
  match dieRead s d p ((seenPart s p).gridbr.toNat + 8 * id) 8 with
  | (.error e, t) => (.error e, t)
  | (.ok a, t) =>
    let va := bytesNat a
    if va = 0 || va % 64 != 0 then (.ok none, t)
    else
      match dieRead t d p va 256 with
      | (.error e, u) => (.error e, u)
      | (.ok l, u) =>
        let g0 : Grid := ⟨BitVec.ofNat 3 p, id, l, []⟩
        if g0.badDesc then (.ok none, u)
        else
          match dieRead u d p g0.pmap (8 * g0.parts) with
          | (.error e, v) => (.error e, v)
          | (.ok m, v) =>
            let g := { g0 with map := chunkNats 8 g0.parts m }
            (.ok (if gridValid v p g then some g else none), v)

/-! The HALO words of a context (R308 to R312). -/

/-- A refused access of the die's halo engine for a context's word: the trap, with the VA concerned. -/
def haloRefused {α : Type} (s : State) (d p : Nat) (e : UErr) (va : Nat) (write : Bool) : Op α :=
  match e with
  | .code c => raise c (wd va)
  | .walk r =>
    wordHold s d p va write r 6 0

/-- Read for a context's word through the die's shared TLB. -/
def haloLoad (p va n : Nat) : Op (List Byte) := do
  let s ← gets (fun s => s)
  let d := dieOfCore (curCore s)
  match dieRead s d p va n with
  | (.ok l, t) => do
    upd fun _ => t
    pure l
  | (.error (e, a), t) => haloRefused t d p e a false

/-- The grid and partition that a HALO word names (R308). -/
def haloGrid (i : Instr) (a : Word) : Op (Grid × Nat) := do
  waitAcquired
  let s ← gets (fun s => s)
  let d := dieOfCore (curCore s)
  let p := curPart s
  let g ← (match gridOn s d p a.toNat with
    | some g => pure g
    | none =>
      match gridRead s d p a.toNat with
      | (.error (e, va), t) => haloRefused t d p e va false
      | (.ok none, _) => raise tILLOP (wordOf i)
      | (.ok (some g), t) => do
        upd fun _ => t
        pure g)
  match g.idxOf s.peer.toNat (curCore s) with
  | some idx => pure (g, idx)
  | none => raise tPROT a

/-- The step-state record of a partition (R306). -/
def haloRecord (g : Grid) (idx : Nat) : Op (List Byte) := haloLoad g.part.toNat (g.state + 64 * idx) 64

/-- A face's tag in a record. -/
def tagIn (r : List Byte) (f : Nat) : Nat := recF r (4 * f) 4
def commitIn (r : List Byte) : Nat := recF r 0x18 4
def relIn (r : List Byte) : Nat := recF r 0x1C 4
def sentIn (r : List Byte) : Nat := recF r 0x20 1

/-- TVAL of STALE_HALO (R313). -/
def haloVal (tag face : Nat) (ahead timeout order : Bool) : Word :=
  wd (tag + 2^32 * face + 2^35 * ahead.toNat + 2^36 * timeout.toNat + 2^37 * order.toNat)

/-- Bytes of the strip that partition `p` sends across face `f`. -/
def stripBytes (g : Grid) (p f : Nat) : Nat := if g.physical p f then 0 else (g.region f).length * g.cellBytes

/-- Bytes of the strips of one partition. -/
def outBytes (g : Grid) (p : Nat) : Nat := ((upto g.faces).map (stripBytes g p)).foldl (· + ·) 0

/-- Staging in use on a die (R309): 16 MiB in all. -/
def stagingUsed (s : State) (d : Nat) : Nat :=
  ((dieOf s d).he.stages.map fun t =>
    match gridOn s d t.part.toNat t.grid with
    | some g => outBytes g t.idx
    | none => 0).foldl (· + ·) 0

/-- A halo engine's trace record. -/
def traceHe (d p kind obj a b : Nat) (s : State) : State := traceUnit d 6 (32 * d) p kind 0 0 obj a b 0 s

/-- Write a field of a step-state record for a context's word. -/
def haloStore (p va : Nat) (l : List Byte) : Op Unit := do
  let s ← gets (fun s => s)
  let d := dieOfCore (curCore s)
  match dieWrite s d p va l with
  | (none, t) => upd fun _ => t
  | (some (e, a), t) => haloRefused t d p e a true

/-- The layers of interior cells along face `f` of partition `p` that its strip or its rule fill reads (R305, R309). -/
def layersRead (g : Grid) (p f : Nat) : Nat :=
  if !g.physical p f || g.rule f = 3 || g.rule f = 4 then g.gw * g.depth else if g.rule f = 2 then 1 else 0

/-- An interior cell that a strip or a rule fill of a step of partition `p` reads. -/
def readInStep (g : Grid) (p i : Nat) : Bool :=
  (upto g.faces).any fun f =>
    let x := g.cellAt i (f / 2)
    let m : Int := (layersRead g p f : Nat)
    if f % 2 = 0 then decide (x < m) else decide ((g.n (f / 2) : Nat) - m ≤ x)

/-- A step taken into staging: the grid is registered, and an engine that held none takes a new record. -/
def stepTaken (g : Grid) (t : HaloStage) (now : Nat) (h : He) : He :=
  { h with
    grids := if h.grids.any fun x => x.id = g.id && x.part == g.part then h.grids else h.grids ++ [g]
    stages := h.stages ++ [t]
    ready := max h.ready (now + 1)
    wd := { h.wd with since := now, hold := none } }

/-- HSTEP (R309), a logged word. -/
def execHstep (w : A2W) (s : State) : Outcome State Fault Refusal :=
  loggedWord w.st 0x25 0 none (do
    operands [w.a.toNat, w.b.toNat] []
    let a ← gr w.a.toNat
    let b ← gr w.b.toNat
    raiseIf (fieldOf a 16 48 != 0) tPROT a
    raiseIf (fieldOf b 32 32 != 0) tPROT b
    let (g, idx) ← haloGrid (.hstep w) a
    let r ← haloRecord g idx
    let n := b.toNat
    let c := commitIn r
    raiseIf (n = stepNone || n % max 1 g.depth != 0 || (c != stepNone && n != c + g.depth)) tHALO (haloVal c 0 false false true)
    waitQuiet
    let s ← gets (fun s => s)
    let core := curCore s
    let d := dieOfCore core
    waitIf (decide (2^24 < stagingUsed s d + outBytes g idx)) kQuiet 0
    waitIf (c != stepNone && sentIn r % 2^g.faces != 2^g.faces - 1) kQuiet 0
    let base := mapBase (g.entry idx)
    let read := g.interior.filter (readInStep g idx)
    match read.find? fun i => hasBad s (scrKey core (base + i * g.cellBytes)) g.cellBytes with
    | some i => stop (.trapIn (poisonSlots s core (base + i * g.cellBytes) g.cellBytes) tPOISON (wd (0xFE * 2^48 + base + i * g.cellBytes)))
    | none => pure ()
    let cells := read.map fun i => (i, scrBytes s core (base + i * g.cellBytes) (i * g.cellBytes) g.cellBytes)
    haloStore g.part.toNat (g.state + 64 * idx + 0x18) (natBytes 4 n ++ natBytes 4 n ++ [0])
    upd fun s =>
      let t := modHe { s with free := s.free + g.frameBytes } d (stepTaken g ⟨g.part, g.id, idx, n, cells, []⟩ s.now)
      traceHe d g.part.toNat 0x01 n (g.state + 64 * idx) 6
        (modCur t fun x => { x with engOut := x.engOut ++ [.halo (BitVec.ofNat 16 g.id) idx (BitVec.ofNat 32 n)] })
    pure 0) s

/-- The lowest face of a list for which a condition on its tag holds, with the tag. -/
def firstFace (r : List Byte) (l : List Nat) (f : Nat → Bool) : Option (Nat × Nat) :=
  (l.filterMap fun k => if f (tagIn r k) then some (k, tagIn r k) else none).head?

/-- The object of a halo wait: grid id and face (spec/19_observation.md R407). -/
def haloObj (g : Grid) (face : Nat) : Word := wd (g.id + 2^16 * face)

/-- HWAIT (R311). -/
def execHwait (w : A2W) (s : State) : Outcome State Fault Refusal :=
  ctxWord w.st (do
    operands [w.a.toNat, w.b.toNat] []
    let a ← gr w.a.toNat
    let b ← gr w.b.toNat
    raiseIf (fieldOf a 16 48 != 0) tPROT a
    raiseIf (fieldOf b 32 32 != 0) tPROT b
    let (g, idx) ← haloGrid (.hwait w) a
    let r ← haloRecord g idx
    let fs := upto g.faces
    match firstFace r fs fun t => t != stepNone && decide (b.toNat < t) with
    | some (f, t) => raise tHALO (haloVal t f true false false)
    | none =>
      match firstFace r fs fun t => t != b.toNat with
      | some (f, _) => stop (.wait 6 (haloObj g f))
      | none => acquireAt 1) s

/-- HQRY (R312). -/
def execHqry (w : D3W) (s : State) : Outcome State Fault Refusal :=
  ctxWord w.st (do
    operands [w.a.toNat, w.b.toNat] [w.d.toNat]
    let a ← gr w.a.toNat
    let b ← gr w.b.toNat
    raiseIf (fieldOf a 16 48 != 0) tPROT a
    let (g, idx) ← haloGrid (.hqry w) a
    let r ← haloRecord g idx
    let k := b.toNat
    gw w.d.toNat (wd (if k < 6 then tagIn r k else if k = 6 then commitIn r else if k = 7 then relIn r else 0)) Config.latDie true false) s

/-! Grid loads and stores (R313 to R316). -/

/-- Faces of a list in ascending order without repeats. -/
def facesOf (l : List (Option Nat)) : List Nat := (upto 6).filter fun f => l.contains (some f)

/-- The step check of faces `l` for step `n` (R313): passed, or the trap or the stall. -/
def stepCheck (g : Grid) (r : List Byte) (l : List Nat) (n : Nat) (halop : Bool) : Op Unit := do
  match firstFace r l fun t => t != stepNone && decide (n < t) with
  | some (f, t) => raise tHALO (haloVal t f true false false)
  | none =>
    match firstFace r l fun t => t = stepNone || decide (t < n) with
    | none => pure ()
    | some (f, t) => if halop then raise tHALO (haloVal t f false false false) else stop (.waitGrid (haloObj g f) (haloVal t f false false false))

/-- The record is read and checked if a face is to be checked (R313). -/
def gridCheck (g : Grid) (idx : Nat) (l : List Nat) (n : Nat) (halop : Bool) : Op Unit := do
  if l.isEmpty then pure ()
  else do
    let r ← haloRecord g idx
    stepCheck g r l n halop

/-- LDG (R314). -/
def execLdg (w : LdgW) (s : State) : Outcome State Fault Refusal :=
  ctxWord w.st (do
    operands [w.a.toNat, w.b.toNat] [w.d.toNat]
    let va ← gr w.a.toNat
    let b ← gr w.b.toNat
    let s ← gets (fun s => s)
    let core := curCore s
    let off := fieldOf va 0 22
    let n := 2^w.z.toNat
    raiseIf (!(fieldOf va 22 42 = 0xFE * 2^26 || (fieldOf va 29 35 = 0xFD * 2^19 && fieldOf va 22 7 = core))) tPROT va
    raiseIf (va.toNat % n != 0) tALIGN va
    raiseIf (fieldOf b 32 32 != 0) tPROT b
    match frameAt s core off with
    | none => raise tPROT va
    | some (g, idx, base) => do
      raiseIf (decide (base + g.frameBytes < off + n)) tPROT va
      gridCheck g idx (facesOf ((upto n).map fun i => faceOfByte g base (off + i))) b.toNat (curMode s |>.getLsbD 2)
      needEntry
      let v ← readAt (.scr core off) va n
      watch va n true false
      holdEntry Config.latOwn
      gw w.d.toNat (wd v) Config.latOwn true w.q) s

/-- The frame that a VLDG or VSTG names; ILLOP where none is registered on the core. -/
def engFrame (id : Nat) : Op (Grid × Nat × Nat) := do
  let s ← gets (fun s => s)
  let q ← curSeqr
  match (framesOf s (curCore s)).find? fun x => x.1.id = id && x.1.part == q.part with
  | some x => pure x
  | none => do
    illopIf true
    stop (.wait 0 0)

/-- Every byte of the elements lies in the frame, else PROT with the element's offset. -/
def inFrame (g : Grid) (base b : Nat) (l : List (Nat × Nat)) : Op Unit :=
  match l.find? fun p => decide (p.1 < base) || decide (base + g.frameBytes < p.1 + b) with
  | some p => raise tPROT (wd p.1)
  | none => pure ()

/-- VLDG (R315). -/
def execVldg (w : EngW) (s : State) : Outcome State Fault Refusal :=
  engWord w.fl (do
    versionCheck w [w.fmt.toNat]
    let s ← gets (fun s => s)
    let c := curCore s
    let q ← curSeqr
    let l := w.mod.toNat % 8
    illopIf (!(nth (lvlsOf s c .ve) l noLvl).used)
    let (g, idx, base) ← engFrame w.immA.toNat
    raiseTagIf (w.fmt.toNat != g.fmt) 18 w.fmt.toNat
    let b := elemBytes w.fmt.toNat
    let ea ← eaOf w
    let inc ← includedB w b
    let at' (e : Nat) : Int := ea + (e * b : Nat)
    let els := addrsOf inc at'
    checkAll els b false
    inFrame g base b els
    let v ← gets curVe
    let step := ((tget v.k (w.c.toNat - 0x80) 0).toNat + w.immB.toNat + nbits w.mod.toNat 3 3 * nth q.idx l 0) % 2^32
    gridCheck g idx (facesOf (els.map fun p => faceOfByte g base p.1)) step ((seenPart s q.part.toNat).mode.getLsbD 2)
    loadElems w at') (settleVe (curCore s) s)

/-- VSTG (R315). -/
def execVstg (w : EngW) (s : State) : Outcome State Fault Refusal :=
  engWord w.fl (do
    versionCheck w [w.fmt.toNat]
    let (g, idx, base) ← engFrame w.immA.toNat
    raiseTagIf (w.fmt.toNat != g.fmt) 16 w.fmt.toNat
    let a ← srcF w 0 w.a
    let b := elemBytes w.fmt.toNat
    let ea ← eaOf w
    let inc ← includedB w b
    let at' (e : Nat) : Int := ea + (e * b : Nat)
    let els := addrsOf inc at'
    checkAll els b true
    inFrame g base b els
    match els.find? fun p =>
      match faceOfByte g base p.1 with
      | some f => !(g.atEdge idx f && g.rule f = 5)
      | none => false with
    | some p => raise tPROT (wd p.1)
    | none => storeElems w a at') (settleVe (curCore s) s)

/-- GRID_LOAD_TIMEOUT (R313): the stalled grid load of the running stream raises STALE_HALO with TIMEOUT. -/
def execGridLoadTimeout (s : State) : Outcome State Fault Refusal :=
  match s.cur with
  | .ctx _ _ =>
    match (curCtx s).waiting with
    | some w => .next (if w.kind = 8 then takeTrap tHALO (w.val ||| BitVec.ofNat 64 (2^36)) s else s)
    | none => .next s
  | .ve c =>
    match (seqrOf s c.toNat .ve).waiting with
    | some w => .next (if w.kind = 8 then engFault c.toNat .ve tHALO (w.val ||| BitVec.ofNat 64 (2^36)).toNat 0 s else s)
    | none => .next s
  | _ => .next s

/-! The halo engine (R309, R310). -/

/-- The halo engine whose action runs. -/
def curHe (s : State) : Nat := agentDie s.cur

/-- The cell of partition `p` from which cell `i` of a physical face is filled (R305). -/
def ruleCell (g : Grid) (f i : Nat) : Nat :=
  let k := f / 2
  let n : Int := g.n k
  let x := g.cellAt i k
  let y := if g.rule f = 2 then (if f % 2 = 0 then 0 else n - 1) else if f % 2 = 0 then -x - 1 else 2 * n - 1 - x
  let c (j : Nat) : Int := if j = k then y else g.cellAt i j
  g.cellIdx (c 0) (c 1) (c 2)

/-- The sender's cell that cell `i` of the receiver's face `f` takes. -/
def stripCell (g : Grid) (f i : Nat) : Nat :=
  let k := f / 2
  let n : Int := g.n k
  let x := g.cellAt i k
  let y := if f % 2 = 0 then n + x else x - n
  let c (j : Nat) : Int := if j = k then y else g.cellAt i j
  g.cellIdx (c 0) (c 1) (c 2)

/-- The other face of a dimension. -/
def opposite (f : Nat) : Nat := if f % 2 = 0 then f + 1 else f - 1

/-- A cell of a partition in a step: staged if interior, else the frame's ghost. -/
def stepCell (s : State) (g : Grid) (t : HaloStage) (core base i : Nat) : List Byte :=
  match tget? t.cells i with
  | some l => l
  | none => scrBytes s core (base + i * g.cellBytes) (i * g.cellBytes) g.cellBytes

/-- An element negated as rule 4 says (R305). -/
def negElem (f x : Nat) : Nat :=
  let w := fmtBits f
  if fpCode f then (if isNan (valOf false f x) then (fpFmt f).nanP else x ^^^ 2^(w - 1)) else (2^w - x % 2^w) % 2^w

/-- What a boundary rule puts into cell `i` of face `f`. -/
def ruleBytes (s : State) (g : Grid) (t : HaloStage) (core base f i : Nat) : List Byte :=
  if g.rule f = 1 then (List.replicate g.ncomp (natBytes g.eb (g.fixv f))).flatten
  else
    let l := stepCell s g t core base (ruleCell g f i)
    if g.rule f = 4 then ((chunkNats g.eb l.length l).map fun x => natBytes g.eb (negElem g.fmt x)).flatten else l

/-- Write cells into a frame. -/
def putCells (s : State) (g : Grid) (core base : Nat) (l : List (Nat × List Byte)) : State :=
  l.foldl (fun t p =>
    let o := base + p.1 * g.cellBytes
    storeBytes (spoil t core o p.2.length) (scrKey core o) p.2) s

/-- A write of these cells would cover part of an uncorrectable word (spec/06_scratchpad.md R135). -/
def cutCells (s : State) (g : Grid) (core base : Nat) (l : List (Nat × List Byte)) : Bool :=
  l.any fun p => badEdge s (scrKey core (base + p.1 * g.cellBytes)) p.2.length

/-- A cell of a frame that a step reads, unless it is staged, holds an uncorrectable word. -/
def badCell (s : State) (g : Grid) (t : HaloStage) (core base i : Nat) : Bool :=
  (tget? t.cells i).isNone && hasBad s (scrKey core (base + i * g.cellBytes)) g.cellBytes

/-- A face is tagged: its region reads as written again (R316). -/
def tagged (core : Nat) (g : Grid) (f : Nat) (s : State) : State :=
  if (coreOf s core).ghostStale.isEmpty then s
  else modCore s core fun k => { k with ghostStale := k.ghostStale.filter fun e => !(e == (g.id, f)) }

/-- A step of a partition leaves the engine: every context's list of outstanding steps too (spec/11_ordering.md R257). -/
def haloForget (d : Nat) (t : HaloStage) (s : State) : State :=
  let w : EngOut := .halo (BitVec.ofNat 16 t.grid) t.idx (BitVec.ofNat 32 t.step)
  let f (x : Ctx) : Ctx := { x with engOut := x.engOut.filter fun e => !(e == w) }
  let core := match gridOn s d t.part.toNat t.grid with
    | some g => mapCore (g.entry t.idx)
    | none => 0
  let s1 := modHe s d fun h => { h with stages := h.stages.filter fun x => !(x.grid = t.grid && x.part == t.part && x.idx = t.idx) }
  modAllCtx (modHe s1 d fun h => { h with full := h.full.erase (.step t) }) core fun _ x => f x

/-- The record is written with SENT bit `f` set, a mark (R318), or the refusal; with every used face sent the step is complete. -/
def setSent (d : Nat) (g : Grid) (idx f : Nat) (r : List Byte) (s : State) : Option (UErr × Nat) × State :=
  let v := sentIn r ||| 2^f
  let p := g.part.toNat
  match dieWrite s d p (g.state + 64 * idx + 0x20) [BitVec.ofNat 8 v] with
  | (some e, t) => (some e, t)
  | (none, t0) =>
    let t := traceHe d p 0x02 (commitIn r) v f (modHe t0 d fun h => { h with sentAt := some s.now, wd := { h.wd with since := s.now, hold := none } })
    (none, if v % 2^g.faces = 2^g.faces - 1 then
      match (dieOf t d).he.stages.find? fun x => x.grid = g.id && x.part == g.part && x.idx = idx with
      | some x => traceHe d p 0x03 x.step 2 0 (haloForget d x t)
      | none => t
    else t)

/-- Write a tag: the refusal, if any. -/
def setTag (d : Nat) (g : Grid) (idx f n : Nat) (s : State) : Option (UErr × Nat) × State :=
  dieWrite s d g.part.toNat (g.state + 64 * idx + 4 * f) (natBytes 4 n)

/-- The first face of a staged step that may be handled: every face of every lower dimension carries its tag (R309). -/
def nextFace (g : Grid) (t : HaloStage) (r : List Byte) : Option Nat :=
  (upto g.faces).find? fun f => !t.handled.contains f && (upto (2 * (f / 2))).all fun e => tagIn r e = t.step

/-- The first staged step of a die with such a face; a refused read of a record comes with its VA. -/
def nextStage (s : State) (d : Nat) (l : List HaloStage) : Except (HaloStage × UErr × Nat) (Option (HaloStage × Grid × Nat × List Byte)) :=
  match l with
  | [] => .ok none
  | t :: rest =>
    match gridOn s d t.part.toNat t.grid with
    | none => nextStage s d rest
    | some g =>
      match (dieRead s d t.part.toNat (g.state + 64 * t.idx) 64).1 with
      | .error (e, va) => .error (t, e, va)
      | .ok r =>
        match nextFace g t r with
        | some f => .ok (some (t, g, f, r))
        | none => nextStage s d rest

/-- A strip leaves staging. -/
def dropStrip (d : Nat) (x : Strip) (s : State) : State :=
  modHe s d fun h => { h with strips := h.strips.filter fun y => !(y == x), full := h.full.erase (.strip x) }

/-- An operation ends unfinished: its step or strip leaves the engine. -/
def heEnd (d : Nat) (o : HeOp) (s : State) : State :=
  match o with
  | .step t => haloForget d t s
  | .strip x => dropStrip d x s

/-- What an operation concerns: partition, grid, step, and the face of the sender or, of a peer's strip, the receiver. -/
def HeOp.names (o : HeOp) : Nat × Nat × Nat × Nat :=
  match o with
  | .step t => (t.part.toNat, t.grid, t.step, ((upto 6).find? fun f => !t.handled.contains f).getD 0)
  | .strip x => (x.part.toNat, x.grid, x.step, match x.sender with
    | some e => e.2
    | none => x.face)

/-- An operation ends with a status: a trace record, and HALOFAULT with the grid id and the face (spec/18_recovery.md R400; log 48). -/
def heFault (d : Nat) (o : HeOp) (status : Nat) (s : State) : State :=
  match o.names with
  | (p, g, n, f) => sendEvent (p + 1) 0x60 (numberedBytes 4 (natBytes 2 g ++ natBytes 1 f ++ natBytes 1 status)) (traceHe d p 0x03 n status f (heEnd d o s))

/-- A refused access of an operation for partition `p`: held on the fault queue, to be tried again where the queue is full, or the
operation's end. Only that operation stops (spec/10_pages.md R229, R230). -/
def heRefused (d p : Nat) (e : UErr) (va : Nat) (write : Bool) (o : HeOp) (s : State) : State :=
  match e with
  | .code k => heFault d o (statusOf k) s
  | .walk r =>
    let n := (dieOf s d).he.holds
    match unitHold s d p va write false r 6 0 [.halo (BitVec.ofNat 2 d) n] with
    | some t => modHe t d fun h => { h with held := tput h.held n o, holds := n + 1, full := h.full.erase o, ready := s.now + 1 }
    | none =>
      modHe (fqHold d 6 0 va s) d fun h => { h with full := if h.full.contains o then h.full else h.full ++ [o], ready := s.now + 1 }

/-- The operations that a fault does not stop. -/
def stopped? (h : He) (o : HeOp) : Bool := h.held.any (fun e => e.2 == o) || h.full.contains o
/-- The staged steps that may go on. -/
def He.openStages (h : He) : List HaloStage := h.stages.filter fun t => !stopped? h (.step t)
/-- The strips that may go on. -/
def He.openStrips (h : He) : List Strip := h.strips.filter fun x => !stopped? h (.strip x)

/-- A face of a staged step has been handled. -/
def noteHandled (d : Nat) (t : HaloStage) (f : Nat) (s : State) : State :=
  modHe s d fun h =>
    { h with stages := h.stages.map fun x =>
        if x.grid = t.grid && x.part == t.part && x.idx = t.idx then { x with handled := x.handled ++ [f] } else x }

/-- Bytes in runs of at most 200, each with its position (spec/15_fabric.md R324): with the 8-byte descriptor, the 16 bytes that
name the strip and the 16 of a tag they fill a payload. -/
def stripChunks (fuel pos : Nat) (l : List Byte) : List (Nat × List Byte) :=
  match fuel with
  | 0 => []
  | fuel + 1 => if l.isEmpty then [] else (pos, l.take 200) :: stripChunks fuel (pos + 200) (l.drop 200)

/-- What a strip sends to another package: its data on VC0, its tag as a signal behind it (R317). The fields of the transactions are
the model's (log 24). -/
def stripTx (s : State) (d p peer : Nat) (x : Strip) (kind : TxKind) (pos n : Nat) : Tx :=
  { unitTx s kind 6 (32 * d) p peer 0 n with operand := wd (x.grid + 2^16 * x.idx + 2^56 * x.face), expect := wd (x.step + 2^32 * pos) }

/-- The bytes of a strip in the order of its cells. -/
def Strip.bytes (x : Strip) : List Byte := (x.cells.map (·.2)).flatten

/-- Send a strip's data to another package; its tag waits for the acknowledgements (R317). -/
def sendStrip (d p peer : Nat) (x : Strip) (s : State) : State :=
  let r := (stripChunks (x.bytes.length + 1) 0 x.bytes).foldl (fun t c =>
    let u := sendTx t.1 { stripTx t.1 d p peer x .write c.1 c.2.length with data := c.2 }
    (u.2, t.2 ++ [u.1])) (s, [])
  modHe r.1 d fun h => { h with strips := h.strips ++ [{ x with outs := r.2 }] }

/-- Send the tag of a strip whose data are acknowledged, as a signal behind every write of the package (R317, spec/12_semaphores.md R273). -/
def sendTag (d : Nat) (x : Strip) (s : State) : State :=
  let p := x.part.toNat
  match gridOn s d p x.grid with
  | none => s
  | some g =>
    let t := stripTx s d p (mapPeer (g.entry x.idx)) x .signal x.bytes.length 0
    let i := s.reqId
    let u := queueSig i 0 (openWrites s) t { s with reqId := s.reqId + 1 }
    modHe u d fun h => { h with strips := h.strips.map fun y => if y == x then { y with outs := [], sent := some i } else y }

/-- A strip, or the fill of a face, waits in staging; a refused access holds it there (spec/10_pages.md R230). -/
def keepStrip (d p : Nat) (e : UErr × Nat) (write : Bool) (x : Strip) (s : State) : State :=
  heRefused d p e.1 e.2 write (.strip x) (modHe s d fun h => { h with strips := h.strips ++ [x] })

/-- The sender's SENT bit of a strip that has landed (R309): its record is read and written, or the strip waits for that. -/
def markSent (d : Nat) (x : Strip) (g : Grid) (s : State) : State :=
  match x.sender with
  | none => s
  | some (idx, f) =>
    let y : Strip := { x with outs := [], sent := none, done := true }
    match dieRead s d x.part.toNat (g.state + 64 * idx) 64 with
    | (.error e, t) => keepStrip d x.part.toNat e false y t
    | (.ok r, t) =>
      match setSent d g idx f r t with
      | (some e, u) => keepStrip d x.part.toNat e true y u
      | (none, u) => u

/-- A strip or a fill is written into its receiver's frame on core `core`, its tag after it, then the sender's SENT bit or the answer to its peer
(R309, R310). A write that would cover part of an uncorrectable word ends it with POISON (spec/06_scratchpad.md R135). -/
def landStrip (d core base : Nat) (g : Grid) (x : Strip) (cells : List (Nat × List Byte)) (done : State → State) (s : State) : State :=
  if cutCells s g core base cells then heFault d (.strip x) 0x17 s
  else
    match setTag (dieOfCore core) g x.idx x.face x.step (tagged core g x.face (putCells s g core base cells)) with
    | (some e, t) => keepStrip d x.part.toNat e true x t
    | (none, t) => if x.sender.isSome then markSent d x g t else done t

/-- One face of a committed step (R309). -/
def faceFill (d : Nat) (l : List HaloStage) (s : State) : Outcome State Fault Refusal :=
  match nextStage s d l with
  | .error (t, e, va) => .next (heRefused d t.part.toNat e va false (.step t) s)
  | .ok none => .next s
  | .ok (some (t, g, f, _)) =>
    let e := g.entry t.idx
    let core := mapCore e
    let base := mapBase e
    let p := t.part.toNat
    let s0 := modHe { s with free := s.free + g.frameBytes } d fun h => { h with ready := s.now + 1 }
    if g.physical t.idx f then
      let cells := if g.rule f = 5 then [] else (g.region f).map fun i => (i, ruleBytes s g t core base f i)
      let read := if 2 ≤ g.rule f && g.rule f ≤ 4 then (g.region f).map (ruleCell g f) else []
      if read.any (badCell s g t core base) || cutCells s g core base cells then .next (heFault d (.step t) 0x17 s)
      else
        let x : Strip := { part := t.part, grid := t.grid, idx := t.idx, face := f, step := t.step, cells := cells, sender := some (t.idx, f) }
        .next (landStrip d core base g x cells id (noteHandled d t f s0))
    else
      let q := g.neighbour t.idx f
      let tf := opposite f
      let cells := (g.region tf).map fun i => (i, stepCell s g t core base (stripCell g tf i))
      if (g.region tf).any fun i => badCell s g t core base (stripCell g tf i) then .next (heFault d (.step t) 0x17 s)
      else
      let x : Strip := { part := t.part, grid := t.grid, idx := q, face := tf, step := t.step, cells := cells, sender := some (t.idx, f),
                           due := s.now + (if dieOfCore (mapCore (g.entry q)) = d then Config.latStrip else Config.latStripBridge) }
      let s1 := noteHandled d t f s0
      let peer := mapPeer (g.entry q)
      .next (if peer = s.peer.toNat then modHe s1 d fun h => { h with strips := h.strips ++ [x] } else sendStrip d p peer x s1)

/-- The grid of a strip as the die of its receiver has registered it. -/
def stripGrid (s : State) (x : Strip) : Option Grid :=
  ((upto 4).filterMap fun d =>
    match gridOn s d x.part.toNat x.grid with
    | some g => if mapPeer (g.entry x.idx) = s.peer.toNat && dieOfCore (mapCore (g.entry x.idx)) = d then some g else none
    | none => none).head?

/-- Runs of bytes that follow one another from position `n`. -/
def runsFrom (n : Nat) (l : List (Nat × List Byte)) : Bool :=
  match l with
  | [] => true
  | (k, b) :: r => k = n && runsFrom (n + b.length) r

/-- Every byte of a strip has come: those of a peer's cover its region (R307). -/
def wholeStrip (g : Grid) (x : Strip) : Bool :=
  x.sender.isSome || (runsFrom 0 x.cells && x.bytes.length = (g.region x.face).length * g.cellBytes)

/-- A peer's strip has landed before: its face carries its tag or a later one (R318). -/
def landedBefore (r : List Byte) (x : Strip) : Bool :=
  x.sender.isNone && tagIn r x.face != stepNone && decide (x.step ≤ tagIn r x.face)

/-- A strip may land: its bytes have crossed to the receiver, it is whole, its grid registered, and REL equal to its step (R310). One that has landed waits only for its sender's record.
A refused read of a record comes with its VA. -/
def stripReady (s : State) (d : Nat) (x : Strip) : Except (UErr × Nat) (Option (Grid × List Byte)) :=
  if x.done then
    match x.sender, gridOn s d x.part.toNat x.grid with
    | some (idx, _), some g =>
      match (dieRead s d x.part.toNat (g.state + 64 * idx) 64).1 with
      | .error e => .error e
      | .ok r => .ok (some (g, r))
    | _, _ => .ok none
  else if x.sent.isSome || !x.outs.isEmpty || (x.sender.isNone && x.sig.isNone) || decide (s.now < x.due) then .ok none
  else
    match stripGrid s x with
    | none => .ok none
    | some g =>
      if !wholeStrip g x then .ok none
      else
      match (dieRead s (dieOfCore (mapCore (g.entry x.idx))) x.part.toNat (g.state + 64 * x.idx) 64).1 with
      | .error e => .error e
      | .ok r => if relIn r = x.step || landedBefore r x then .ok (some (g, r)) else .ok none

/-- The first strip of a die that may land. -/
def nextStrip (s : State) (d : Nat) (l : List Strip) : Except (Strip × UErr × Nat) (Option (Strip × Grid × List Byte)) :=
  match l with
  | [] => .ok none
  | x :: rest =>
    match stripReady s d x with
    | .error (e, va) => .error (x, e, va)
    | .ok (some (g, r)) => .ok (some (x, g, r))
    | .ok none => nextStrip s d rest

/-- The cells of a strip: those of a peer's come as runs of its bytes. -/
def stripCells (g : Grid) (x : Strip) : List (Nat × List Byte) :=
  if x.sender.isSome then x.cells
  else
    let bytes := x.bytes
    let rg := g.region x.face
    (rg.zip (upto rg.length)).map fun p => (p.1, (bytes.drop (p.2 * g.cellBytes)).take g.cellBytes)

/-- Record the status of an applied transaction; each source's last 1,024 are kept. -/
def noteStatus (t : Tx) (status : Nat) (s : State) : State :=
  let k := t.src.toNat
  { s with fab := { s.fab with rxStatus := tput s.fab.rxStatus k (((t.pkt, BitVec.ofNat 8 status) :: tget s.fab.rxStatus k []).take 1024) } }

/-- The acknowledgement of a peer's transaction. -/
def ackTx (s : State) (t : Tx) (status : Nat) : Tx :=
  { t with kind := .ack, src := s.peer, dest := t.src, data := [], status := BitVec.ofNat 8 status }

/-- One held strip is written into its receiver's frame, the tag set, the sender's SENT bit after it (R310). -/
def stripLanding (d : Nat) (l : List Strip) (s : State) : Outcome State Fault Refusal :=
  match nextStrip s d l with
  | .error (x, e, va) => .next (heRefused d x.part.toNat e va false (.strip x) s)
  | .ok none => .next s
  | .ok (some (x, g, r)) =>
    let s0 := modHe (dropStrip d x s) d fun h => { h with ready := s.now + 1 }
    if x.done then .next (markSent d x g s0)
    else
      let e := g.entry x.idx
      let answer (t : State) : State :=
        match x.sig with
        | some w => queueRsp (ackTx t w 0) (noteStatus w 0 t)
        | none => t
      .next (if landedBefore r x then answer s0 else landStrip d (mapCore e) (mapBase e) g x (stripCells g x) answer s0)

/-- The operation that has held longest since it met a full fault queue is tried again (spec/10_pages.md R229). -/
def heRetry (d : Nat) (s : State) : Outcome State Fault Refusal :=
  match (dieOf s d).he.full with
  | [] => .next s
  | o :: _ =>
    let again (r : Except (UErr × Nat) Unit) : State :=
      match r with
      | .error (e, va) => heRefused d o.names.1 e va false o s
      | .ok _ => modHe s d fun h => { h with full := h.full.erase o, ready := max h.ready (s.now + 1) }
    match o with
    | .step t =>
      match nextStage s d [t] with
      | .error (_, e, va) => .next (again (.error (e, va)))
      | .ok _ => .next (again (.ok ()))
    | .strip x =>
      match nextStrip s d [x] with
      | .error (_, e, va) => .next (again (.error (e, va)))
      | .ok _ => .next (again (.ok ()))

/-- After the retry of what met a full fault queue. -/
def afterRetry (d : Nat) (f : State → Outcome State Fault Refusal) (s : State) : Outcome State Fault Refusal :=
  match heRetry d s with
  | .next t => f t
  | r => r

/-- FACE_FILL (R309): one face of a committed step. -/
def execFaceFill (s : State) : Outcome State Fault Refusal :=
  let d := curHe s
  afterRetry d (fun t => faceFill d (dieOf t d).he.openStages t) s
/-- STRIP_LANDING (R310): one strip. -/
def execStripLanding (s : State) : Outcome State Fault Refusal :=
  let d := curHe s
  afterRetry d (fun t => stripLanding d (dieOf t d).he.openStrips t) s

/-- A run takes its place by position; one that comes again replaces the first. -/
def insertRun (n : Nat) (b : List Byte) (l : List (Nat × List Byte)) : List (Nat × List Byte) :=
  match l with
  | [] => [(n, b)]
  | (k, c) :: r => if n < k then (n, b) :: (k, c) :: r else if n = k then (n, b) :: r else (k, c) :: insertRun n b r

/-- A peer's strip or its tag arrives (R310, R317): held by the engine of die 0 until it may land. -/
def heArrive (t : Tx) (s : State) : State :=
  let grid := fieldOf t.operand 0 16
  let idx := fieldOf t.operand 16 40
  let face := fieldOf t.operand 56 8
  let step := fieldOf t.expect 0 32
  let same (x : Strip) : Bool := x.part == t.part && x.grid = grid && x.idx = idx && x.face = face && x.step = step && x.sender.isNone
  modHe s 0 fun h =>
    let l := if h.strips.any same then h.strips
      else h.strips ++ [{ part := t.part, grid := grid, idx := idx, face := face, step := step, cells := [], sender := none }]
    { h with
      strips := l.map fun x =>
        if same x then
          (match t.kind with
          | .signal => { x with sig := some t }
          | _ => { x with cells := insertRun (fieldOf t.expect 32 32) t.data x.cells })
        else x }

/-- A strip that this engine keeps until it may land has this tag: a second copy of it is answered by the landing (spec/15_fabric.md R328). -/
def heKeeps (t : Tx) (s : State) : Bool :=
  (dieOf s 0).he.strips.any fun x =>
    match x.sig with
    | some w => w.src == t.src && w.pkt == t.pkt
    | none => false

/-- The answer to a write or tag of a strip that was sent to a peer: refused, the operation ends with the target's status; the last write
lets the tag leave, and the tag sets the sender's SENT bit (R309, R317). -/
def heAcked (id status : Nat) (s : State) : State :=
  (upto 4).foldl (fun s d =>
    match (dieOf s d).he.strips.find? fun x => x.sent == some id || x.outs.contains id with
    | none => s
    | some x =>
      if status != 0 then heFault d (.strip x) status s
      else if x.sent == some id then
        match gridOn s d x.part.toNat x.grid with
        | some g => markSent d x g (dropStrip d x s)
        | none => dropStrip d x s
      else
        let y := { x with outs := without x.outs id }
        let t := modHe s d fun h => { h with strips := h.strips.map fun z => if z == x then y else z }
        if y.outs.isEmpty then sendTag d y t else t) s

/-- The engine restarts from the records and staging (R318): a strip that was on its way to another package is sent again, a strip or a fill
that waits in staging goes on with the bytes that it has, and the faces that are in neither and not sent are handled. -/
def restartHe (d : Nat) (s : State) : State :=
  let gone (x : Strip) : Bool := x.sent.isSome || !x.outs.isEmpty
  (dieOf s d).he.strips.foldl (fun t x =>
      match gone x, gridOn t d x.part.toNat x.grid with
      | true, some g => sendStrip d x.part.toNat (mapPeer (g.entry x.idx)) { x with outs := [], sent := none } t
      | _, _ => t)
    (modHe s d fun h => { h with strips := h.strips.filter fun x => !gone x, full := [], held := [] })

end Sys2Proof.Machine
end

