-- ==== Sys2Proof/Machine/Collective.lean ====
section
/-! DEFINITION. The collective engine: queues, packets, combination, completion (spec/15_fabric.md R338 to R341,
spec/02_numbers.md R42, R439). -/

namespace Sys2Proof.Machine

open Host (Outcome)

/-- A collective engine. -/
def xeOf (s : State) (d : Nat) : Xe := (dieOf s d).xe
/-- Change a collective engine. -/
def modXe (s : State) (d : Nat) (f : Xe → Xe) : State := modDie s d fun x => { x with xe := f x.xe }
/-- Store a packet in service. -/
def putXeJob (s : State) (d : Nat) (j : XeJob) : State := modXe s d fun e => { e with jobs := tput e.jobs j.queue j }
/-- The collective engine whose action runs. -/
def curXe (s : State) : Nat := agentDie s.cur

/-! Packets. -/

/-- A field of a packet. -/
def XeJob.f (j : XeJob) (off n : Nat) : Nat := recF j.pkt off n
def XeJob.seq (j : XeJob) : Nat := j.f 4 4
/-- FLAGS bit `n`: 0 IRQ, 5 BARV. -/
def XeJob.flag (j : XeJob) (n : Nat) : Bool := nbits (j.f 1 1) n 1 = 1
def XeJob.bar (j : XeJob) : Nat := j.f 0x38 4

/-- Fields of a contribution's packet: kind, elements, format, operation, root, table, instance, rank, ranks, overflow policy. -/
def Contrib.f (x : Contrib) (off n : Nat) : Nat := recF x.pkt off n
def Contrib.kind (x : Contrib) : Nat := x.f 0 1
def Contrib.count (x : Contrib) : Nat := x.f 0x18 4
def Contrib.fmt (x : Contrib) : Nat := x.f 0x1C 1
def Contrib.op (x : Contrib) : Nat := x.f 0x1D 1
def Contrib.root (x : Contrib) : Nat := x.f 0x1E 2
def Contrib.group (x : Contrib) : Nat := x.f 0x20 8
def Contrib.inst (x : Contrib) : Nat := x.f 0x28 4
def Contrib.rank (x : Contrib) : Nat := x.f 0x2C 2
def Contrib.nrank (x : Contrib) : Nat := x.f 0x2E 2
def Contrib.ovf (x : Contrib) : Nat := x.f 0x34 1

/-- Bytes of an element. -/
def collBytes (fmt : Nat) : Nat := if fmt = 2 then 2 else 4

/-- The packet of a job as a contribution of `data`. -/
def XeJob.contrib (j : XeJob) (data : List Byte) : Contrib := { part := j.part, pkt := j.pkt, arrival := j.arrival, nbv := j.nbv, data := data }

/-- Fields out of range, not zero where they must be, or that break a relation (R338, R339). -/
def Contrib.badPkt (x : Contrib) : Bool :=
  let fl := x.f 1 1
  let k := x.kind
  nbits fl 1 4 != 0 || nbits fl 6 2 != 0 || x.count = 0 || 2^28 < x.count || !(x.fmt = 1 || x.fmt = 2 || x.fmt = 5) ||
    2 < x.op || (2 < k && x.op != 0) || (k != 4 && x.root != 0) || x.nrank = 0 || 4096 < x.nrank || x.nrank ≤ x.rank ||
    x.nrank ≤ x.root || x.group % 8 != 0 || 3 < x.ovf || x.f 0x35 3 != 0 || nbits (x.f 0x38 4) 29 3 != 0 ||
    nbits (x.f 0x3F 1) 2 6 != 0 || isRemote (x.f 8 8) || isRemote (x.f 0x10 8) ||
    ((k = 2 || k = 5) && x.count % x.nrank != 0) || (nbits fl 0 1 = 1 && x.f 0x3F 1 = 3)

/-- The barrier a packet names, where it names one (spec/12_semaphores.md R276). -/
def XeJob.barrier (j : XeJob) (s : State) : Option (Nat × Nat) :=
  let c := nbits j.bar 22 7
  let o := nbits j.bar 0 22
  if j.flag 5 && coreInPart s j.part.toNat c && o % 16 = 0 && o < 0x2F0000 then some (c, o) else none

/-! Memory. -/

/-- Resolve an access of the engine for the rank on core `core`: scratchpad windows, else the die's shared TLB. -/
def xeTgt (d core p : Nat) : Resolver := fun s need va k =>
  let top := va / 2^48
  if top = 0xFD || top = 0xFE then unitTgt s core p need va k else dieTgt s d p need va k

/-- Write a field of the packet: the refusal, if any. -/
def xePut (s : State) (d : Nat) (j : XeJob) (off n v : Nat) : Option (UErr × Nat) × State := dieWrite s d j.part.toNat (j.va + off) (natBytes n v)

/-- A trace record of a collective engine. -/
def traceXe (d : Nat) (j : XeJob) (kind obj a b : Nat) (s : State) : State :=
  traceUnit d 7 (32 * d) j.part.toNat kind 0 0 obj a b 0 s

/-- Hold a job's access on the fault queue, or try again where the queue is full (R338, spec/10_pages.md R229). -/
def xeHold (d : Nat) (j : XeJob) (va : Nat) (write : Bool) (reason : Nat) (s : State) : State :=
  match unitHold s d j.part.toNat va write false reason 7 0 [.collective (BitVec.ofNat 2 d) (BitVec.ofNat 4 j.queue)] with
  | some t => putXeJob t d { j with held := true }
  | none => modXe (fqHold d 7 0 va (putXeJob s d { j with full := true })) d fun e => { e with ready := s.now + 1 }

/-! Ending a packet (R297, R298, R341). -/

/-- The packet has ended, its RIDX written: it leaves the engine. -/
def xeLeave (d : Nat) (j : XeJob) (status : Nat) (s : State) : State :=
  modXe (traceXe d j 0x03 j.seq status 0 s) d fun e =>
    { e with jobs := tdel e.jobs j.queue, last := j.queue, ready := max e.ready (s.now + 1) }

/-- RIDX of a packet that has ended; a walk fault holds the write (spec/10_pages.md R230), another refusal leaves RIDX (log 20). -/
def xeRidx (d : Nat) (j : XeJob) (status : Nat) (s : State) : State :=
  match (match tget? (xeOf s d).slots j.queue with
    | some q => dieWrite s d j.part.toNat (q.desc.toNat + 0x18) (natBytes 8 (j.idx + 1))
    | none => (none, s)) with
  | (some (.walk r, a), t) => xeHold d { j with fin := some (status, true) } a true r t
  | (_, t) => xeLeave d j status t

/-- The record of an ended packet is written: the interrupt on the rank's core, then RIDX. DESIGN CHOICE (log 72): the interrupt goes to the context
that is bound on that core then. DESIGN CHOICE (log 78): CTX[1:0] = 3, with which R338 ends a packet that has IRQ set, interrupts S. -/
def xeTell (d : Nat) (j : XeJob) (status : Nat) (s : State) : State :=
  xeRidx d j status (match (if j.flag 0 then j.core else none) with
    | some c => raiseUi c (ctxOfNum (j.f 0x3F 1 % 4)) (wd j.va) 4 status s
    | none => s)

/-- The end of a packet: STATUS, the interrupt, RIDX. A walk fault holds the write that meets it (spec/10_pages.md R230); a record whose page refuses
the write ends the packet with that status (spec/10_pages.md R237) and keeps its bytes. -/
def xeFinish (d : Nat) (j : XeJob) (status : Nat) (s : State) : State :=
  match xePut s d j 2 2 status with
  | (some (.walk r, a), t) => xeHold d { j with fin := some (status, false) } a true r t
  | (some (.code k, _), t) => xeTell d j (if status = 2 then statusOf k else status) t
  | (none, t) => xeTell d j status t

/-- A packet ends: ERR in the barrier on an error, then its record (R297, R298). -/
def xeEnd (d : Nat) (j : XeJob) (status : Nat) (s : State) : State :=
  xeFinish d j status (match (if status = 2 then none else j.barrier s) with
    | some (c, o) => barrierErr c o s
    | none => s)

/-- A packet whose end waited for a write goes on with it; with `skip` without the write, whose page will not come. -/
def xeEndAgain (d : Nat) (j : XeJob) (status : Nat) (written skip : Bool) (s : State) : State :=
  if written then (if skip then xeLeave d j status s else xeRidx d j status s)
  else if skip then xeTell d j status s else xeFinish d j status s

/-! Contributions (R339). -/

/-- Bytes in runs of at most `n`, each with its position. -/
def chunksOf (fuel n pos : Nat) (l : List Byte) : List (Nat × List Byte) :=
  match fuel with
  | 0 => []
  | fuel + 1 => if l.isEmpty then [] else (pos, l.take n) :: chunksOf fuel n (pos + n) (l.drop n)

/-- A contribution as bytes: COLLORD, whether it was sent on, NBV, the packet, the source (log 24). -/
def Contrib.bytes (x : Contrib) : List Byte := [BitVec.ofNat 8 (x.arrival.toNat + 2 * x.onward.toNat), BitVec.ofNat 8 x.nbv] ++ x.pkt ++ x.data

/-- The contribution that bytes hold. -/
def contribOf (part : BitVec 3) (l : List Byte) : Contrib :=
  ⟨part, (l.drop 2).take 64, recF l 0 1 % 2 = 1, recF l 1 1, l.drop 66, recF l 0 1 / 2 = 1⟩

/-- A contribution reaches the engine of a die of this package. -/
def xeDeliver (x : Contrib) (s : State) (d : Nat) : State :=
  let t := modXe s d fun e => { e with inbox := e.inbox ++ [(s.now, x)] }
  { t with events := t.events ++ [⟨.xe (BitVec.ofNat 2 d), some .partialArrival⟩] }

/-- Send a contribution to die `d'` of another package: its bytes on VC0 in order; the fields are the model's (log 24). -/
def xeSend (d peer d' : Nat) (x : Contrib) (s : State) : State :=
  let l := x.bytes
  let name := s.reqId
  (chunksOf (l.length + 1) 200 0 l).foldl (fun t c =>
    (sendTx t { unitTx t .write 7 (32 * d) x.part.toNat peer d' c.2.length with
      data := c.2, operand := wd name, expect := wd (c.1 + 2^32 * l.length) }).2) { s with reqId := s.reqId + 1 }

/-- The dies that serve ranks: entries of the rank table as (peer, die), each once. -/
def rankDies (l : List Nat) : List (Nat × Nat) :=
  l.foldl (fun a e => withOne a (e % 2^12, dieOfCore (nbits e 12 7))) []

/-- A contribution goes to dies, each a peer and a die. -/
def xeTo (d : Nat) (x : Contrib) (l : List (Nat × Nat)) (s : State) : State :=
  l.foldl (fun t e => if e.1 = s.peer.toNat then xeDeliver x t e.2 else xeSend d e.1 e.2 x t) s

/-- A contribution goes to every engine that serves a rank of its collective. -/
def xeSpread (d : Nat) (x : Contrib) (l : List Nat) (s : State) : State := xeTo d x (rankDies l) s

/-- The dies of the ranks that the table of a job of NRANK ranks names beyond those that contribution `x` of fewer ranks has been sent to. -/
def diesBeyond (j : XeJob) (x : Contrib) : List (Nat × Nat) :=
  if x.nrank < j.table.length then (rankDies j.table).filter fun e => !(rankDies (j.table.take x.nrank)).contains e else []

/-- NRANK differs within a collective (R339): contribution `x` is sent on to the engines that wait for its rank and have not heard of it. -/
def sendOn (d : Nat) (x : Contrib) (s : State) : State :=
  xeTo d { x with onward := true, data := [] } (((xeOf s d).jobs.flatMap fun e =>
    if e.2.part == x.part && e.2.f 0x20 8 = x.group && e.2.f 0x28 4 = x.inst && e.2.sent then diesBeyond e.2 x else []).eraseDups) s

/-- A contribution's bytes arrive from a peer, in order by R328: with the last of them it is delivered. -/
def xeArrive (t : Tx) (s : State) : State :=
  let same (e : Nat × Nat × List Byte) : Bool := e.1 = t.src.toNat && e.2.1 = t.operand.toNat
  let l := ((s.fab.parts.find? same).map (·.2.2)).getD [] ++ t.data
  let rest := s.fab.parts.filter fun e => !same e
  if fieldOf t.expect 32 32 ≤ l.length then
    xeDeliver (contribOf t.part l) { s with fab := { s.fab with parts := rest } } (t.off.toNat % 4)
  else { s with fab := { s.fab with parts := rest ++ [(t.src.toNat, t.operand.toNat, l)] } }

/-! Taking a packet (R338). -/

/-- The rank's core as far as the rank table tells it, for the interrupt of a packet that ends early (R338, R341): a core of the packet's
partition. -/
def rankCore (s : State) (d : Nat) (x : Contrib) : Option Nat :=
  match (dieRead s d x.part.toNat (x.group + 8 * x.rank) 8).1 with
  | .error _ => none
  | .ok l =>
    let e := bytesNat l
    if e % 2^12 = s.peer.toNat && coreInPart s x.part.toNat (nbits e 12 7) then some (nbits e 12 7) else none

/-- Begin or go on with a packet's checks: the rank's core, BAR, SEM, the source; then its contribution leaves. -/
def xeLoad (d : Nat) (j : XeJob) (s : State) : State :=
  let x := j.contrib []
  let p := j.part.toNat
  let j1 := { j with core := rankCore s d x }
  if x.kind = 0 || 5 < x.kind then xeEnd d j1 0x10 s
  else if x.badPkt then xeEnd d j1 0x11 s
  else
    match dieRead s d p x.group (8 * x.nrank) with
    | (.error (.code k, _), t) => xeEnd d j1 (statusOf k) t
    | (.error (.walk r, va), t) => xeHold d j1 va false r t
    | (.ok l, t) =>
      let tab := chunkNats 8 x.nrank l
      let e := nth tab x.rank 0
      let core := nbits e 12 7
      if e / 2^19 != 0 || e % 2^12 != s.peer.toNat || dieOfCore core != d then xeEnd d j1 0x11 t
      else if !coreInPart s p core then xeEnd d j1 0x15 t
      else if j.flag 5 && (j.barrier s).isNone then xeEnd d j1 0x15 t
      else if j.f 0x3C 2 != 0xFFFF && j.f 0x3E 1 != 0 && !hssInRange s p (j.f 0x3C 2) then xeEnd d j1 0x15 t
      else if j.f 0x3C 2 != 0xFFFF && j.f 0x3E 1 != 0 && hssPoisoned s d (j.f 0x3C 2) then xeEnd d j1 0x17 t
      else
        match readVia (xeTgt d core p) (x.count * collBytes x.fmt / 64 + 2) t (32 * d) (j.f 8 8) (x.count * collBytes x.fmt) with
        | (.error (.code k, _), u) => xeEnd d j1 (statusOf k) u
        | (.error (.walk r, va), u) => xeHold d j1 va false r u
        | (.ok b, u) =>
          xeSpread d (j1.contrib b) tab (putXeJob { u with free := u.free + b.length } d { j1 with sent := true, table := tab })

/-- A packet has been taken: STATUS RUNNING, then its checks. -/
def xeStart (d : Nat) (j : XeJob) (s : State) : State :=
  if !j.start then xeLoad d j s
  else
    match xePut s d j 2 2 1 with
    | (some (.walk r, a), t) => xeHold d j a true r t
    | (some (.code k, _), t) => xeEnd d { j with start := false } (statusOf k) t
    | (none, t) => xeLoad d { j with start := false } t

/-- The engine stops serving a queue (R338): XQFAULT with the die, the queue slot and the failing VA (log 48); the queue must be registered
afresh. -/
def xqFault (d n p va : Nat) (s : State) : State :=
  sendEvent (p + 1) 0x43 (numberedBytes 4 (natBytes 1 d ++ natBytes 1 n) ++ numberedBytes 8 (natBytes 8 va)) (modXe s d fun e => { e with slots := tdel e.slots n, held := without e.held n })

/-- Look at the packet at RIDX of a queue: the descriptor and whether it is ready. -/
def xeLook (s : State) (d : Nat) (q : CopyQ) : Except (UErr × Nat) (Option QDesc) :=
  let p := q.part.toNat
  match (dieRead s d p q.desc.toNat 64).1 with
  | .error e => .error e
  | .ok l =>
    let k := qDescOf l
    if k.used = 0 then .ok none
    else
      match (dieRead s d p (k.entry k.ridx) 64).1 with
      | .error e => .error e
      | .ok b => .ok (if recF b 4 4 = k.ridx % 2^32 then some k else none)

/-- Take the packet at RIDX of queue `n`: STATUS RUNNING, the checks. An overrun queue's packets are free bytes (R281, log 1). -/
def xeTake (d n : Nat) (q : CopyQ) (k : QDesc) (s : State) : State :=
  let overrun := q.overrun || decide (2^k.logn < k.used)
  let va := k.entry k.ridx
  let p := q.part.toNat
  let bytes := match (dieRead s d p va 64).1 with
    | .ok l => l
    | .error _ => []
  let pkt := if overrun then (upto 64).map fun i => Config.freeByte (s.free + i) else bytes
  let j : XeJob := { queue := n, idx := k.ridx, pkt := pkt, va := va, part := q.part, nbv := (seenPart s p).nbv.toNat,
                     arrival := (seenPart s p).mode.getLsbD 3, start := true }
  let s1 := modXe { s with free := s.free + 64 } d fun e =>
    { e with slots := tput e.slots n { q with overrun := overrun }, last := n, ready := s.now + 1 }
  xeStart d j (traceXe d j 0x01 j.seq va 7 (putXeJob s1 d j))

/-- The queues that may be examined, in rotating order: registered, none of their packets in service, no read held. -/
def xeIdle (s : State) (d : Nat) : List (Nat × CopyQ) :=
  (rotation (xeOf s d).last).filterMap fun n =>
    match tget? (xeOf s d).slots n with
    | some q => if (tget? (xeOf s d).jobs n).isSome || (xeOf s d).held.contains n then none else some (n, q)
    | none => none

/-- The next queue whose packet is ready, or whose reading is refused; with `knocked`, only packets a producer has announced. -/
def xeNext (s : State) (d : Nat) (knocked : Bool) : Option (Nat × CopyQ × Except (UErr × Nat) QDesc) :=
  ((xeIdle s d).filterMap fun e =>
    match xeLook s d e.2 with
    | .error r => some (e.1, e.2, .error r)
    | .ok none => none
    | .ok (some k) => if !knocked || decide (k.ridx < k.knock) then some (e.1, e.2, .ok k) else none).head?

/-- Act on the queue found. -/
def xeServe (d : Nat) (r : Nat × CopyQ × Except (UErr × Nat) QDesc) (s : State) : State :=
  match r with
  | (n, q, .ok k) => xeTake d n q k s
  | (n, q, .error (.code _, va)) => xqFault d n q.part.toNat va s
  | (n, q, .error (.walk w, va)) =>
    match unitHold s d q.part.toNat va false false w 7 0 [.collective (BitVec.ofNat 2 d) (BitVec.ofNat 4 n)] with
    | some t => modXe t d fun e => { e with held := withOne e.held n }
    | none => modXe (fqHold d 7 0 va s) d fun e => { e with ready := s.now + 1, last := n }

/-- The kind of the packet that a queue has ready, 0 where it cannot be read. -/
def xeKind (s : State) (d : Nat) (r : Nat × CopyQ × Except (UErr × Nat) QDesc) : Nat :=
  match r with
  | (_, q, .ok k) =>
    match (dieRead s d q.part.toNat (k.entry k.ridx) 1).1 with
    | .ok l => recF l 0 1
    | .error _ => 0
  | _ => 0

/-- A packet whose contribution has not left and that nothing holds: its checks go on. -/
def xeUnsent (s : State) (d : Nat) : Option XeJob :=
  ((xeOf s d).jobs.find? fun e => !e.2.sent && !e.2.held && !e.2.full && e.2.fin.isNone).map (·.2)

/-- A packet that holds since it met a full fault queue: it is tried again when no other has anything to do (spec/10_pages.md R229). -/
def xeStuck (s : State) (d : Nat) : Option XeJob :=
  ((xeOf s d).jobs.find? fun e => !e.2.held && e.2.full).map fun e => { e.2 with full := false }

/-- A stuck packet has its contribution, or its end, behind it: COLLECTIVE_COMPLETION goes on with it. -/
def XeJob.late (j : XeJob) : Bool := j.sent || j.fin.isSome

/-- A packet of kind `k`: gone on with after a wait, or taken (R338). -/
def xeRow (k : Nat) (s : State) : Outcome State Fault Refusal :=
  let d := curXe s
  match xeUnsent s d with
  | some j => .next (if j.f 0 1 = k then xeStart d j s else s)
  | none =>
    match xeNext s d true with
    | some r => .next (if xeKind s d r = k then xeServe d r s else s)
    | none =>
      match xeStuck s d with
      | some j => .next (if !j.late && j.f 0 1 = k then xeStart d j s else s)
      | none => .next s

/-- ALLRED (R339). -/
def execAllred (s : State) : Outcome State Fault Refusal := xeRow 1 s
/-- REDSCAT (R339). -/
def execRedscat (s : State) : Outcome State Fault Refusal := xeRow 2 s
/-- ALLGATH (R339). -/
def execAllgath (s : State) : Outcome State Fault Refusal := xeRow 3 s
/-- BCAST (R339). -/
def execBcast (s : State) : Outcome State Fault Refusal := xeRow 4 s
/-- ALL2ALL (R339). -/
def execAll2all (s : State) : Outcome State Fault Refusal := xeRow 5 s

/-- The scan of a collective engine (R338, spec/13_copy.md R281). -/
def xeScan (s : State) : State :=
  let d := curXe s
  let t := modXe s d fun e => { e with scan := s.now }
  match xeNext s d false with
  | none => t
  | some r => xeServe d r t

/-- QUEUE_SCAN (spec/13_copy.md R281): of the copy engine or collective engine that runs it. -/
def execQueueScan (s : State) : Outcome State Fault Refusal :=
  match s.cur with
  | .xe _ => .next (xeScan s)
  | _ => .next (ceScan s)

/-! Combination (spec/02_numbers.md R42, R439; R340). -/

/-- One node: SUM in FP32 under RNE for formats 1 and 2, exact for INT32; MAX 1, MIN 2. None for CVT_OVF. DEDUCED (log 30): BF16 partials are
carried in FP32 and rounded at the root under every NBV, since the row of spec/02_numbers.md R44 on BF16 reductions is read as one on
the VE's VRSUM, VRMAX and VRMIN. -/
def collNode (fmt op ovf : Nat) (x y : Val) : Option Val :=
  match op with
  | 0 => if fmt = 5 then some (vadd false x y) else (fpRoundTo 1 { mode := 0, ovf := ovf } (vadd false x y)).map (valOf false 1)
  | 1 => some (if isNan x || isNan y then .nan else if vltTotal x y then y else x)
  | _ => some (if isNan x || isNan y then .nan else if vltTotal y x then y else x)

/-- One level of the tree over vectors of partials. -/
def collLevel (f : Val → Val → Option Val) (l : List (List Val)) : Option (List (List Val)) :=
  match l with
  | a :: b :: r =>
    match (a.zip b).mapM fun p => f p.1 p.2 with
    | none => none
    | some c => (collLevel f r).map (c :: ·)
  | r => some r

/-- The tree of R42. -/
def collTree (f : Val → Val → Option Val) (fuel : Nat) (l : List (List Val)) : Option (List Val) :=
  match fuel, l with
  | _, [] => some []
  | _, [a] => some a
  | 0, a :: _ => some a
  | fuel + 1, l =>
    match collLevel f l with
    | none => none
    | some m => collTree f fuel m

/-- The chain of Cretus-1 (spec/02_numbers.md R44). -/
def collChain (f : Val → Val → Option Val) (a : List Val) (l : List (List Val)) : Option (List Val) :=
  match l with
  | [] => some a
  | b :: r =>
    match (a.zip b).mapM fun p => f p.1 p.2 with
    | none => none
    | some c => collChain f c r

/-- The elements of a contribution. -/
def Contrib.vals (x : Contrib) : List Val := (chunkNats (collBytes x.fmt) x.count x.data).map (valOf false x.fmt)

/-- The reduction of contributions that stand on the leaves in this order, as bytes; none for CVT_OVF. One FP32 or INT32 rank under
SUM is passed up unchanged. -/
def collReduce (nbv : Nat) (l : List Contrib) : Option (List Byte) :=
  match l with
  | [] => some []
  | x :: r =>
    if r.isEmpty && x.op = 0 && x.fmt != 2 then some x.data
    else
      let f := collNode x.fmt x.op x.ovf
      let v := if nbv = 1 && !x.arrival then collChain f x.vals (r.map Contrib.vals) else collTree f 13 (l.map Contrib.vals)
      match v with
      | none => none
      | some v =>
        (v.mapM fun e => roundFmt x.fmt { mode := 0, ovf := x.ovf } e).map fun ps => (ps.map (natBytes (collBytes x.fmt))).flatten

/-- Contributions in rank order. -/
def byRank (l : List Contrib) : List Contrib :=
  match l with
  | [] => []
  | x :: r => (upto x.nrank).filterMap fun k => (x :: r).find? fun y => y.rank = k

/-- What rank `r` receives of a whole collective (R339), under the NBV of its packet; none for CVT_OVF. -/
def collResult (nbv r : Nat) (got : List Contrib) : Option (List Byte) :=
  let l := byRank got
  match l with
  | [] => some []
  | x :: _ =>
    let b := x.count / x.nrank * collBytes x.fmt
    match x.kind with
    | 1 => collReduce nbv (if x.arrival then got else l)
    | 2 => (collReduce nbv (if x.arrival then got else l)).map fun v => (v.drop (r * b)).take b
    | 3 => some (l.map (·.data)).flatten
    | 4 => some (nth l x.root x).data
    | _ => some (l.map fun y => (y.data.drop (r * b)).take b).flatten

/-- Two contributions agree where R339 asks it. -/
def agree (x y : Contrib) : Bool :=
  x.kind = y.kind && x.count = y.count && x.fmt = y.fmt && x.op = y.op && x.root = y.root && x.ovf = y.ovf && x.nrank = y.nrank &&
    x.arrival == y.arrival && x.rank != y.rank

/-- A contribution takes its place: by cycle of arrival, then by rank (spec/02_numbers.md R439). -/
def insertContrib (c : Nat) (x : Contrib) (l : List (Nat × Contrib)) : List (Nat × Contrib) :=
  match l with
  | [] => [(c, x)]
  | (k, y) :: r => if c < k || (c = k && x.rank < y.rank) then (c, x) :: (k, y) :: r else (k, y) :: insertContrib c x r

/-- The jobs of an engine whose contribution belongs to a collective. -/
def inColl (g : Coll) (j : XeJob) : Bool :=
  j.part == g.part && j.f 0x20 8 = g.group && j.f 0x28 4 = g.inst && j.sent && j.result.isNone && j.status = 2

/-- The jobs of a collective end with a status or take their results. -/
def collSettle (g : Coll) (e : Xe) : Xe :=
  let got := g.got.map (·.2)
  { e with
    jobs := e.jobs.map fun p =>
      if inColl g p.2 then
        (p.1,
          if g.bad then { p.2 with status := 0x1D }
          else
            match collResult p.2.nbv (p.2.f 0x2C 2) got with
            | some l => { p.2 with result := some l }
            | none => { p.2 with status := 0x1B })
      else p }

/-- A mismatched collective is over once every rank of its largest NRANK has named itself: until then a packet of its GROUP and INST still
belongs to it (R339). -/
def Coll.spent (g : Coll) : Bool :=
  (upto ((g.got.map fun e => e.2.nrank).foldl max 0)).all fun r => g.got.any fun e => e.2.rank = r

/-- PARTIAL_ARRIVAL (R339, R439): one contribution is taken. When the last has come the collective is combined; one that does not
agree with those before it ends every packet with MISMATCH. One of fewer ranks than another is sent on to the engines that its own table did not
name. -/
def execPartialArrival (s : State) : Outcome State Fault Refusal :=
  let d := curXe s
  match (xeOf s d).inbox with
  | [] => .next s
  | (c, x) :: rest =>
    let same (g : Coll) : Bool := g.part == x.part && g.group = x.group && g.inst = x.inst
    let g0 : Coll := ((xeOf s d).colls.find? same).getD ⟨x.part, x.group, x.inst, [], false⟩
    let g : Coll := { g0 with got := insertContrib c x g0.got, bad := g0.bad || g0.got.any fun y => !agree x y.2 }
    let whole := if g.bad then g.spent else decide (x.nrank ≤ g.got.length)
    let s1 := modXe s d fun e => { e with inbox := rest }
    if x.onward && g0.got.isEmpty then .next s1
    else
      let s2 := modXe s1 d fun e =>
        let e1 := { e with colls := e.colls.filter (fun y => !same y) ++ if whole then [] else [g] }
        if whole || g.bad then collSettle g e1 else e1
      .next (if x.onward then s2 else (g0.got.filter fun y => y.2.nrank != x.nrank).foldl (fun t y =>
        sendOn d (if x.nrank < y.2.nrank then x else y.2) t) s2)

/-! Completion (R341). -/

/-- The first packet that has something left to do: a result or an error, and nothing held. -/
def xeReady (s : State) (d : Nat) : Option XeJob :=
  ((xeOf s d).jobs.find? fun e => (e.2.result.isSome || e.2.status != 2 || e.2.fin.isSome) && !e.2.held && !e.2.full).map (·.2)

/-- Levels of the tree of R42. -/
def collLevels (n : Nat) : Nat := if n ≤ 1 then 0 else (n - 1).log2 + 1

/-- Bytes written before an error of a write at `va` are those from the job's position up to it. -/
def xeWrite (d : Nat) (j : XeJob) (l : List Byte) (s : State) : State :=
  let core := j.core.getD (32 * d)
  match writeVia (xeTgt d core j.part.toNat) (l.length / 64 + 2) s (32 * d) j.part.toNat (j.f 0x10 8) l with
  | (none, t) => putXeJob t d { j with next := l.length, stage := 1 }
  | (some (.code k, _), t) => xeEnd d j (statusOf k) t
  | (some (.walk r, va), t) => xeHold d j va true r t

/-- The landing of a rank (R341). -/
def xeLanding (d : Nat) (j : XeJob) (n : Nat) (s : State) : State :=
  match j.barrier s with
  | none => s
  | some (c, o) =>
    let l : Landing := ⟨BitVec.ofNat 7 c, BitVec.ofNat 22 o, true, BitVec.ofNat 7 d, BitVec.ofNat 4 j.queue, BitVec.ofNat 32 j.seq,
      BitVec.ofNat 24 j.stages, (n + 255) / 256⟩
    { s with events := s.events ++ [⟨.xe (BitVec.ofNat 2 d), some (.landing l)⟩] }

/-- The increment of a rank's semaphore (R341, spec/12_semaphores.md R268). -/
def xeUpdate (d : Nat) (j : XeJob) (s : State) : State :=
  let go := putXeJob s d { j with stage := 3 }
  if j.f 0x3C 2 = 0xFFFF || j.f 0x3E 1 = 0 then go
  else
    let u : EngineUpdate :=
      { die := BitVec.ofNat 2 d, engine := 7 + 16 * (32 * d), record := j.queue + 16 * j.seq, mark := BitVec.ofNat 32 j.stages,
        ordinal := 0, index := BitVec.ofNat 16 (j.f 0x3C 2), delta := (j.f 0x3E 1 : Nat), last := BitVec.ofNat 32 (7 + 16 * (32 * d)) }
    if updateLost u s then xeEnd d j 0x17 s else applyUpdate j.part.toNat u go

/-- The next level's partials stand in staging: MARK (R341). -/
def xeLevel (d : Nat) (j : XeJob) (s : State) : State :=
  let n := j.stages + 1
  match xePut s d j 0x30 4 n with
  | (some (.walk r, a), t) => xeHold d j a true r t
  | (some (.code k, _), t) => xeEnd d j (statusOf k) t
  | (none, t) => traceXe d j 0x02 j.seq n n (putXeJob t d { j with stages := n })

/-- COLLECTIVE_COMPLETION (R341): the next level's mark, then the destination, the landing, the increment, the end. -/
def execCollectiveCompletion (s : State) : Outcome State Fault Refusal :=
  let d := curXe s
  match (xeReady s d).orElse fun _ => (xeStuck s d).filter XeJob.late with
  | none => .next s
  | some j =>
    match j.fin, j.result with
    | some (st, written), _ => .next (xeEndAgain d j st written false s)
    | none, none => .next (xeEnd d j j.status s)
    | none, some l =>
      if j.stages < collLevels (j.f 0x2E 2) then .next (xeLevel d j s)
      else
        match j.stage with
        | 0 => .next (xeWrite d j l s)
        | 1 => .next (xeLanding d j l.length (putXeJob s d { j with stage := 2 }))
        | 2 => .next (xeUpdate d j s)
        | _ => .next (xeEnd d j 2 s)

/-- The engine restarts (R341): a packet goes on from its last marked level with the same partials; a stage is repeated, and its
repeats are discarded by their keys. -/
def restartXe (d : Nat) (s : State) : State :=
  modXe s d fun e => { e with jobs := e.jobs.map fun p => (p.1, { p.2 with next := 0, stage := if p.2.stage = 0 then 0 else p.2.stage - 1 }) }

end Sys2Proof.Machine
end

