-- ==== Sys2Proof/Machine/Fabric.lean ====
section
/-! DEFINITION. Fabric ports, routing, end-to-end delivery, remote service, SIG (spec/15_fabric.md R319 to R337,
spec/10_pages.md R242, spec/12_semaphores.md R273). -/

namespace Sys2Proof.Machine

open Host (Outcome)

/-! Ports. -/

/-- A port. -/
def portOf (s : State) (f : Nat) : Port := tget s.fab.ports f {}
/-- Change a port. -/
def modPort (s : State) (f : Nat) (g : Port → Port) : State :=
  { s with fab := { s.fab with ports := tput s.fab.ports f (g (portOf s f)) } }

/-- The peer that a port reaches in conjunction `c` (R320). -/
def partner (s : State) (f c : Nat) : BitVec 12 := s.peer ^^^ BitVec.ofNat 12 (64 * f + c)

/-- Ones of a mask. -/
def onesOf (x : BitVec 128) : Nat := ((upto 128).filter fun i => x.getLsbD i).length

/-- Bit times of a flit over L wavelengths (R333). -/
def flitBits (l : Nat) : Nat := (2048 + l - 1) / max 1 l
/-- Flit times of a conjunction: 2.97 µs of 31.25 ps. -/
def flitTimes (p : Port) : Nat := if p.live = 0 then 0 else 95040 / flitBits (onesOf p.live)

/-- The row of R335: 0 whole, 1 VC2 off, 2 VC0 off too, 3 out of service. -/
def portRow (n : Nat) : Nat := if 256 ≤ n then 0 else if 192 ≤ n then 1 else if 128 ≤ n then 2 else 3
/-- Receive slots enough for service (R335). -/
def Port.whole (p : Port) : Bool := portRow p.slots != 3
/-- In service: PSTAT.INSVC, zero at reset (R336), is set once the port has learned a boundary (R319; log 64). -/
def Port.inService (p : Port) : Bool := p.synced && p.whole
/-- Bytes that the relay area of 2 GiB has free (R330). -/
def relayFree (s : State) : Nat := 2^31 - 256 * s.fab.relay.length
/-- Slots advertised for a VC (R326, R330, R335): the reserve and a quarter of the shared slots. -/
def advertised (s : State) (p : Port) (vc : Nat) : Nat :=
  let n := p.slots
  if portRow n = 3 || (vc = 2 && (portRow n != 0 || relayFree s < 2^20)) || (vc = 0 && portRow n = 2) then 0 else 64 + (n - 256) / 4

/-- The masks that a header carries: ports in service, ports that accept VC0. -/
def portsMask (s : State) (ok : Port → Bool) : BitVec 64 := BitVec.ofNat 64 (packBits ((upto 64).map fun f => ok (portOf s f)))

/-- The header that a port sends (R322). -/
def headerOf (s : State) (f : Nat) : ConjHeader :=
  let p := portOf s f
  let n (vc : Nat) : BitVec 16 := BitVec.ofNat 16 (advertised s p vc)
  { port := BitVec.ofNat 6 f, sender := s.peer, index := BitVec.ofNat 6 p.conj, slots0 := n 0, slots1 := n 1, slots2 := n 2,
    slots3 := n 3, inService := portsMask s Port.inService, vc0Mask := portsMask s fun q => portRow q.slots < 2, liveMask := p.live }

/-- The payload of a header flit (R322). -/
def headerPayload (h : ConjHeader) : List Byte :=
  [BitVec.ofNat 8 h.index.toNat, 0] ++ natBytes 2 h.slots0.toNat ++ natBytes 2 h.slots1.toNat ++ natBytes 2 h.slots2.toNat ++
    natBytes 2 h.slots3.toNat ++ List.replicate 6 0 ++ natBytes 8 h.inService.toNat ++ natBytes 8 h.vc0Mask.toNat ++
    natBytes 16 h.liveMask.toNat ++ List.replicate 192 0

/-- The payload of a restripe marker (R334). -/
def markerPayload (mask : BitVec 128) : List Byte := natBytes 16 mask.toNat ++ List.replicate 224 0

/-- An event record of a port (R336). -/
def portEvent (kind f group data : Nat) (s : State) : State :=
  let p := portOf s f
  let at' (o n v : Nat) : List (Nat × Nat) := (upto n).map fun i => (o + i, v / 256^i % 256)
  sendEvent 0 kind ([(1, f), (2, p.conj), (3, group)] ++ at' 4 4 data ++ at' 8 16 p.live.toNat ++ at' 24 8 (diecyc s 0)) s

/-! Routes (R329). -/

/-- A transaction that travels on VC0, VC1 or VC3 (R325). A tag of a halo strip travels as a signal. -/
def vcOf (t : Tx) : Nat :=
  match t.kind with
  | .write => 0
  | .read => 0
  | .atomic => 0
  | .signal => 3
  | .readRsp => 1
  | .atomicRsp => 1
  | .ack => 1

/-- Whether peer `q` may be sent to on its port `f`: in service, and accepting VC0 for traffic of VC0. -/
def peerPort (s : State) (q f : Nat) (vc0 : Bool) : Bool :=
  let m := tget s.fab.masks q (0, 0)
  m.1.getLsbD f && (!vc0 || m.2.getLsbD f)

/-- A peer number that some partition's peer map populates (R320, spec/10_pages.md R240). -/
def populated (s : State) (q : Nat) : Bool := (upto 8).any fun p => (partOf s p).valid && peerByte s p q % 4 != 0

/-- A port's part of the conjunction in which it may still send transaction flits. -/
def usable (p : Port) : Bool := p.synced && p.hdrSeen && !p.wrong && p.inService && decide (1 ≤ p.time) && decide (p.time + 64 < flitTimes p)

/-- The route of a transaction from port `f` now: 1 direct, 2 relay, 0 none (R329). A port relays only if it is the eligible one
with the lowest number. What is for a peer that sent no header waits for it here (R332). -/
def routeOn (s : State) (t : Tx) (f : Nat) : Nat :=
  let p := s.peer.toNat
  let q := t.dest.toNat
  let c := (portOf s f).conj
  let cd := (p ^^^ q) % 64
  let fd := (p ^^^ q) / 64
  let dOk := peerPort s q fd (vcOf t = 0)
  let dist := if c = cd then (if (portOf s fd).time + 64 < flitTimes (portOf s fd) then 0 else 64) else (cd + 64 - c) % 64
  let r := if (c ^^^ cd) = c then 64 else ((c ^^^ cd) + 64 - c) % 64
  let rOk (g : Nat) : Bool :=
    let x := (partner s g c).toNat
    usable (portOf s g) && x != p && x != q && populated s x && (portOf s g).adv2 && peerPort s q (g ^^^ fd) true
  let viaRelay := !s.fab.silent.contains q && (!dOk || decide (r < dist)) && (upto 64).any rOk
  if viaRelay then (if rOk f && (upto f).all (fun g => !rOk g) then 2 else 0)
  else if dOk && c = cd && f = fd && usable (portOf s f) then 1 else 0

/-! Flits (R323, R324). -/

/-- TYPE of a transaction's flit. -/
def typeOf (k : TxKind) : Nat :=
  match k with
  | .write => 2
  | .read => 3
  | .readRsp => 4
  | .atomic => 5
  | .atomicRsp => 6
  | .signal => 7
  | .ack => 8

/-- What a flit's TYPE says that it carries. -/
def kindOfType (n : Nat) : Option TxKind := [TxKind.write, .read, .readRsp, .atomic, .atomicRsp, .signal, .ack].find? fun k => typeOf k = n

/-- Bits [95:0] of a flit's header. -/
def headBits (x : Flit) : Nat :=
  x.vc.toNat + 2^2 * x.typ.toNat + 2^6 * x.tx.src.toNat + 2^18 * x.tx.dest.toNat + 2^30 * x.relayed.toNat + 2^31 * x.tx.part.toNat +
    2^34 * x.crinc.toNat + 2^40 * x.crvc.toNat + 2^42 * x.lseq.toNat + 2^54 * x.lack.toNat + 2^66 * x.ackv.toNat + 2^67 * x.nak.toNat +
    2^68 * x.tx.enc.toNat + 2^69 * x.ovc.toNat + 2^72 * x.tx.pkt.toNat

/-- The 8-byte descriptor of a request: offset, length less one, source unit kind, source core and context. -/
def descriptorOf (t : Tx) : Nat := t.off.toNat + 2^36 * ((t.len - 1) % 256) + 2^44 * t.unitKind.toNat + 2^48 * t.who.toNat

/-- The 240 bytes of payload. What follows a descriptor but write data, and where a response holds its status, is the model's choice (log 24):
an atomic's operands and operation; the name of a strip or contribution before its data; a status byte, then the data. -/
def payloadOf (t : Tx) : List Byte :=
  let words (l : List Nat) : List Byte := (l.map (natBytes 8)).flatten
  let named := t.unitKind = 6 || t.unitKind = 7
  let l := match t.kind with
    | .signal => words [t.operand.toNat, t.expect.toNat]
    | .write => words (descriptorOf t :: if named then [t.operand.toNat, t.expect.toNat] else []) ++ t.data
    | .read => words [descriptorOf t]
    | .atomic => words [descriptorOf t, t.operand.toNat, t.expect.toNat, t.aop.toNat]
    | _ => BitVec.ofNat 8 t.status.toNat :: t.data
  (l ++ List.replicate 240 0).take 240

/-- The CRC that a flit must carry. -/
def sumOf (x : Flit) : BitVec 32 := Config.flitCrc (headBits x) (payloadOf x.tx)

/-- The transaction of a flit as its TYPE and its 8-bit length give it; none for idle flits, link control, management and reserved types. -/
def carriedBy (x : Flit) : Option Tx :=
  (kindOfType x.typ.toNat).map fun k => { x.tx with kind := k, len := (x.tx.len - 1) % 256 + 1 }

/-! Sending. -/

/-- The next flit's acknowledgement and slot return. -/
def dressFlit (p : Port) (f : Flit) : Flit :=
  let vc := ((upto 4).find? fun v => tget p.ret v 0 != 0).getD 0
  { f with ackv := true, lack := BitVec.ofNat 12 (p.rxNext + 4095), crinc := BitVec.ofNat 6 (min 63 (tget p.ret vc 0)),
           crvc := BitVec.ofNat 2 vc, nak := p.nak }

/-- Put a flit on the fibre. -/
def sendFlit (f : Nat) (x : Flit) (s : State) : State :=
  modPort s f fun p =>
    let z := dressFlit p x
    let y := { z with crc := sumOf z }
    { p with out := some (.flit y), time := p.time + 1, nak := false, ackOwed := false,
             ret := tput p.ret y.crvc.toNat (tget p.ret y.crvc.toNat 0 - y.crinc.toNat) }

/-- A transaction of no content, for idle flits. -/
def noTx : Tx :=
  { kind := .ack, src := 0, dest := 0, part := 0, pkt := 0, off := 0, len := 0, unitKind := 0, who := 0, data := [], aop := 0,
    operand := 0, expect := 0, status := 0 }

/-- A flit that carries no transaction, of a TYPE on a VC: its source is this package, its destination the partner. -/
def bareFlit (s : State) (f typ vc : Nat) : Flit :=
  ⟨BitVec.ofNat 2 vc, BitVec.ofNat 4 typ, false, 0, 0, false, 0, 0, 0, false, { noTx with src := s.peer, dest := partner s f (portOf s f).conj }, 0⟩

/-- A link-control flit of VC3 with its payload: TYPE 1 a header, 9 a marker. It takes no LSEQ (spec/25_prog_remote.md R436). -/
def controlFlit (s : State) (f typ : Nat) (l : List Byte) : PortOut :=
  let x := bareFlit s f typ 3
  .control { x with crc := Config.flitCrc (headBits x) l } l

/-- Send a new transaction flit on a VC: it takes the next LSEQ, a slot of the VC and a place of the retry buffer (R326, R327). FLITTX counts
its first transmission, REPLAY every later one (spec/25_prog_remote.md R436). -/
def sendNew (f : Nat) (t : Tx) (vc : Nat) (relayed : Bool) (s0 : State) : State :=
  let again := s0.fab.again.contains t
  let s := if again then { s0 with fab := { s0.fab with again := s0.fab.again.erase t } } else s0
  let p := portOf s f
  let x : Flit := { vc := BitVec.ofNat 2 vc, typ := BitVec.ofNat 4 (typeOf t.kind), relayed := relayed, ovc := BitVec.ofNat 2 (vcOf t),
                    lseq := BitVec.ofNat 12 p.lseq, ackv := true, lack := 0, crinc := 0, crvc := 0, nak := false, tx := t, crc := 0 }
  sendFlit f x (modPort s f fun p =>
    { p with lseq := (p.lseq + 1) % 4096, retry := p.retry ++ [x], credit := tput p.credit vc (tget p.credit vc 0 - 1),
             flitTx := if again then p.flitTx else p.flitTx + 1, replays := if again then p.replays + 1 else p.replays })

/-- A VC's count falls by 1 (R326). -/
def spendSlot (vc : Nat) (p : Port) : Port := { p with credit := tput p.credit vc (tget p.credit vc 0 - 1) }

/-- Remove the first transaction equal to `t`. -/
def dropTx (t : Tx) (l : List Tx) : List Tx := l.erase t

/-- The first queued transaction that may leave on port `f`, with its VC and whether it goes to a relay. -/
def pickTx (s : State) (f : Nat) : Option (Tx × Nat × Bool) :=
  let p := portOf s f
  (s.fab.sendq.filterMap fun t =>
    match routeOn s t f with
    | 1 => if 0 < tget p.credit (vcOf t) 0 then some (t, vcOf t, false) else none
    | 2 => if 0 < tget p.credit 2 0 then some (t, 2, true) else none
    | _ => none).head?

/-- The port carries light in this conjunction: the part has its number, the port is in service and its partner exists (R320, R321). -/
def portLit (s : State) (f : Nat) : Bool :=
  let p := portOf s f
  let q := partner s f p.conj
  s.peerValid && p.inService && q != s.peer && populated s q.toNat && decide (p.time < flitTimes p)

/-- The events of losses of light are raised once the marker is out and its replay made (R334). -/
def raiseLos (f : Nat) (s : State) : State :=
  let p := portOf s f
  if p.los.isEmpty || p.marker || p.replay != 0 then s
  else p.los.foldl (fun t g => portEvent 0x30 f g (onesOf p.live) t) (modPort s f fun p => { p with los := [] })

/-- What a port sends behind the header and a marker that is owed: a flit sent again, a new transaction, or an idle flit. -/
def sendNext (f : Nat) (s : State) : State :=
  let p := portOf s f
  let idle : State := sendFlit f (bareFlit s f 0 0) s
  if !usable p then idle
  else if 0 < p.replay then
    match p.retry.drop (p.retry.length - p.replay) with
    | x :: _ =>
      if tget p.credit x.vc.toNat 0 = 0 then idle
      else sendFlit f x (modPort s f fun p => { spendSlot x.vc.toNat p with replay := p.replay - 1, replays := p.replays + 1 })
    | [] => sendFlit f (bareFlit s f 0 0) (modPort s f fun p => { p with replay := 0 })
  else if 1024 ≤ p.retry.length then idle
  else
    match pickTx s f with
    | some (t, vc, relayed) => sendNew f t vc relayed { s with fab := { s.fab with sendq := dropTx t s.fab.sendq } }
    | none => idle

/-- FLIT_TRANSMIT (R322, R323, R327): what the port puts on its fibre in the next flit time: the header, a restripe marker, before
which nothing is sent again (R334), or what comes behind. -/
def execFlitTransmit (w : PortId) (s : State) : Outcome State Fault Refusal :=
  let f := w.toNat
  let p := portOf s f
  if !portLit s f then .next s
  else if p.time = 0 then .next (modPort s f fun p => { p with out := some (controlFlit s f 1 (headerPayload (headerOf s f))), time := 1 })
  else if p.marker then
    .next (if tget p.credit 3 0 = 0 then sendFlit f (bareFlit s f 0 0) s
      else raiseLos f (modPort s f fun p =>
        { spendSlot 3 p with out := some (controlFlit s f 9 (markerPayload p.live)), time := p.time + 1, marker := false }))
  else .next (raiseLos f (sendNext f s))

/-- RELAY_FORWARD (R330): the relay meets the destination of a held transaction, whose second hop leaves on its own VC. -/
def execRelayForward (w : RelayRef) (s : State) : Outcome State Fault Refusal :=
  let f := w.port.toNat
  let p := portOf s f
  match s.fab.relay.find? fun e => e.1.dest == w.dest && decide (0 < tget p.credit e.2.toNat 0) with
  | none => .next s
  | some e =>
    if portLit s f && usable p && partner s f p.conj == w.dest && p.replay = 0 && p.retry.length < 1024 then
      .next (sendNew f e.1 e.2.toNat false { s with fab := { s.fab with relay := s.fab.relay.erase e } })
    else .next s

/-! Conjunctions. -/

/-- A isRequest transaction: a request or a signal (R328). -/
def isRequest (t : Tx) : Bool := vcOf t != 1

/-- `a` comes before `b` in PKT order. -/
def pktBefore (a b : BitVec 24) : Bool := decide ((b - a).toNat < 2^23) && a != b

/-- Put a transaction back at the head of its destination's queue, in PKT order (R327). -/
def requeue (t : Tx) (l : List Tx) : List Tx :=
  match l with
  | [] => [t]
  | h :: r =>
    if h.dest = t.dest && !(isRequest h && isRequest t && pktBefore h.pkt t.pkt) then t :: h :: r else h :: requeue t r

/-- What is not acknowledged at the dark gap goes back: to the queue, or to the relay area for another package's. -/
def returnFlits (l : List Flit) (s : State) : State :=
  match l with
  | [] => s
  | x :: r =>
    let t := returnFlits r s
    if x.tx.src == s.peer then { t with fab := { t.fab with again := x.tx :: t.fab.again, sendq := requeue x.tx t.fab.sendq } }
    else { t with fab := { t.fab with again := x.tx :: t.fab.again, relay := (x.tx, x.vc) :: t.fab.relay } }

/-- A conjunction ends in which the partner sent no header: requests to it are held until it returns (R332). -/
def noteSilent (f : Nat) (s : State) : State :=
  let p := portOf s f
  let q := (partner s f p.conj).toNat
  if p.inService && !p.hdrSeen && s.peerValid then { s with fab := { s.fab with silent := withOne s.fab.silent q } } else s

/-- CONJUNCTION_BOUNDARY (R319, R326, R327): the next conjunction of a port. -/
def execConjunctionBoundary (w : ConjBoundary) (s : State) : Outcome State Fault Refusal :=
  let f := w.port.toNat
  let t := noteSilent f (returnFlits (portOf s f).retry s)
  .next (raiseLos f (modPort t f fun p =>
    { p with synced := true, conj := if p.synced then (p.conj + 1) % 64 else p.conj, time := 0, hdrSeen := false, wrong := false,
             adv2 := false, credit := [], ret := [], lseq := 0, retry := [], replay := 0, rxNext := 0, ackOwed := false, nak := false, marker := false }))

/-- CONJUNCTION_HEADER (R321, R322): the index, the counts and the sender's masks; a wrong sender darkens the conjunction. -/
def execConjunctionHeader (h : ConjHeader) (s : State) : Outcome State Fault Refusal :=
  let f := h.port.toNat
  if !s.peerValid || !(portOf s f).whole then .next s
  else
    let s1 := modPort s f fun p => { p with synced := true, conj := h.index.toNat }
    if h.sender != partner s f h.index.toNat then
      .next (portEvent 0x34 f 0 h.sender.toNat (modPort s1 f fun p => { p with wrong := true, hdrSeen := true }))
    else
      let s2 := modPort s1 f fun p =>
        { p with hdrSeen := true, wrong := false, rxLive := h.liveMask, adv2 := h.slots2 != 0,
                 credit := [(0, h.slots0.toNat), (1, h.slots1.toNat), (2, h.slots2.toNat), (3, h.slots3.toNat)] }
      .next { s2 with fab := { s2.fab with
        masks := tput s2.fab.masks h.sender.toNat (h.inService, h.vc0Mask), silent := without s2.fab.silent h.sender.toNat } }

/-! Receiving (R327). -/

/-- Drop the flits that a LACK covers. -/
def coverRetry (lack : BitVec 12) (p : Port) : Port :=
  let l := p.retry.filter fun x => !decide ((lack - x.lseq).toNat < 1024)
  { p with retry := l, replay := min p.replay l.length }

/-- An accepted flit is moved on: into the relay area, to the end-to-end check, to the unit that waits for a response. A transaction
whose tag failed goes on with status SEAL (R337). -/
def moveOn (x : Flit) (tagOk : Bool) (s : State) : State :=
  let y := (carriedBy x).getD x.tx
  let t := if tagOk || !y.enc then y else { y with status := 0x16 }
  if x.vc = 2 then { s with fab := { s.fab with relay := s.fab.relay ++ [(t, x.ovc)] } }
  else if t.dest != s.peer then s
  else if isRequest t then { s with events := s.events ++ [⟨.ports, some (.endToEndArrival ⟨t⟩)⟩] }
  else { s with events := s.events ++ [⟨.ports, some (.remoteResponse ⟨t⟩)⟩] }

/-- The flits after a LACK are sent again (R327). -/
def replayFrom (lack : BitVec 12) (p : Port) : Port :=
  let q := coverRetry lack p
  { q with replay := q.retry.length }

/-- A flit of a TYPE that is taken in LSEQ order: a transaction, or a management flit, which goes to the management core. -/
def inSequence (x : Flit) : Bool := x.typ = 10 || (carriedBy x).isSome

/-- FLIT_RECEIVE (R323, R326, R327): a flit whose CRC fails is discarded and counted, whatever it is; so is, uncounted, every flit of a wrong
sender's conjunction, one before the header and one of a reserved TYPE. -/
def execFlitReceive (w : FlitArrival) (s : State) : Outcome State Fault Refusal :=
  let f := w.port.toNat
  let p := portOf s f
  let x := w.flit
  if !s.peerValid || !p.inService then .next s
  else if x.crc != sumOf x then .next (modPort s f fun p => { p with crcErr := p.crcErr + 1, nak := p.nak || (p.hdrSeen && !p.wrong) })
  else if !p.hdrSeen || p.wrong || 11 ≤ x.typ.toNat then .next s
  else
    let p1 := if x.ackv then (if x.nak then replayFrom x.lack p else coverRetry x.lack p) else p
    let p2 := { p1 with credit := tput p1.credit x.crvc.toNat (tget p1.credit x.crvc.toNat 0 + x.crinc.toNat) }
    let s1 := modPort s f fun _ => p2
    if !inSequence x then .next s1
    else if x.lseq.toNat = p.rxNext then
      let s2 := modPort s1 f fun p =>
        { p with rxNext := (p.rxNext + 1) % 4096, ackOwed := true, flitRx := if x.typ = 10 then p.flitRx else p.flitRx + 1,
                 ret := tput p.ret x.vc.toNat (tget p.ret x.vc.toNat 0 + 1) }
      .next (if x.typ = 10 then tellFw 0 0x10 [f, x.tx.src.toNat] s2 else moveOn x w.tagOk s2)
    else if (x.lseq - BitVec.ofNat 12 p.rxNext).toNat < 1024 then .next (modPort s1 f fun p => { p with nak := true })
    else .next (modPort s1 f fun p => { p with ackOwed := true })

/-- NAK (R327): everything after the last good flit is sent again. -/
def execLinkNak (w : NakArrival) (s : State) : Outcome State Fault Refusal :=
  .next (modPort s w.port.toNat (replayFrom w.lack))

/-! Light and receive buffers (R333 to R336). -/

/-- LOSS_OF_LIGHT (R334): the mask falls, a marker and a replay are owed, then the event; a port that carries no light has neither to send. -/
def execLossOfLight (w : LightLoss) (s : State) : Outcome State Fault Refusal :=
  let f := w.port.toNat
  let g := w.group.toNat
  let s1 := modPort s f fun p =>
    { p with live := p.live &&& ~~~(BitVec.ofNat 128 (15 * 2^(16 * g + 4 * w.laser.toNat))), marker := true, replay := p.retry.length,
             losCnt := p.losCnt + 1, los := p.los ++ [g] }
  .next (if portLit s f then s1 else raiseLos f (modPort s1 f fun p => { p with marker := false, replay := 0 }))

/-- RESTRIPE_MARKER (R334): later flits on the fibre use the new mask. Without VALID, in a wrong sender's conjunction or before its header
every flit is discarded (R321). -/
def execRestripeMarker (w : PortMask) (s : State) : Outcome State Fault Refusal :=
  let p := portOf s w.port.toNat
  .next (if !s.peerValid || !p.inService || !p.hdrSeen || p.wrong then s
    else modPort s w.port.toNat fun p => { p with rxLive := w.mask, ret := tput p.ret 3 (tget p.ret 3 0 + 1) })

/-- BANK_RETIRED (R335): an event at each change of row. A flit is moved on in the step of its arrival, so that none is held in a bank. -/
def execBankRetired (w : BankRef) (s : State) : Outcome State Fault Refusal :=
  let f := w.port.toNat
  let a := portRow (portOf s f).slots
  let t := modPort s f fun p => { p with banks := withOne p.banks w.bank.toNat, slots := min p.slots w.live.toNat }
  let n := (portOf t f).slots
  let b := portRow n
  .next (if a = b then t else portEvent (0x30 + b) f 0 n t)

/-- LIVE (R334, R336): a write of the management core sets bits of re-tuned wavelengths. -/
def execPortLive (w : PortMask) (s : State) : Outcome State Fault Refusal :=
  .next (modPort s w.port.toNat fun p => { p with live := p.live ||| w.mask })

/-- PEERID_WRITE (R321). -/
def execPeeridWrite (w : PeerWrite) (s : State) : Outcome State Fault Refusal :=
  .next { s with
    peer := w.peer, peerValid := true
    rot := { s.rot with svrot := match w.ivms with
      | some v => if 1 ≤ v.toNat ∧ v.toNat ≤ 60000 then v else s.rot.svrot
      | none => s.rot.svrot } }

/-! Delivery at the destination (R328). -/

/-- Acknowledge a transaction and record its status. -/
def ackNow (t : Tx) (status : Nat) (s : State) : State := queueRsp (ackTx s t status) (noteStatus t status s)

/-- The counter that a signal names in its target partition, if it lies in the range and is not poisoned (spec/12_semaphores.md R263, R273). -/
def sigTarget (s : State) (part : Nat) (id : Word) : Option (Nat × Nat) :=
  let i := fieldOf id 0 16
  let d := fieldOf id 16 2
  if hssInRange s part i && !hssPoisoned s d i then some (d, i) else none

/-- The status of a signal that names no such counter: POISON for a poisoned one of the range, else PROT. -/
def sigRefused (s : State) (part : Nat) (id : Word) : Nat := if hssInRange s part (fieldOf id 0 16) then 0x17 else 0x15

/-- Apply a transaction whose turn has come. -/
def applyTx (t : Tx) (s : State) : State :=
  if t.status != 0 then ackNow t t.status.toNat s
  else if t.unitKind = 6 then
    if t.kind = .signal then heArrive t s else ackNow t 0 (heArrive t s)
  else if t.unitKind = 7 then ackNow t 0 (xeArrive t s)
  else
    match t.kind with
    | .signal =>
      match sigTarget s t.part.toNat t.operand with
      | none => ackNow t (sigRefused s t.part.toNat t.operand) s
      | some _ => ackNow t 0 { s with events := s.events ++ [⟨.ports, some (.sigApply ⟨t.src, t.part, t.operand, t.expect⟩)⟩] }
    | _ => { s with events := s.events ++ [⟨.ports, some (.remoteRequest ⟨t⟩)⟩] }

/-- Apply the held transactions of a source that now follow in order. -/
def applyHeld (fuel : Nat) (src : Nat) (s : State) : State :=
  match fuel with
  | 0 => s
  | fuel + 1 =>
    let n := tget s.fab.rxNext src 0
    match s.fab.held.find? fun t => t.src.toNat = src && t.pkt == n with
    | none => s
    | some t =>
      applyHeld fuel src (applyTx t { s with fab := { s.fab with held := s.fab.held.erase t, rxNext := tput s.fab.rxNext src (n + 1) } })

/-- END_TO_END_ARRIVAL (R328): applied in PKT order, held, or acknowledged again with the status of its first application. -/
def execEndToEndArrival (w : E2eArrival) (s : State) : Outcome State Fault Refusal :=
  let t := w.tx
  let src := t.src.toNat
  let n := tget s.fab.rxNext src 0
  let d := (t.pkt - n).toNat
  if d = 0 then
    .next (applyHeld 1024 src (applyTx t { s with fab := { s.fab with rxNext := tput s.fab.rxNext src (n + 1) } }))
  else if d ≤ 1023 then
    if s.fab.held.any (fun h => h.src == t.src && h.pkt == t.pkt) || 2^18 ≤ s.fab.held.length then .next s
    else .next { s with fab := { s.fab with held := s.fab.held ++ [t] } }
  else if heKeeps t s then .next s
  else
    match (tget s.fab.rxStatus src []).find? fun e => e.1 == t.pkt with
    | some e => .next (queueRsp (ackTx s t e.2.toNat) s)
    | none => .next (queueRsp (ackTx s t (Config.freeByte s.free).toNat) { s with free := s.free + 1 })

/-- SIG_APPLY (spec/12_semaphores.md R273): as SEM.ADD, with LAST of kind 9 and the source peer. Its SIGNAL record is the issuing context's. -/
def execSigApply (w : SigArrival) (s : State) : Outcome State Fault Refusal :=
  match sigTarget s w.part.toNat w.id with
  | none => .next s
  | some (d, i) =>
    let last := BitVec.ofNat 32 (9 + 2^11 * w.src.toNat)
    let v := sat64 (hssGet s d i + w.delta.toInt)
    .next (hssPut d i v last s)

/-! Service of remote requests (spec/10_pages.md R242). -/


/-- The answer to a request: its kind, data and status. -/
def rspTx (s : State) (t : Tx) (status : Nat) (data : List Byte) : Tx :=
  let k : TxKind := match t.kind with
    | .read => .readRsp
    | .atomic => .atomicRsp
    | _ => .ack
  { ackTx s t status with kind := k, data := data }

/-- Serve a request at a place: the status, the data of the answer, the state. -/
def serveTx (s : State) (t : Tx) (g : Tgt) : Nat × List Byte × State :=
  let p := t.part.toNat
  match t.kind with
  | .write => if tgtCut s g t.data.length then (0x17, [], s) else (0, [], tgtWrite s 0 p g t.data)
  | .atomic =>
    match tgtRead s 0 g 8 with
    | .error e => (statusOf e.trap, [], tgtPoison s g 8)
    | .ok l =>
      let old := wd (bytesNat l)
      let new := atomNew t.aop.toNat old t.operand t.expect
      (0, l, if new = old then s else tgtWrite s 0 p g (natBytes 8 new.toNat))
  | _ =>
    match tgtRead s 0 g t.len with
    | .error e => (statusOf e.trap, [], tgtPoison s g t.len)
    | .ok l => (0, l, { s with free := s.free + l.length })

/-- The first `k` bytes of a request, and what follows them. -/
def txHead (t : Tx) (k : Nat) : Tx := { t with len := k, data := t.data.take k }
def txRest (t : Tx) (k : Nat) : Tx := { t with off := t.off + BitVec.ofNat 36 k, len := t.len - k, data := t.data.drop k }

/-- Serve a read or a write that reaches over a boundary of 1 GiB: each part through its own entry, nothing where one is refused. -/
def serveAcross (s : State) (t : Tx) : Nat × List Byte × State :=
  let p := t.part.toNat
  match exportRuns s p t.off.toNat t.len (t.kind != .read) with
  | .error st => (st, [], s)
  | .ok l =>
    let k := ((l.map (·.2)).head?).getD 0
    match l.find? fun e => t.kind != .read && tgtCut s e.1 e.2 with
    | some e => (0x17, [], tgtPoison s e.1 e.2)
    | none =>
      match l with
      | [a, b] =>
        let r := serveTx s (txHead t k) a.1
        if r.1 != 0 then (r.1, [], r.2.2)
        else
          let q := serveTx r.2.2 (txRest t k) b.1
          (q.1, if q.1 = 0 then r.2.1 ++ q.2.1 else [], q.2.2)
      | _ => (0x14, [], s)

/-- REMOTE_REQUEST (spec/10_pages.md R242): a peer's access through the target partition's export window. -/
def execRemoteRequest (w : RemoteReq) (s : State) : Outcome State Fault Refusal :=
  let t := w.tx
  let p := t.part.toNat
  if t.kind != .atomic && decide (2^30 < t.off.toNat % 2^30 + t.len) then
    let r := serveAcross s t
    .next (queueRsp (rspTx s t r.1 r.2.1) (noteStatus t r.1 r.2.2))
  else
  match exportTgt s p t.off.toNat t.len (t.kind != .read) (t.kind == .atomic) with
  | none =>
    let st := exportStatus s p t.off.toNat t.len
    .next (queueRsp (rspTx s t st []) (noteStatus t st s))
  | some (.knock d q true) =>
    let k : KnockStore := ⟨BitVec.ofNat 2 d, BitVec.ofNat 12 q, BitVec.ofNat 32 (bytesNat t.data), BitVec.ofNat 32 (bytesNat t.data / 2^32),
      .peer t.part⟩
    .next (queueRsp (rspTx s t 0 []) (noteStatus t 0 { s with events := s.events ++ [⟨.cp (BitVec.ofNat 2 d), some (.knock k)⟩] }))
  | some g =>
    let r := serveTx s t g
    .next (queueRsp (rspTx s t r.1 r.2.1) (noteStatus t r.1 r.2.2))

/-! Answers (R331). -/

/-- The answer to a load or atomic: its register is written, or, refused, keeps its value while XLATE is due at its word (log 8); the store of
another die refuses for a poisoned counter, which is POISON (spec/12_semaphores.md R263). -/
def fillAwait (id : Nat) (t : Tx) (y : Ctx) : Ctx :=
  match (y.pend.filterMap fun p => p.await).find? fun w => w.id = id with
  | none => y
  | some w =>
    if t.status = 0 then
      { y with pend := y.pend.map fun p =>
          if p.await == some w then { p with val := extendLoad w.sx w.size (bytesNat t.data), await := none } else p }
    else { y with pend := y.pend.filter fun p => p.await != some w, refused := if y.refused.isNone then some (w.pc, w.va, if t.kind = .atomic then tPOISON else tXLATE) else y.refused }

/-- An answer to a context's access: its word goes on, or a posted store's refusal stands in RERR (spec/10_pages.md R242). It reaches
the context that asked, bound or saved. -/
def answered (a : Asked) (t : Tx) (y : Ctx) : Ctx :=
  let mine := y.reqs.any fun r => r.due.isNone && r.id = a.id
  let y1 := { y with reqs := y.reqs.filter fun r => !(r.due.isNone && r.id = a.id) }
  match a.kind with
  | .write => if mine && t.status != 0 then noteRefused a.va y1 else y1
  | .signal => if mine && t.status != 0 then noteRefused a.va y1 else y1
  | _ =>
    if y1.remote = .sent a.id then
      if t.status = 0 then { y1 with remote := .idle, got := y1.got ++ [bytesNat t.data] } else { y1 with remote := .refused }
    else fillAwait a.id t { y1 with owed := y1.owed.filter fun e => e.1 != a.id, acq := without y1.acq a.id }

/-- Deliver an answer to the contexts of a core. That of an atomic completes its entry of the replay log (spec/18_recovery.md R391);
where the target refused it, the value is free (log 1). An acquiring access acquires with its answer. -/
def ctxAnswer (a : Asked) (t : Tx) (s : State) : State :=
  let core := a.who.toNat % 128
  let x := ctxOfNum (a.who.toNat / 128)
  let s1 := match (ctxOf s core x).owed.find? fun e => e.1 = a.id with
    | some e =>
      let v := if t.status = 0 then wd (bytesNat t.data) else Config.freeWord s.free
      { s with free := s.free + 1,
               events := s.events ++ [⟨.ctx (BitVec.ofNat 7 core) x, some (.logResponse ⟨⟨BitVec.ofNat 7 core, x⟩, BitVec.ofNat 16 e.2, v⟩)⟩] }
    | none => s
  let s2 := if (ctxOf s core x).acq.contains a.id then acquireLines s1 core else s1
  modAllCtx s2 core fun _ y => answered a t y

/-! Requests to the store of another die (spec/12_semaphores.md R266). -/

/-- The SIGNAL record of an update that another die's store performs. -/
def traceFar (f : FarSem) (a b last : Nat) (s : State) : State :=
  pushTrace (dieOfCore f.core)
    { kind := 0x21, cls := 1, part := BitVec.ofNat 3 f.part, isSealed := (partOf s f.part).isSealed, unitKind := ctxNum f.sel,
      core := f.core, ctx := ctxNum f.sel, cyc := diecyc s (dieOfCore f.core), scy := scyOf s f.core, pc := f.pc.toNat,
      obj := f.idx + 2^16 * f.die, a := a, b := b, seq := 0, lastu := last } s

/-- A request is performed at its counter (R270, R275): the state, and the value that the response brings. -/
def serveSem (f : FarSem) (s : State) : State × Option Word :=
  let v := hssGet s f.die f.idx
  let last := BitVec.ofNat 32 (ctxNum f.sel + 16 * f.core)
  match f.op with
  | .add b =>
    let n := sat64 (v + b.toInt)
    (traceFar f b.toNat (i64 n).toNat last.toNat (hssPut f.die f.idx n last s), none)
  | .set b priv =>
    let t := if priv then modDie s f.die fun x => { x with hssPoison := without x.hssPoison f.idx } else s
    (traceFar f (i64 (b.toInt - v)).toNat b.toNat last.toNat (hssPut f.die f.idx b.toInt last t), none)
  | .try_ b => (if tryOk v b then tryTake f.die f.idx v b last s else s, some (i64 v))
  | .rd => (s, some (i64 v))
  | .arr n => (hssPut f.die f.idx (sat64 (v + 1)) last s, some (i64 (episodeEnd v n)))

/-- The response of the store of another die to a word that has a result: its value, or its refusal. -/
def semAnswer (f : FarSem) (v : Option Word) (s : State) : State :=
  let who := BitVec.ofNat 16 (f.core + 128 * ctxNum f.sel)
  ctxAnswer ⟨0, 0, f.id, .atomic, BitVec.ofNat 4 (ctxNum f.sel), who, 0⟩
    { kind := .atomic, src := 0, dest := 0, part := 0, pkt := 0, off := 0, len := 8, unitKind := 0, who := who,
      data := natBytes 8 (v.getD 0).toNat, aop := 0, operand := 0, expect := 0, status := if v.isSome then 0 else 0x17 } s

/-- The counter that a request names is poisoned when it arrives, and it is no privileged SEM.SET: the word takes POISON with the id
(R263, R270). -/
def semPoisoned (f : FarSem) (s : State) : State :=
  match f.op with
  | .add _ => modCtx s f.core f.sel fun y => if y.refused.isNone then { y with refused := some (f.pc, wd (f.idx + 2^16 * f.die), tPOISON) } else y
  | .set _ _ => modCtx s f.core f.sel fun y => if y.refused.isNone then { y with refused := some (f.pc, wd (f.idx + 2^16 * f.die), tPOISON) } else y
  | _ => semAnswer f none s

/-- The first request that has arrived at a die's store. -/
def farFirst (d : Nat) (s : State) : Option FarSem := s.farSems.find? fun f => f.die = d && decide (f.due ≤ s.now)

/-- A request that may change a poisoned counter. -/
def FarOp.heals (o : FarOp) : Bool :=
  match o with
  | .set _ priv => priv
  | _ => false

/-- The first request that has arrived at a die's store is performed and answered. -/
def hssAct (d : Nat) (s : State) : State :=
  match farFirst d s with
  | none => s
  | some f =>
    let s1 := { s with farSems := s.farSems.filter fun e => e.id != f.id }
    if hssPoisoned s1 f.die f.idx && !f.op.heals then semPoisoned f s1
    else
      match serveSem f s1 with
      | (t, none) => t
      | (t, some v) => semAnswer f (some v) t

/-- An answer to a copy engine's access. -/
def ceAnswer (a : Asked) (t : Tx) (s : State) : State :=
  let c := a.who.toNat % 128
  modCe s c fun e =>
    { e with
      job := e.job.map fun j =>
        let bad := if t.status = 0 || j.refused.isSome then j.refused else some t.status.toNat
        if j.rd = some a.id then { j with rd := none, rdata := if t.status = 0 then some t.data else none, refused := bad }
        else if j.outs.contains a.id then { j with outs := without j.outs a.id, refused := bad }
        else j }

/-- A SIG that no earlier write holds back leaves: to its peer, or, for the package's own number, to the HSS
(spec/12_semaphores.md R273). -/
def sigLeave (t : Tx) (s : State) : State :=
  if t.dest == s.peer then
    match sigTarget s t.part.toNat t.operand with
    | none => { s with events := s.events ++ [⟨.ports, some (.remoteResponse ⟨ackTx s t (sigRefused s t.part.toNat t.operand)⟩)⟩] }
    | some _ =>
      { s with events := s.events ++ [⟨.ports, some (.sigApply ⟨t.src, t.part, t.operand, t.expect⟩)⟩,
                                       ⟨.ports, some (.remoteResponse ⟨ackTx s t 0⟩)⟩] }
  else { s with fab := { s.fab with sendq := requeue t s.fab.sendq } }

/-- The SIGs of a list, each with the writes it still waits for: they leave or stay. -/
def releaseSigs (l : List (Tx × List (BitVec 12 × BitVec 24))) (s : State) : State :=
  match l with
  | [] => s
  | (t, w) :: r => releaseSigs r (if w.isEmpty then sigLeave t s else { s with fab := { s.fab with sigs := s.fab.sigs ++ [(t, w)] } })

/-- An answer's request leaves the lists; SIGs that waited for it may leave. -/
def closeAsked (a : Asked) (s : State) : State :=
  let sigs := s.fab.sigs.map fun e => (e.1, e.2.filter fun k => !(k == (a.peer, a.pkt)))
  releaseSigs sigs { s with fab := { s.fab with asked := s.fab.asked.erase a, sigs := [] } }

/-- The answer to a read that a unit made for itself: its bytes, or that it was refused. -/
def farAnswer (id : Nat) (t : Tx) (s : State) : State :=
  { s with
    farReads := s.farReads.map fun e =>
      if e.id = id then (if t.status = 0 then { e with data := some t.data } else { e with bad := true }) else e
    events := s.events ++ [⟨.ports, none⟩] }

/-- REMOTE_RESPONSE (R328, R331): the answer to a request of this package; one that nothing waits for is discarded. A bare
acknowledgement of a load or atomic tells only of its refusal. -/
def execRemoteResponse (w : RemoteRsp) (s : State) : Outcome State Fault Refusal :=
  let t := w.tx
  match s.fab.asked.find? fun a => a.peer == t.src && a.pkt == t.pkt with
  | none => .next s
  | some a =>
    if (a.kind = .read || a.kind = .atomic) && t.kind = .ack && t.status = 0 then .next s
    else
      let s1 := closeAsked a s
      .next (if s1.farReads.any fun e => e.id = a.id then farAnswer a.id t s1 else
        match a.unitKind.toNat with
        | 5 => ceAnswer a t s1
        | 6 => heAcked a.id t.status.toNat s1
        | 7 => s1
        | _ => ctxAnswer a t s1)

/-! SIG (spec/12_semaphores.md R273). -/

/-- What a SIG of the issuing context waits behind: the writes of the package (R273), and the context's own loads and atomics, since it is a
release at fabric scope (spec/11_ordering.md R253). -/
def sigBehind (s : State) : List (BitVec 12 × BitVec 24) :=
  openWrites s ++ (s.fab.asked.filter fun a => (a.kind = .read || a.kind = .atomic) &&
    (curCtx s).reqs.any fun r => r.due.isNone && r.id == a.id).map fun a => (a.peer, a.pkt)

/-- A SIG issues: its SIGNAL record, whose value after is that of a counter it cannot see, a free value (spec/19_observation.md R403; log 1); its
number, its place behind earlier requests. -/
def issueSig (id delta : Word) (s : State) : State :=
  let peer := fieldOf id 18 12
  let t := { contextTx s .signal peer 0 0 with operand := id, expect := delta }
  let i := s.reqId
  let s1 := traceCtx 0x21 1 id.toNat delta.toNat (Config.freeWord s.free).toNat (9 + 2^11 * s.peer.toNat) { s with free := s.free + 1 }
  queueSig i id (sigBehind s) t (modCur { s1 with reqId := s.reqId + 1 } fun x => { x with reqs := x.reqs ++ [⟨i, none⟩] })

/-- SIG (R273), a logged word: a release at fabric scope. -/
def execSig (w : A2W) (s : State) : Outcome State Fault Refusal :=
  loggedWord w.st 0x1F 0 none (do
    operands [w.a.toNat, w.b.toNat] []
    let a ← gr w.a.toNat
    let b ← gr w.b.toNat
    raiseIf (fieldOf a 30 34 != 0) tPROT a
    let s ← gets (fun s => s)
    let st := peerState s (curPart s) (fieldOf a 18 12)
    raiseIf (decide (st < 2)) tABSENT a
    if st = 2 then stop (.trapIn (sendEvent (curPart s + 1) 0x22 [] s) tDENIED a) else pure ()
    needEntry
    releaseAt 5
    upd (issueSig a b)
    upd fun s => releaseSigs s.fab.sigs { s with fab := { s.fab with sigs := [] } }
    pure 0) s

end Sys2Proof.Machine
end

