-- ==== Sys2Proof/Machine/Launch.lean ====
section
/-! DEFINITION. Launch queues: knocks, hardware slots, packets, graphs, completion records and Grailo programs of the command
processor (spec/16_launch.md R342 to R358). -/

namespace Sys2Proof.Machine

open Host (Outcome)

/-! Reaching the command processor. -/

/-- The command processor of a die. -/
def cpOf (s : State) (d : Nat) : Cp := (dieOf s d).cp
/-- Change a command processor. -/
def modCp (s : State) (d : Nat) (f : Cp → Cp) : State := modDie s d fun x => { x with cp := f x.cp }
/-- The die of the command processor that acts. -/
def curCp (s : State) : Nat := agentDie s.cur
/-- Change a resident queue. -/
def modLq (s : State) (d q : Nat) (f : LQueue → LQueue) : State :=
  modCp s d fun c =>
    match tget? c.q q with
    | some x => { c with q := tput c.q q (f x) }
    | none => c
/-- A field of a queue's record (R343). -/
def lqF (s : State) (d q off n : Nat) : Nat := hwRead s (lqRec s d q + off) n
/-- Write a field of a queue's record (log 83). -/
def lqPut (s : State) (d q off n v : Nat) : State := hwWrite s (lqRec s d q + off) n v
/-- RIDX. -/
def lqRidx (s : State) (d q : Nat) : Nat := lqF s d q 0x18 8
/-- STATE[2:0]. -/
def lqState (s : State) (d q : Nat) : Nat := lqF s d q 0x68 4 % 8
/-- Write STATE with a fault code. -/
def lqSetState (s : State) (d q st code : Nat) : State := lqPut s d q 0x68 4 (st + 2^8 * code)
/-- Levels of chaining (R351). -/
def lqDepth (s : State) (d q : Nat) : Nat := ((upto 4).filter fun j => lqF s d q (0x78 + 16 * j) 4 != 0).length
/-- The indices still to be fetched are those below RIDX + (KIDX − RIDX) mod 2^32 (R346). -/
def lqLimit (s : State) (d q : Nat) : Nat :=
  let r := lqRidx s d q
  let k := tget (cpOf s d).latch q (r % 2^32)
  r + (k + 2^32 - r % 2^32) % 2^32

/-! Faults, holds and parking (R348, R349, R352). -/

/-- A queue leaves its hardware slot. -/
def lqLeave (d q : Nat) (s : State) : State := modCp s d fun c => { c with q := tdel c.q q }

/-- A queue fault: decoding stops, STATE 3 with the code, a QFAULT event with the queue number, RIDX, the code and FAULT's imm14 (log 48). -/
def lqFaultImm (d q code imm : Nat) (s : State) : State :=
  sendEvent (lqPart s d q + 1) 0x40
    (numberedBytes 4 (natBytes 4 q) ++ numberedBytes 8 (natBytes 8 (lqRidx s d q)) ++ numberedBytes 16 (natBytes 1 code) ++
      numberedBytes 18 (natBytes 2 imm))
    (modCp (lqLeave d q (lqSetState s d q 3 code)) d fun c => { c with runs := tdel c.runs q })
/-- A queue fault other than GFAULT. -/
def lqFault (d q code : Nat) (s : State) : State := lqFaultImm d q code 0 s

/-- The fault code of a refused access. -/
def lqCode (trap : Nat) : Nat := if trap = tPOISON then 9 else if trap = tSEAL then 0xA else 8

/-- A walk fault holds the queue's request; with a full fault queue it is tried again. DESIGN CHOICE (log 81): REQ of a fault of the command
processor names the reserved unit kind 10, for which spec/06_scratchpad.md R141 has no code, and core 32 × die. -/
def lqHold (d q va : Nat) (write : Bool) (reason : Nat) (s : State) : State :=
  match unitHold s d (lqPart s d q) va write false reason 10 (32 * d) [.launchQueue (BitVec.ofNat 2 d) (BitVec.ofNat 12 q)] with
  | some t => modLq t d q fun x => { x with held := true }
  | none => modCp (fqHold d 10 (32 * d) va s) d fun c => { c with kvec := withOne c.kvec q, ready := max c.ready (s.now + 1) }

/-- What a refusal does to its queue. -/
def lqRefused (d q : Nat) (e : UErr) (va : Nat) (write : Bool) (s : State) : State :=
  match e with
  | .code c => lqFault d q (lqCode c) s
  | .walk r => lqHold d q va write r s

/-- How the command processor resolves an access: at the home of its line, for acquire and release at system scope (R346, R350). -/
def cpTgt (d p : Nat) : Resolver := fun s need va k =>
  match dieTgt s d p need va k with
  | (.ok (.phys pa pte), t) => (.ok (.phys pa pte), if copyable d pa pte then dropL2 t d (pa / 128) else t)
  | r => r

/-- Work for a queue: a value, or the state in which it has faulted or is held. -/
abbrev CpM (α : Type) := StateT State (Except State) α

/-- Stop in a state. -/
def cpStop {α : Type} (f : State → State) : CpM α := fun s => .error (f s)
/-- The state. -/
def cpGets {α : Type} (f : State → α) : CpM α := fun s => .ok (f s, s)
/-- Change the state. -/
def cpUpd (f : State → State) : CpM Unit := fun s => .ok ((), f s)
/-- Fault the queue if a condition holds. -/
def cpBad (d q : Nat) (b : Bool) (code : Nat) : CpM Unit := if b then cpStop (lqFault d q code) else pure ()
/-- Read in the queue's partition. -/
def cpRead (d q va n : Nat) : CpM (List Byte) := fun s =>
  match readVia (cpTgt d (lqPart s d q)) (n / 64 + 2) s (32 * d) va n with
  | (.ok l, t) => .ok (l, t)
  | (.error (e, a), t) => .error (lqRefused d q e a false t)
/-- Write in the queue's partition. -/
def cpWrite (d q va : Nat) (l : List Byte) : CpM Unit := fun s =>
  match writeVia (cpTgt d (lqPart s d q)) (l.length / 64 + 2) s (32 * d) (lqPart s d q) va l with
  | (none, t) => .ok ((), t)
  | (some (e, a), t) => .error (lqRefused d q e a true t)
/-- The state that work ends in. -/
def cpRun (m : CpM Unit) (s : State) : State :=
  match m s with
  | .ok (_, t) => t
  | .error t => t

/-! Completion (R355, R356). -/

/-- Charge a packet with the energy of a slice (spec/19_observation.md R411). -/
def addEnergy (d tok n : Nat) (s : State) : State :=
  modCp s d fun c => { c with flights := c.flights.map fun f => if f.tok = tok then { f with energy := f.energy + n } else f }

/-- The bytes of a completion record: ENERGY is the floor in nJ of what the packet's slices were charged (spec/19_observation.md R411). -/
def recordBytes (s : State) (d : Nat) (f : Flight) (status : Nat) : List Byte :=
  [0x41, BitVec.ofNat 8 f.typ] ++ natBytes 2 status ++ natBytes 2 f.queue ++ [0, 0] ++ natBytes 8 f.index ++ natBytes 8 (diecyc s d) ++
    natBytes 8 (f.energy / 2^16)

/-- Write the late record `r`, or hold it: on the fault queue, or to be tried again where that is full. One that is refused otherwise is
lost (log 34). -/
def cpLate (d : Nat) (r : LateRecord) (s : State) : State :=
  let drop (t : State) : State := modCp t d fun c => { c with recs := c.recs.filter fun e => e.n != r.n }
  match writeVia (cpTgt d r.part.toNat) 3 s (32 * d) r.part.toNat r.va r.bytes with
  | (some (.walk w, a), t) =>
    match unitHold t d r.part.toNat a true false w 10 (32 * d) [.record (BitVec.ofNat 2 d) r.n] with
    | some u => modCp u d fun c => { c with recs := c.recs.map fun e => if e.n = r.n then { e with held := true } else e }
    | none => modCp (fqHold d 10 (32 * d) a t) d fun c => { c with ready := max c.ready (s.now + 1) }
  | (_, t) => drop t

/-- The first late record that may be written: the records of one queue are written in their order (R355). -/
def nextLate (c : Cp) : Option LateRecord :=
  c.recs.find? fun r => !r.held && c.recs.all fun e => e.queue != r.queue || decide (r.n ≤ e.n)

/-- Write a packet's completion record, behind those of its queue that are late; CIDX advances, the event goes out at once. -/
def cpRecord (d : Nat) (f : Flight) (status : Nat) (s : State) : State :=
  if f.flags / 2 % 2 = 0 then s
  else
    let b := recordBytes s d f status
    let i := lqF s d f.queue 0xB0 8
    let va := lqF s d f.queue 0x50 8 + 32 * (i % 2^(min 16 (lqF s d f.queue 0x58 1)))
    let n := (cpOf s d).recNext
    let r : LateRecord := ⟨n, f.queue, f.part, va, b, false⟩
    let late := (cpOf s d).recs.any fun e => e.queue = f.queue
    let s1 := modCp s d fun c => { c with recs := c.recs ++ [r], recNext := n + 1 }
    let s2 := lqPut (if late then s1 else cpLate d r s1) d f.queue 0xB0 8 (i + 1)
    if f.flags / 4 % 2 = 1 then sendEvent (f.part.toNat + 1) 0x41 (numberedBytes 0 b) s2 else s2

/-- A queue with nothing to fetch and nothing in flight is idle (log 34). -/
def cpIdle (d q : Nat) (s : State) : State :=
  match tget? (cpOf s d).q q with
  | none => s
  | some x =>
    if x.pkt.isNone && x.run.isNone && lqDepth s d q = 0 && decide (x.limit ≤ lqRidx s d q) && lqState s d q = 1 &&
        (cpOf s d).flights.all (fun f => f.queue != q) then lqSetState s d q 0 0 else s

/-- CHAIN packets whose blocks are decoded and whose packets are complete, complete. -/
def cpChains (d fuel : Nat) (s : State) : State :=
  match fuel with
  | 0 => s
  | fuel + 1 =>
    let l := (cpOf s d).flights
    match l.find? fun f => f.typ = 5 && !f.isOpen && l.all (fun g => !g.parents.contains f.tok) with
    | none => s
    | some f => cpChains d fuel (cpRecord d f 0 (modCp s d fun c => { c with flights := c.flights.filter fun g => g.tok != f.tok }))

/-- A packet is complete, with its status. -/
def cpComplete (d tok status : Nat) (s : State) : State :=
  match (cpOf s d).flights.find? fun f => f.tok = tok with
  | none => s
  | some f =>
    let s1 := modCp s d fun c => { c with flights := c.flights.filter fun g => g.tok != tok }
    cpIdle d f.queue (cpChains d 8 (cpRecord d f status s1))

/-! Fetching packets (R346, R350, R351). -/

/-- The CHAINs that a queue decodes now. -/
def lqChains (s : State) (d q : Nat) : List Nat := tget (cpOf s d).chains q []

/-- Fetch the queue's next packet, if it has one and none is waiting to be decoded. A TYPE that does not exist, and CUSTOM without a
program, fault the queue. -/
def cpFetch (d q : Nat) (s : State) : State :=
  match tget? (cpOf s d).q q with
  | none => s
  | some x =>
    let n := lqDepth s d q
    let r := lqRidx s d q
    if x.pkt.isSome || x.run.isSome || x.held || x.load || (n = 0 && decide (x.limit ≤ r)) then s
    else
      cpRun (do
        let va := if n = 0 then lqF s d q 0 8 + 16 * (r % 2^(min 20 (lqF s d q 8 1))) else lqF s d q (0x70 + 16 * (n - 1)) 8
        let b ← cpRead d q va 16
        let t := recF b 0 1
        cpBad d q (t = 0 || decide (7 < t) || (t = 7 && x.prog.isNone)) 1
        cpUpd fun s => modLq s d q fun x => { x with pkt := some b }) s

/-- Go past the packet that has been consumed: in the innermost block, whose end consumes its CHAIN, or in the ring. -/
def cpAdvance (d q fuel : Nat) (s : State) : State :=
  match fuel with
  | 0 => s
  | fuel + 1 =>
    match lqDepth s d q with
    | 0 => lqPut s d q 0x18 8 (lqRidx s d q + 1)
    | n + 1 =>
      let o := 0x70 + 16 * n
      let left := lqF s d q (o + 8) 4 - 1
      let s1 := lqPut (lqPut s d q o 8 (lqF s d q o 8 + 16)) d q (o + 8) 4 left
      if left != 0 then s1
      else
        let tok := (lqChains s d q).headD 0
        let s2 := modCp s1 d fun c =>
          { c with chains := tput c.chains q (tget c.chains q []).tail,
                   flights := c.flights.map fun f => if f.tok = tok then { f with isOpen := false } else f }
        cpAdvance d q fuel (cpChains d 8 s2)

/-- The packet in hand has been decoded: the next one. An emitted packet gives the program its next op. -/
def cpConsume (d q : Nat) (s : State) : State :=
  let inRun := match tget? (cpOf s d).q q with
    | some x => x.run.isSome
    | none => false
  let s1 := modLq s d q fun x => { x with pkt := none, wait := none, used := s.now }
  cpIdle d q (cpFetch d q (if inRun then s1 else cpAdvance d q 5 s1))

/-- The packet in hand is in flight, under a new number. -/
def cpFly (d q typ flags : Nat) (isOpen : Bool) : CpM Nat := fun s =>
  let n := (cpOf s d).tok
  .ok (n, modCp s d fun c =>
    { c with tok := n + 1, flights := c.flights ++ [⟨n, q, BitVec.ofNat 3 (lqPart s d q), lqRidx s d q, typ, flags, lqChains s d q, isOpen, 0⟩] })

/-- The packet in hand completes at once. -/
def cpNow (d q typ flags : Nat) : CpM Unit := do
  let n ← cpFly d q typ flags false
  cpUpd (cpComplete d n 0)

/-! Hardware slots (R348, R358). -/

/-- Whether op `i` of a program, `o` its decoding, lies in the body of a LOOP at `j` with length `l`. -/
def inBody (j l i : Nat) : Bool := decide (j < i) && decide (i ≤ j + l)

/-- The LOOPs of a program: op and body length. -/
def grLoops (n : Nat) (ops : List (Option Instr)) : List (Nat × Nat) :=
  match ops with
  | [] => []
  | some (.grLoop w) :: r => (n, w.l.toNat) :: grLoops (n + 1) r
  | _ :: r => grLoops (n + 1) r

/-- A window that a record declares (R343). -/
def lqWindow (s : State) (d q w : Nat) : Option (Nat × Nat) :=
  let v := lqF s d q (0x30 + 8 * w) 8
  let k := v % 64
  if 6 ≤ k && k ≤ 30 && v / 2^56 = 0 && (v - k) % 2^k = 0 then some (v - k, 2^k) else none

/-- The load-time checks of op `i` of a program of `n` ops (R358). -/
def grOpOk (win : Nat → Bool) (n : Nat) (loops : List (Nat × Nat)) (i : Nat) (o : Option Instr) : Bool :=
  let skip (k : Nat) : Bool :=
    let t := i + 1 + k
    decide (1 ≤ k) && decide (t < n) && loops.all fun l => inBody l.1 l.2 i == inBody l.1 l.2 t
  match o with
  | none => false
  | some (.grLdm w) => win w.w.toNat
  | some (.grStm w) => win w.w.toNat
  | some (.grBrz w) => skip w.n.toNat
  | some (.grBrnz w) => skip w.n.toNat
  | some (.grLoop w) =>
    decide (i + w.l.toNat < n) && decide ((loops.filter fun l => inBody l.1 l.2 i).length < 4) &&
      loops.all (fun l => !inBody l.1 l.2 i || inBody l.1 l.2 (i + w.l.toNat))
  | some _ => true

/-- The load-time checks of a program (R358). -/
def grVerify (win : Nat → Bool) (words : List Nat) : Bool :=
  let ops := words.map decodeGr
  let loops := grLoops 0 ops
  (upto words.length).all fun i => grOpOk win words.length loops i (nth ops i none)

/-- The program of a queue, read and verified; none for a queue without one. -/
def cpProgram (d q : Nat) : CpM (Option (List Nat)) := do
  let s ← cpGets fun s => s
  if lqF s d q 0x0A 1 / 2 % 2 = 0 then pure none
  else do
    let n := lqF s d q 0x28 2
    cpBad d q (n = 0 || decide (1024 < n) || lqF s d q 0x20 8 % 4 != 0) 4
    let b ← cpRead d q (lqF s d q 0x20 8) (4 * n)
    let words := chunkNats 4 n b
    cpBad d q (!grVerify (fun w => (lqWindow s d q w).isSome) words) 4
    pure (some words)

/-- The queue to evict for another: the least recently used with nothing to do, else of those that wait at the HSS, else of those that
wait for a graph. -/
def cpVictim (s : State) (d : Nat) : Option (Nat × LQueue) :=
  let l := (cpOf s d).q.filter fun e => !e.2.held
  let oldest (l : List (Nat × LQueue)) : Option (Nat × LQueue) :=
    l.foldl (fun b e =>
      match b with
      | none => some e
      | some x => if e.2.used < x.2.used then some e else b) none
  let idle := l.filter fun e => e.2.pkt.isNone && e.2.run.isNone && lqDepth s d e.1 = 0 && decide (e.2.limit ≤ lqRidx s d e.1) &&
    (cpOf s d).flights.all (fun f => f.queue != e.1)
  let sem := l.filter fun e => match e.2.wait with
    | some (.hss _ _ _ _) => true
    | _ => false
  let gr := l.filter fun e => match e.2.wait with
    | some (.graph _) => true
    | _ => false
  (oldest idle).orElse fun _ => (oldest sem).orElse fun _ => oldest gr

/-- The decode state of a queue whose program runs is set aside as it leaves its slot, to be taken up at the emitted packet (log 35). -/
def lqAside (d q : Nat) (x : LQueue) (s : State) : State :=
  modCp (lqLeave d q s) d fun c => if x.run.isSome then { c with runs := tput c.runs q { x with wait := none, held := false } } else c

/-- Evict a queue: RIDX, STATE and CSTK stand in its record; a wait arms what wakes it. -/
def cpEvict (d : Nat) (e : Nat × LQueue) (s : State) : State :=
  modCp (lqAside d e.1 e.2 s) d fun c =>
    match e.2.wait with
    | some (.hss k i _ m) => { c with armed := c.armed ++ [(e.1, k, i)], kvec := if m then withOne c.kvec e.1 else c.kvec }
    | some (.graph va) => { c with waitG := c.waitG ++ [(e.1, va)] }
    | _ => c

/-- Load a queue into a free slot: its program is read and verified, its first packet fetched. A program that ran goes on. -/
def cpLoad (d q : Nat) (s : State) : State :=
  let s1 := lqSetState s d q 1 0
  let old := (tget? (cpOf s d).runs q).orElse fun _ => tget? (cpOf s d).q q
  let x : LQueue := { limit := lqLimit s d q, used := s.now, load := true, run := old.bind (·.run), pkt := old.bind (·.pkt) }
  let s2 := modCp s1 d fun c =>
    { c with armed := c.armed.filter fun a => a.1 != q, waitG := c.waitG.filter fun a => a.1 != q, runs := tdel c.runs q, q := tput c.q q x }
  cpRun (do
    let prog ← cpProgram d q
    cpUpd fun s => modLq s d q fun x => { x with prog := prog, load := false }
    cpUpd fun s => cpIdle d q (cpFetch d q s)) s2

/-- The scanner has taken a queue's bit. -/
def cpTakeBit (d q : Nat) (s : State) : State :=
  if lqF s d q 0x0A 1 % 2 = 0 || decide (2 ≤ lqState s d q) then s
  else
    match tget? (cpOf s d).q q with
    | some x =>
      if x.load then (if x.held then s else cpLoad d q s) else
      let w := match x.wait with
        | some (.mem va t _) => some (.mem va t s.now)
        | w => w
      let s1 := modLq (lqSetState s d q 1 0) d q fun x => { x with limit := lqLimit s d q, wait := w, used := s.now }
      cpIdle d q (cpFetch d q s1)
    | none =>
      if (cpOf s d).q.length < 256 then cpLoad d q s
      else
        match cpVictim s d with
        | some e => cpLoad d q (cpEvict d e s)
        | none => modCp s d fun c => { c with kvec := withOne c.kvec q }

/-- The set bit that the scanner takes next: from the one after the last taken, around (R347). -/
def nextBit (c : Cp) : Option Nat :=
  let least (l : List Nat) : Option Nat :=
    l.foldl (fun b x => match b with
      | none => some x
      | some y => some (min x y)) none
  (least (c.kvec.filter fun n => decide (c.scanPos < n))).orElse fun _ => least c.kvec

/-- KNOCK_SCAN (R347): a bit that a knock sets in this cycle stays set. -/
def execKnockScan (s : State) : Outcome State Fault Refusal :=
  let d := curCp s
  match nextBit (cpOf s d) with
  | none => .next s
  | some q =>
    .next (cpTakeBit d q (modCp s d fun c =>
      { c with kvec := if c.fresh.contains (q, s.now) then c.kvec else without c.kvec q, scanPos := q, scanReady := s.now + 1 }))

/-- RECONCILE_PASS (R347): every queue that is idle or active with WIDX ≠ RIDX. -/
def execReconcilePass (s : State) : Outcome State Fault Refusal :=
  let d := curCp s
  let l := (upto 4096).filter fun q => decide (lqState s d q ≤ 1) && lqF s d q 0x10 8 != lqRidx s d q
  .next (modCp s d fun c =>
    { c with recon := s.now, kvec := l.foldl withOne c.kvec,
             latch := l.foldl (fun t q => tput t q (lqF s d q 0x10 8 % 2^32)) c.latch })

/-! Knocks (R344). -/

/-- The sequence of a knock that is accepted. -/
def knockFresh (kseq seq : Nat) : Bool :=
  let n := (seq + 2^32 - kseq % 2^32) % 2^32
  decide (1 ≤ n) && decide (n ≤ 2^31 - 1)

/-- The partition on whose behalf a knock comes; the PF has none. -/
def knockPart (b : KnockFrom) : Option Nat :=
  match b with
  | .context p => some p.toNat
  | .peer p => some p.toNat
  | .host fn _ => if fn = 0 then none else some (fn.toNat - 1)

/-- The package leaves SLEEP (R345, spec/20_host.md R423). -/
def wake (s : State) : State := if s.power.mode = 2 then { s with power := { s.power with mode := 0 } } else s

/-- KNOCK (R344): KSEQ, the latched index and the knock bit in one step. A host or peer knock of another partition's queue is
discarded with an event; a context's has trapped; a locked TDI takes none without IDE (spec/20_host.md R416). -/
def execKnock (w : KnockStore) (s : State) : Outcome State Fault Refusal :=
  let d := w.die.toNat
  let q := w.queue.toNat
  let own : Bool := match knockPart w.by_ with
    | some p => p = lqPart s d q
    | none => true
  let shut : Bool := match w.by_ with
    | .host fn ide => fnShut s fn.toNat ide
    | _ => false
  if shut then .next (sendEvent (lqPart s d q + 1) 0x21 [] s)
  else if !own then
    .next (match w.by_ with
      | .context _ => s
      | _ => sendEvent 0 0x42 [] s)
  else if !knockFresh (lqF s d q 0x6C 4) w.seq.toNat then .next s
  else
    .next (modCp (lqPut (wake s) d q 0x6C 4 w.seq.toNat) d fun c =>
      { c with latch := tput c.latch q w.kidx.toNat, kvec := withOne c.kvec q,
               fresh := (q, s.now) :: c.fresh.filter fun e => e.2 = s.now })

/-! Choosing the next packet. -/

/-- The row of a packet: 1 SLICE, 2 GRAPH, 3 and 4 WAIT, 5 and 6 SIGNAL on the HSS and in memory, 7 CHAIN, 8 NOP, 9 CUSTOM. -/
def pktRow (b : List Byte) : Nat :=
  let m := recF b 2 2 % 2
  match recF b 0 1 with
  | 1 => 1
  | 2 => 2
  | 3 => 3 + m
  | 4 => 5 + m
  | 5 => 7
  | 6 => 8
  | _ => 9

/-- Packets of the queue, other than the CHAINs it stands in, that are not complete. -/
def lqEarlier (s : State) (d q : Nat) : Bool :=
  (cpOf s d).flights.any fun f => f.queue = q && !(lqChains s d q).contains f.tok

/-- A queue's packet in hand may be decoded now: no held request, no slice waiting for an RMU entry, its FENCE and its SIGNAL order
satisfied, its wait met (R350, R354, spec/17_scheduling.md R363). -/
def pktGoes (s : State) (d q : Nat) (x : LQueue) (b : List Byte) : Bool :=
  let k := pktRow b
  let dp := (dieOf s d).disp
  !x.held && !x.load && dp.pending.all (fun h => h.queue != q) &&
    !((recF b 1 1 % 2 = 1 || k = 5 || k = 6) && lqEarlier s d q) &&
    (k != 1 || decide (dp.rmu.length + dp.pending.length < 1024)) &&
    (match x.wait with
      | none => true
      | some (.hss _ _ _ m) => m
      | some (.mem _ _ _) => false
      | some (.graph _) => false)

/-- The next op of a queue's program; past the last, END (R357). -/
def grNext (x : LQueue) : Option Instr :=
  if x.held || x.load || x.pkt.isSome then none
  else
    match x.run, x.prog with
    | some r, some p => if p.length ≤ r.pc then some .grailoEnd else decodeGr (nth p r.pc 0)
    | _, _ => none

/-- The resident queues in rotating order after the one served last. -/
def cpOrder (c : Cp) : List (Nat × LQueue) :=
  (c.q.filter fun e => decide (c.last < e.1)) ++ (c.q.filter fun e => decide (e.1 ≤ c.last))

/-- The row number of what a queue does next, with 0 for an op of its program; none while it waits. -/
def lqRow (s : State) (d : Nat) (e : Nat × LQueue) : Option Nat :=
  match e.2.pkt with
  | some b => if pktGoes s d e.1 e.2 b then some (pktRow b) else none
  | none => if (grNext e.2).isSome then some 0 else none

/-- The first queue whose next packet is of row `k` and may be decoded. -/
def cpPick (s : State) (d k : Nat) : Option (Nat × LQueue × List Byte) :=
  match (cpOrder (cpOf s d)).find? fun e => lqRow s d e == some k with
  | some (q, x) => x.pkt.map fun b => (q, x, b)
  | none => none

/-- Decode a packet of row `k`, at most one in a cycle. FLAGS[7:3] are zero (R350). -/
def pktStep (k : Nat) (f : Nat → Nat → LQueue → List Byte → CpM Unit) (s : State) : Outcome State Fault Refusal :=
  let d := curCp s
  match cpPick s d k with
  | none => .next s
  | some (q, x, b) =>
    .next (cpRun (do
      cpBad d q (decide (8 ≤ recF b 1 1)) 2
      f d q x b) (modCp s d fun c => { c with ready := s.now + 1, last := q }))

/-! SLICE (R350; the record of spec/17_scheduling.md R362). -/

/-- A field of a slice record. -/
def badSlice (r : List Byte) : Bool :=
  let nr := recF r 0x27 1
  (upto 3).any (fun i => recF r (8 * i) 8 % 64 != 0) || recF r 0x20 4 = 0 || decide (65536 < recF r 0x20 4) || recF r 0x24 1 = 0 ||
    decide (32 < recF r 0x24 1) || decide (4 ≤ recF r 0x25 1) || decide (8 < nr % 16) || decide (8 < nr / 16) ||
    (recF r 0x2C 1 != 0 && (decide (recF r 0x2C 1 < 16) || decide (28 < recF r 0x2C 1))) || recF r 0x2D 3 != 0 ||
    (List.any ((r.drop 0x50).take 0x30) (· != 0)) ||
    (upto 8).any (fun i => (decide (nr % 16 ≤ i) && recF r (0x80 + 8 * i) 8 != 0) || (decide (nr / 16 ≤ i) && recF r (0xC0 + 8 * i) 8 != 0))

/-- Hand slices to dispatch. -/
def cpHand (d : Nat) (l : List Handover) (s : State) : State :=
  modDie s d fun x => { x with disp := { x.disp with pending := x.disp.pending ++ l } }

/-- SLICE (R350). -/
def execCpSlice (s : State) : Outcome State Fault Refusal :=
  pktStep 1 (fun d q _ b => do
    let va := recF b 8 8
    cpBad d q (recF b 2 6 != 0 || va % 64 != 0) 2
    let r ← cpRead d q va 256
    cpBad d q (badSlice r) 2
    let n ← cpFly d q 1 (recF b 1 1) false
    cpUpd fun s => cpConsume d q (cpHand d [⟨n, none, BitVec.ofNat 3 (lqPart s d q), q, va, r, none⟩] s)) s

/-! GRAPH (R353, R354). -/

/-- Read and check the slice record at a VA (R362). -/
def cpSlice (d q va : Nat) : CpM Unit := do
  let r ← cpRead d q va 256
  cpBad d q (badSlice r) 2

/-- Read and check the slice records at these VAs. -/
def cpSlices (d q : Nat) (l : List Nat) : CpM Unit :=
  match l with
  | [] => pure ()
  | va :: r => do
    cpSlice d q va
    cpSlices d q r

/-- A header that R353 refuses. -/
def badGraph (h : List Byte) : Bool :=
  recF h 0 2 = 0 || decide (4096 < recF h 0 2) || decide (64 < recF h 4 1) || decide (recF h 5 1 < 6) || decide (20 < recF h 5 1) ||
    recF h 6 2 != 0 || recF h 8 8 % 64 != 0 || recF h 0x20 8 % 2^(recF h 5 1) != 0 || (h.drop 0x30).any (· != 0)

/-- The entries of a patch: OFF and VAL. -/
def cpPatch (d q size n va : Nat) : CpM (List (Nat × List Byte)) :=
  match n with
  | 0 => pure []
  | n + 1 => do
    let e ← cpRead d q va 16
    cpBad d q (recF e 0 4 % 8 != 0 || decide (size ≤ recF e 0 4) || recF e 4 4 != 0) 2
    let l ← cpPatch d q size n (va + 16)
    pure ((recF e 0 4, e.drop 8) :: l)

/-- Write the entries of a patch into a frame, in order. -/
def cpApply (d q frame : Nat) (l : List (Nat × List Byte)) : CpM Unit :=
  match l with
  | [] => pure ()
  | e :: r => do
    cpWrite d q (frame + e.1) e.2
    cpApply d q frame r

/-- Slices of an instance that are not handed over and whose predecessors are complete. -/
def GraphInst.ready (g : GraphInst) : List Nat :=
  (upto g.slices.length).filter fun i => !g.handed.contains i && g.edges.all fun e => e.2 != i || g.done.contains e.1

/-- Change a graph instance. -/
def modGraph (d tok : Nat) (f : GraphInst → GraphInst) (s : State) : State :=
  modCp s d fun c => { c with graphs := c.graphs.map fun x => if x.tok = tok then f x else x }

/-- A refused access of an instance: held on the fault queue, to be made again where that is full, or a fault of its queue. -/
def graphRefused (d : Nat) (g : GraphInst) (e : UErr) (va : Nat) (write : Bool) (s : State) : State :=
  match e with
  | .code c => lqFault d g.queue (lqCode c) s
  | .walk r =>
    match unitHold s d g.part.toNat va write false r 10 (32 * d) [.graph (BitVec.ofNat 2 d) g.tok] with
    | some t => modGraph d g.tok (fun x => { x with held := true }) t
    | none =>
      modCp (fqHold d 10 (32 * d) va (modGraph d g.tok (fun x => { x with again := true }) s)) d fun c => { c with ready := max c.ready (s.now + 1) }

/-- Hand the slices of an instance whose predecessors are complete to dispatch, which reads each record at its handover (R354, R362). -/
def graphHand (d : Nat) (g : GraphInst) (s : State) : State :=
  cpHand d (g.ready.map fun i => ⟨g.tok, some i, g.part, g.queue, nth g.slices i 0, [], some g.frameVa⟩)
    (modGraph d g.tok (fun x => { x with handed := x.handed ++ g.ready }) s)

/-- A slice of an instance is to be handed over again. -/
def graphTakeBack (d tok node : Nat) (s : State) : State := modGraph d tok (fun x => { x with handed := without x.handed node }) s

/-- GRAPH (R354). -/
def execCpGraph (s : State) : Outcome State Fault Refusal :=
  pktStep 2 (fun d q _ b => do
    let va := recF b 8 8
    cpBad d q (recF b 2 2 != 0 || va % 64 != 0) 2
    let h ← cpRead d q va 64
    cpBad d q (badGraph h) 2
    let ne := recF h 2 2
    let eb ← cpRead d q (recF h 0x10 8) (4 * ne)
    let edges := (chunkNats 4 ne eb).map fun e => (e % 2^16, e / 2^16)
    cpBad d q (edges.any fun e => decide (e.2 ≤ e.1) || decide (recF h 0 2 ≤ e.2)) 2
    let sl := (upto (recF h 0 2)).map fun i => recF h 8 8 + 256 * i
    cpSlices d q ((upto sl.length).filterMap fun i => if edges.any fun e => e.2 = i then none else sl[i]?)
    let size := 2^(recF h 5 1)
    let patch ← (if recF b 4 4 = 0xFFFFFFFF then pure [] else do
      let s ← cpGets fun s => s
      let pa := lqF s d q 0x60 8 + 64 * recF b 4 4
      let ph ← cpRead d q pa 16
      cpBad d q (decide (255 < recF ph 0 4) || recF ph 4 4 != 0) 2
      cpPatch d q size (recF ph 0 4) (pa + 8))
    let most := max 1 (recF h 4 1)
    let use := recF h 0x28 8
    match (upto most).find? fun i => use / 2^i % 2 = 0 with
    | none => cpUpd fun s => modLq s d q fun x => { x with wait := some (.graph va) }
    | some i => do
      let frame := recF h 0x20 8 + i * size
      let tpl ← cpRead d q (recF h 0x18 8) size
      cpWrite d q frame tpl
      cpApply d q frame patch
      cpWrite d q (va + 0x28) (natBytes 8 (use + 2^i))
      let n ← cpFly d q 2 (recF b 1 1) false
      cpUpd fun s =>
        let g : GraphInst := ⟨n, q, BitVec.ofNat 3 (lqPart s d q), va, i, frame, sl, edges, [], [], false, false, false⟩
        cpConsume d q (graphHand d g (modCp s d fun c => { c with graphs := c.graphs ++ [g] }))) s

/-- A graph's instance has completed: queues that wait for one go on. -/
def graphWake (p va : Nat) (s : State) : State :=
  { s with
    dies := s.dies.map fun e =>
      let mine (q : Nat) : Bool := lqPart s e.1 q = p
      (e.1, { e.2 with
        cp := { e.2.cp with
          q := e.2.cp.q.map fun x => if mine x.1 && x.2.wait == some (.graph va) then (x.1, { x.2 with wait := none }) else x
          kvec := (e.2.cp.waitG.filter fun w => mine w.1 && w.2 = va).foldl (fun l w => withOne l w.1) e.2.cp.kvec } }) }

/-- An instance is complete: it wakes the queues that wait for one, and its packet completes. -/
def graphEnd (d : Nat) (g : GraphInst) (s : State) : State :=
  let s1 := graphWake g.part.toNat g.va (modCp s d fun c => { c with graphs := c.graphs.filter fun x => x.tok != g.tok })
  if g.bad then cpComplete d g.tok ((Config.freeWord s1.free).toNat % 2^16) { s1 with free := s1.free + 1 } else cpComplete d g.tok 0 s1

/-- Clear the INUSE bit of an instance's frame, and end it. A refused access leaves the bit and faults the queue. -/
def graphClose (d : Nat) (g : GraphInst) (s : State) : State :=
  let refused (e : UErr) (a : Nat) (w : Bool) (t : State) : State :=
    match e with
    | .walk _ => graphRefused d g e a w t
    | .code _ => graphEnd d g (graphRefused d g e a w t)
  match readVia (cpTgt d g.part.toNat) 2 s (32 * d) (g.va + 0x28) 8 with
  | (.error (e, a), t) => refused e a false t
  | (.ok b, t) =>
    let u := bytesNat b
    match writeVia (cpTgt d g.part.toNat) 2 t (32 * d) g.part.toNat (g.va + 0x28)
        (natBytes 8 (if u / 2^g.frame % 2 = 1 then u - 2^g.frame else u)) with
    | (some (e, a), v) => refused e a true v
    | (none, v) => graphEnd d g v

/-- An instance makes its next access again: a slice record, or INUSE. -/
def graphAgain (d tok : Nat) (s : State) : State :=
  match (cpOf s d).graphs.find? fun g => g.tok = tok with
  | none => s
  | some g =>
    let t := modGraph d tok (fun x => { x with again := false, held := false }) s
    if g.done.length < g.slices.length then graphHand d g t else graphClose d g t

/-- What a command processor makes again where the fault queue was full: an instance's access, else a completion record. -/
def cpAgain (d : Nat) (s : State) : State :=
  match (cpOf s d).graphs.find? fun g => g.again && !g.held with
  | some g => graphAgain d g.tok s
  | none =>
    match nextLate (cpOf s d) with
    | some r => cpLate d r s
    | none => s

/-- A slice of an instance has completed with its STATUS[15:0]. -/
def graphSliceDone (d tok node status : Nat) (s : State) : State :=
  match (cpOf s d).graphs.find? fun g => g.tok = tok with
  | none => s
  | some g0 =>
    let g := { g0 with done := withOne g0.done node, bad := g0.bad || status != 2 }
    let s1 := modGraph d tok (fun _ => g) s
    if g.done.length < g.slices.length then graphHand d g s1 else graphClose d g s1

/-- A slice has ended: its packet, or its instance. -/
def sliceEnded (d : Nat) (h : Handover) (status : Nat) (s : State) : State :=
  match h.node with
  | none => cpComplete d h.tok status s
  | some n => graphSliceDone d h.tok n status s

/-! WAIT and SIGNAL (R350). -/

/-- The counter that a packet names, checked against PART. -/
def cpCounter (d q id : Nat) : CpM (Nat × Nat) := do
  cpBad d q (decide (2^18 ≤ id)) 2
  let s ← cpGets fun s => s
  cpBad d q (!hssInRange s (lqPart s d q) (id % 2^16)) 8
  cpBad d q (hssPoisoned s (id / 2^16) (id % 2^16)) 9
  pure (id / 2^16, id % 2^16)

/-- The packet in hand is complete and decoded. -/
def cpFinish (d q : Nat) (b : List Byte) : CpM Unit := do
  cpNow d q (recF b 0 1) (recF b 1 1)
  cpUpd (cpConsume d q)

/-- WAIT on a counter (R350). -/
def execWaitHss (s : State) : Outcome State Fault Refusal :=
  pktStep 3 (fun d q x b => do
    cpBad d q (recF b 2 2 != 0) 2
    let (k, i) ← cpCounter d q (recF b 4 4)
    let t := sgn 64 (recF b 8 8)
    let s ← cpGets fun s => s
    if x.wait.isSome || decide (t ≤ hssGet s k i) then cpFinish d q b
    else cpUpd fun s => modLq s d q fun x => { x with wait := some (.hss k i t false) }) s

/-- A queue parks (R349): STATE 2, its slot given up. -/
def lqPark (d q va reason : Nat) (s : State) : State :=
  match unitHold s d (lqPart s d q) va false false reason 10 (32 * d) [.launchQueue (BitVec.ofNat 2 d) (BitVec.ofNat 12 q)] with
  | none => modCp (fqHold d 10 (32 * d) va s) d fun c => { c with kvec := withOne c.kvec q, ready := max c.ready (s.now + 1) }
  | some t =>
    match tget? (cpOf s d).q q with
    | some x => lqAside d q x (lqSetState t d q 2 0)
    | none => t

/-- Read the signal of a memory WAIT: met, it is decoded; else it is read again within 4,096 cycles. -/
def cpSignal (d q va : Nat) (thr : Int) (b : List Byte) : CpM Unit := fun s =>
  match readVia (cpTgt d (lqPart s d q)) 2 s (32 * d) va 8 with
  | (.ok l, t) =>
    if thr ≤ sgn 64 (bytesNat l) then cpFinish d q b t
    else .ok ((), modLq t d q fun x => { x with wait := some (.mem va thr (s.now + 4096)) })
  | (.error (.code c, _), t) => .error (lqFault d q (lqCode c) t)
  | (.error (.walk r, a), t) => .error (lqPark d q a r t)

/-- WAIT on a signal in memory (R350). -/
def execWaitMemory (s : State) : Outcome State Fault Refusal :=
  pktStep 4 (fun d q _ b => do
    cpBad d q (recF b 2 2 != 1 || recF b 8 8 % 8 != 0) 2
    cpSignal d q (recF b 8 8) (sgn 32 (recF b 4 4)) b) s

/-- The first queue whose memory WAIT is to be read again: number, packet, VA, threshold. -/
def rereadDue (s : State) (d : Nat) : Option (Nat × List Byte × Nat × Int) :=
  (cpOrder (cpOf s d)).findSome? fun e =>
    match e.2.wait, e.2.pkt with
    | some (.mem va t due), some b => if decide (due ≤ s.now) && !e.2.held then some (e.1, b, va, t) else none
    | _, _ => none

/-- MEMORY_WAIT_REREAD (R350). -/
def execMemoryWaitReread (s : State) : Outcome State Fault Refusal :=
  let d := curCp s
  match rereadDue s d with
  | none => .next s
  | some (q, b, va, t) => .next (cpRun (cpSignal d q va t b) (modCp s d fun c => { c with ready := s.now + 1 }))

/-- LAST of a command processor (spec/12_semaphores.md R267). -/
def cpLast (d : Nat) : BitVec 32 := BitVec.ofNat 32 (10 + 16 * (32 * d))

/-- SIGNAL on a counter (R350): as SEM.ADD, with LAST of kind 10; on another die it is performed when it arrives there. -/
def execSignalHss (s : State) : Outcome State Fault Refusal :=
  pktStep 5 (fun d q _ b => do
    cpBad d q (recF b 2 2 != 0) 2
    let (k, i) ← cpCounter d q (recF b 4 4)
    let v := sgn 64 (recF b 8 8)
    if k = d then do
      cpUpd fun s => hssPut k i (sat64 (hssGet s k i + v)) (cpLast d) s
      cpFinish d q b
    else do
      let tok ← cpFly d q 4 (recF b 1 1) false
      cpUpd fun s =>
        cpConsume d q { s with
          reqId := s.reqId + 1
          farSems := s.farSems ++ [⟨s.now + Config.latHssFar, k, i, .add (wordOfInt v), 32 * d, .L, lqPart s d q, 0, s.reqId, some (d, q, tok)⟩] }) s

/-- A SIGNAL arrives at the store of another die (spec/12_semaphores.md R266): the update is performed, and its packet complete; a counter that
is poisoned by then faults the queue. -/
def farSignal (f : FarSem) (s : State) : State :=
  let s1 := { s with farSems := s.farSems.filter fun e => e.id != f.id }
  match f.cp, f.op with
  | some (d, q, tok), .add b =>
    if hssPoisoned s1 f.die f.idx then
      lqFault d q 9 (modCp s1 d fun c => { c with flights := c.flights.filter fun g => g.tok != tok })
    else cpComplete d tok 0 (hssPut f.die f.idx (sat64 (hssGet s1 f.die f.idx + b.toInt)) (cpLast d) s1)
  | _, _ => s1

/-- SIGNAL in memory (R350): an 8-byte store. -/
def execSignalMemory (s : State) : Outcome State Fault Refusal :=
  pktStep 6 (fun d q _ b => do
    cpBad d q (recF b 2 2 != 1 || recF b 8 8 % 8 != 0) 2
    cpWrite d q (recF b 8 8) (natBytes 8 (wordOfInt (sgn 32 (recF b 4 4))).toNat)
    cpFinish d q b) s

/-- CHAIN (R351): its block's packets are decoded in its place. -/
def execCpChain (s : State) : Outcome State Fault Refusal :=
  pktStep 7 (fun d q _ b => do
    let n := recF b 4 4
    let va := recF b 8 8
    cpBad d q (recF b 2 2 != 0 || n = 0 || decide (2^20 < n) || va % 16 != 0) 2
    let k := lqDepth (← cpGets fun s => s) d q
    cpBad d q (decide (4 ≤ k)) 3
    let tok ← cpFly d q 5 (recF b 1 1) true
    cpUpd fun s =>
      let s1 := lqPut (lqPut s d q (0x70 + 16 * k) 8 va) d q (0x78 + 16 * k) 4 n
      let s2 := modCp s1 d fun c => { c with chains := tput c.chains q (tok :: tget c.chains q []) }
      cpFetch d q (modLq s2 d q fun x => { x with pkt := none, used := s.now })) s

/-- NOP (R350). -/
def execLaunchNop (s : State) : Outcome State Fault Refusal :=
  pktStep 8 (fun d q _ b => do
    cpBad d q (recF b 2 14 != 0) 2
    cpFinish d q b) s

/-- CUSTOM (R357): the program starts with the packet in x1 and x2. -/
def execCpCustom (s : State) : Outcome State Fault Refusal :=
  pktStep 9 (fun d q _ b =>
    cpUpd fun s => modLq s d q fun x =>
      { x with pkt := none, used := s.now, run := some { x := [(1, wd (recF b 0 8)), (2, wd (recF b 8 8))] } }) s

/-! Grailo (R357, R358). -/

/-- A register of a program; x0 reads zero. -/
def Grailo.get (r : Grailo) (n : Nat) : Word := if n = 0 then 0 else tget r.x n 0
/-- Write a register. -/
def Grailo.set (r : Grailo) (n : Nat) (v : Word) : Grailo := if n = 0 then r else { r with x := tput r.x n v }

/-- Where the program goes on from op `pc`: at the end of a loop's body, back to its start while iterations are left. -/
def grGo (pc : Nat) (loops : List (Nat × Nat × Nat)) : Nat × List (Nat × Nat × Nat) :=
  match loops with
  | [] => (pc, [])
  | (a, z, n) :: r => if pc = z then (if 1 < n then (a, (a, z, n - 1) :: r) else grGo pc r) else (pc, (a, z, n) :: r)

/-- The program goes on at op `pc`. -/
def Grailo.goto (r : Grailo) (pc : Nat) : Grailo :=
  let g := grGo pc r.loops
  { r with pc := g.1, loops := g.2 }

/-- The first queue whose program's next op is `i`. -/
def grPick (s : State) (d : Nat) (i : Instr) : Option (Nat × Grailo) :=
  match (cpOrder (cpOf s d)).find? fun e => grNext e.2 == some i with
  | some (q, x) => x.run.map fun r => (q, r)
  | none => none

/-- An op: the 513th of a packet faults its queue. The op answers the program after it, from where it goes on. -/
def grOp (i : Instr) (f : Nat → Nat → Grailo → CpM Grailo) (s : State) : Outcome State Fault Refusal :=
  let d := curCp s
  match grPick s d i with
  | none => .next s
  | some (q, r) =>
    .next (cpRun (do
      cpBad d q (decide (512 ≤ r.ops)) 5
      let t ← f d q { r with ops := r.ops + 1 }
      cpUpd fun s => modLq s d q fun x => { x with run := some t }) (modCp s d fun c => { c with ready := s.now + 1, last := q }))

/-- An op that writes a register and goes on to the next. -/
def grAlu (i : Instr) (d : BitVec 4) (f : Grailo → Word) (s : State) : Outcome State Fault Refusal :=
  grOp i (fun _ _ r => pure ((r.set d.toNat (f r)).goto (r.pc + 1))) s

/-- END, or falling off the last op (R357). -/
def execGrailoEnd (s : State) : Outcome State Fault Refusal :=
  let d := curCp s
  match grPick s d .grailoEnd with
  | none => .next s
  | some (q, r) =>
    let t := modCp s d fun c => { c with ready := s.now + 1, last := q }
    let len := match tget? (cpOf s d).q q with
      | some x => (x.prog.getD []).length
      | none => 0
    if r.pc < len && 512 ≤ r.ops then .next (lqFault d q 5 t)
    else .next (cpIdle d q (cpFetch d q (cpAdvance d q 5 (modLq t d q fun x => { x with run := none, used := s.now }))))

/-- ADD (R357). -/
def execGrailoAdd (w : GrW) (s : State) : Outcome State Fault Refusal :=
  grAlu (.grailoAdd w) w.d (fun r => r.get w.a.toNat + r.get w.b.toNat) s
/-- SUB (R357). -/
def execGrailoSub (w : GrW) (s : State) : Outcome State Fault Refusal :=
  grAlu (.grailoSub w) w.d (fun r => r.get w.a.toNat - r.get w.b.toNat) s
/-- AND (R357). -/
def execGrailoAnd (w : GrW) (s : State) : Outcome State Fault Refusal :=
  grAlu (.grailoAnd w) w.d (fun r => r.get w.a.toNat &&& r.get w.b.toNat) s
/-- OR (R357). -/
def execGrailoOr (w : GrW) (s : State) : Outcome State Fault Refusal :=
  grAlu (.grailoOr w) w.d (fun r => r.get w.a.toNat ||| r.get w.b.toNat) s
/-- XOR (R357). -/
def execGrailoXor (w : GrW) (s : State) : Outcome State Fault Refusal :=
  grAlu (.grailoXor w) w.d (fun r => r.get w.a.toNat ^^^ r.get w.b.toNat) s
/-- ADDI (R357). -/
def execGrailoAddi (w : GrIW) (s : State) : Outcome State Fault Refusal :=
  grAlu (.grailoAddi w) w.d (fun r => r.get w.a.toNat + w.i.signExtend 64) s
/-- SHLI (R357). -/
def execGrailoShli (w : GrSW) (s : State) : Outcome State Fault Refusal :=
  grAlu (.grailoShli w) w.d (fun r => r.get w.a.toNat <<< w.n.toNat) s
/-- SHRI (R357). -/
def execGrailoShri (w : GrSW) (s : State) : Outcome State Fault Refusal :=
  grAlu (.grailoShri w) w.d (fun r => r.get w.a.toNat >>> w.n.toNat) s
/-- LDK (R357). -/
def execGrLdk (w : GrKW) (s : State) : Outcome State Fault Refusal :=
  grAlu (.grLdk w) w.d (fun r => (r.get w.d.toNat <<< 14) ||| w.i.setWidth 64) s

/-- The VA of a window access (R357): 8 bytes, rounded down. -/
def grVa (s : State) (d q : Nat) (w : GrMW) (r : Grailo) : Nat :=
  match lqWindow s d q w.w.toNat with
  | some (b, n) => b + (r.get w.a.toNat + w.i.signExtend 64).toNat % n / 8 * 8
  | none => 0

/-- LDM (R357). -/
def execGrLdm (w : GrMW) (s : State) : Outcome State Fault Refusal :=
  grOp (.grLdm w) (fun d q r => do
    let va := grVa (← cpGets fun s => s) d q w r
    let l ← cpRead d q va 8
    pure ((r.set w.d.toNat (wd (bytesNat l))).goto (r.pc + 1))) s

/-- STM (R357). -/
def execGrStm (w : GrMW) (s : State) : Outcome State Fault Refusal :=
  grOp (.grStm w) (fun d q r => do
    let va := grVa (← cpGets fun s => s) d q w r
    cpWrite d q va (natBytes 8 (r.get w.d.toNat).toNat)
    pure (r.goto (r.pc + 1))) s

/-- BRZ (R357). -/
def execGrBrz (w : GrBW) (s : State) : Outcome State Fault Refusal :=
  grOp (.grBrz w) (fun _ _ r => pure (r.goto (r.pc + 1 + (if r.get w.a.toNat = 0 then w.n.toNat else 0)))) s
/-- BRNZ (R357). -/
def execGrBrnz (w : GrBW) (s : State) : Outcome State Fault Refusal :=
  grOp (.grBrnz w) (fun _ _ r => pure (r.goto (r.pc + 1 + (if r.get w.a.toNat = 0 then 0 else w.n.toNat)))) s

/-- LOOP (R357). -/
def execGrLoop (w : GrLW) (s : State) : Outcome State Fault Refusal :=
  grOp (.grLoop w) (fun _ _ r =>
    let n := min (r.get w.a.toNat).toNat w.u.toNat
    let z := r.pc + 1 + w.l.toNat
    pure (if n = 0 then r.goto z else { r with pc := r.pc + 1, loops := (r.pc + 1, z, n) :: r.loops })) s

/-- EMIT (R357, R358): a 65th faults the queue, and so does a CHAIN or CUSTOM. -/
def execGrEmit (w : GrEW) (s : State) : Outcome State Fault Refusal :=
  grOp (.grEmit w) (fun d q r => do
    let b := natBytes 8 (r.get w.d.toNat).toNat ++ natBytes 8 (r.get w.a.toNat).toNat
    let t := recF b 0 1
    cpBad d q (decide (64 ≤ r.emits)) 5
    cpBad d q (t = 0 || decide (7 < t)) 1
    cpBad d q (t = 5 || t = 7) 2
    cpUpd fun s => modLq s d q fun x => { x with pkt := some b }
    pure { r.goto (r.pc + 1) with emits := r.emits + 1 }) s

/-- FAULT (R357). -/
def execGrFault (w : GrFW) (s : State) : Outcome State Fault Refusal :=
  grOp (.grFault w) (fun d q _ => cpStop (lqFaultImm d q 6 w.i.toNat)) s

end Sys2Proof.Machine
end

