-- ==== Sys2Proof/Machine/Sched.lean ====
section
/-! DEFINITION. Dispatch: slices, bind records, binding and swapping crews, budgets and pre-emption; SPAWN and YIELD
(spec/17_scheduling.md R359 to R380, spec/18_recovery.md R401, R402, spec/04_contexts.md R100, R111). -/

namespace Sys2Proof.Machine

open Host (Outcome)

/-! Slices. -/

/-- The dispatch hardware of a die. -/
def dispOf (s : State) (d : Nat) : Disp := (dieOf s d).disp
/-- Change the dispatch hardware. -/
def modDisp (s : State) (d : Nat) (f : Disp → Disp) : State := modDie s d fun x => { x with disp := f x.disp }
/-- The die whose dispatch hardware acts. -/
def curDisp (s : State) : Nat := agentDie s.cur
/-- Change the slice of an RMU entry. -/
def modSlice (s : State) (d e : Nat) (f : Slice → Slice) : State :=
  modDisp s d fun x =>
    match tget? x.rmu e with
    | some sl => { x with rmu := tput x.rmu e (f sl) }
    | none => x
/-- A field of the slice's record (R362). -/
def Slice.f (sl : Slice) (off n : Nat) : Nat := recF sl.from_.bytes off n
/-- Partition. -/
def Slice.part (sl : Slice) : Nat := sl.from_.part.toNat
def Slice.ncrew (sl : Slice) : Nat := sl.f 0x20 4
def Slice.teams (sl : Slice) : Nat := sl.f 0x24 1
def Slice.ckpt (sl : Slice) : Bool := sl.f 0x25 1 % 2 = 1
def Slice.kill (sl : Slice) : Bool := sl.f 0x25 1 / 2 % 2 = 1
/-- The quantum in cycles (R370). -/
def Slice.quantum (sl : Slice) : Nat := 2^(if sl.f 0x2C 1 = 0 then 20 else sl.f 0x2C 1)
/-- The slice id (R363). -/
def Slice.slid (sl : Slice) : Nat := sl.num % 2^32
/-- A crew; one that is not listed waits since the handover. -/
def Slice.crew (sl : Slice) (c : Nat) : Crew := tget sl.crews c { since := sl.since }
/-- Change a crew. -/
def modCrew (s : State) (d e c : Nat) (f : Crew → Crew) : State :=
  modSlice s d e fun sl => { sl with crews := tput sl.crews c (f (sl.crew c)) }
/-- Write bytes at VA `va` for dispatch, or keep them in order until the page comes: a walk fault holds the write (spec/10_pages.md R230). Another
refusal leaves the record's bytes (log 20). -/
def dispWrite (d p va : Nat) (l : List Byte) (s : State) : State :=
  let later (t : State) : State := modDisp t d fun x => { x with puts := x.puts ++ [⟨BitVec.ofNat 3 p, va, l⟩] }
  if !(dispOf s d).puts.isEmpty then later s
  else
    match dieWrite s d p va l with
    | (some (.walk r, a), t) =>
      match unitHold t d p a true false r 10 (32 * d) [.dispatch (BitVec.ofNat 2 d)] with
      | some u => modDisp (later u) d fun x => { x with held := true }
      | none => modDisp (fqHold d 10 (32 * d) a (later t)) d fun x => { x with ready := max x.ready (s.now + 1) }
    | (_, t) => t

/-- Write a field of the record of a slice. -/
def recordWrite (d : Nat) (sl : Slice) (off n v : Nat) (s : State) : State := dispWrite d sl.part (sl.from_.va + off) (natBytes n v) s

/-- Write a field of the record of the slice in RMU entry `e`. -/
def sliceWrite (d e off n v : Nat) (s : State) : State :=
  match tget? (dispOf s d).rmu e with
  | some sl => recordWrite d sl off n v s
  | none => s

/-- The held writes of dispatch are made in their order, `fuel` of them at most. -/
def dispPuts (d fuel : Nat) (s : State) : State :=
  match fuel, (dispOf s d).puts with
  | 0, _ => s
  | _, [] => s
  | fuel + 1, w :: r =>
    match dieWrite s d w.part.toNat w.va w.bytes with
    | (some (.walk x, a), t) =>
      match unitHold t d w.part.toNat a true false x 10 (32 * d) [.dispatch (BitVec.ofNat 2 d)] with
      | some u => modDisp u d fun x => { x with held := true }
      | none => modDisp (fqHold d 10 (32 * d) a t) d fun x => { x with ready := max x.ready (s.now + 1) }
    | (_, t) => dispPuts d fuel (modDisp t d fun x => { x with puts := r })

/-- A PREEMPT record (spec/19_observation.md R403). -/
def tracePreempt (d : Nat) (sl : Slice) (decision : Nat) (s : State) : State :=
  traceUnit d 10 (32 * d) sl.part 0x32 1 0 sl.slid decision 0 0 s

/-! Charges (R368). -/

/-- Team-cycles of a bound crew since its last charge: only cycles that count for SCY. -/
def crewDue (s : State) (k : Crew) : Nat :=
  ((k.cores.zip k.scy0).map fun e => scyOf s e.1 - e.2).foldl (· + ·) 0
/-- USED. -/
def usedNow (s : State) (sl : Slice) : Nat :=
  sl.used + ((sl.crews.filter fun e => e.2.st = .bound).map fun e => crewDue s e.2).foldl (· + ·) 0
/-- Charge a crew up to now. -/
def chargeCrew (d e c : Nat) (s : State) : State :=
  modSlice s d e fun sl =>
    let k := sl.crew c
    { sl with used := sl.used + crewDue s k, crews := tput sl.crews c { k with scy0 := k.cores.map (scyOf s) } }

/-- USED of a slice's record: what has been charged by now (R368). DESIGN CHOICE (log 90): it is written at the handover, where a crew leaves
its cores, saved or ended, and where the slice parks or completes; the spec gives no moment. -/
def writeUsed (d e : Nat) (s : State) : State :=
  match tget? (dispOf s d).rmu e with
  | some sl => recordWrite d sl 0x48 8 (usedNow s sl) s
  | none => s

/-! Handover (R363). -/

/-- The ranges of a record: first and last granule. -/
def sliceRanges (sl : Slice) (off n : Nat) : List (Nat × Nat) :=
  (upto n).map fun i =>
    let v := sl.f (off + 8 * i) 8
    (v % 2^44, v % 2^44 + v / 2^44)
/-- Two sets of ranges share a granule. -/
def rangesMeet (a b : List (Nat × Nat)) : Bool := a.any fun x => b.any fun y => decide (x.1 ≤ y.2) && decide (y.1 ≤ x.2)
/-- Read and write ranges. -/
def Slice.reads (sl : Slice) : List (Nat × Nat) := sliceRanges sl 0x80 (sl.f 0x27 1 % 16)
def Slice.writes (sl : Slice) : List (Nat × Nat) := sliceRanges sl 0xC0 (sl.f 0x27 1 / 16)

/-- A slice waits for an earlier one in flight (R373). -/
def rangeWait (s : State) (d : Nat) (sl : Slice) : Bool :=
  (dispOf s d).rmu.any fun o =>
    decide (o.2.num < sl.num) && o.2.part = sl.part &&
      (rangesMeet sl.reads o.2.writes || rangesMeet sl.writes o.2.reads || rangesMeet sl.writes o.2.writes)

/-- The lowest free RMU entry. -/
def freeEntry (s : State) (d : Nat) : Option Nat := (upto 1024).find? fun e => (tget? (dispOf s d).rmu e).isNone

/-- A slice takes RMU entry `e`: its slice id, the deadline, BINDREQ; the first of its id begins a run (spec/19_observation.md R413). -/
def handIn (d e : Nat) (h : Handover) (s : State) : State :=
  let p := partOf s h.part.toNat
  let n := (dispOf s d).handed
  let drel := recF h.bytes 0x28 4
  let budget := recF h.bytes 0x30 8
  let sl : Slice :=
    { from_ := h, num := n, since := s.now,
      deadline := if drel = 2^32 - 1 then 2^64 - 1 else min (2^64 - 1) (diecyc s d + drel),
      tokens := min (recF h.bytes 0x26 1) p.tokCap,
      eff := if budget = 0 then p.bcap else min budget p.bcap }
  let s0 := modPart s h.part.toNat fun p => { p with began := tput p.began sl.slid (tget p.began sl.slid s.now) }
  let s1 := modDisp s0 d fun x => { x with handed := n + 1, rmu := tput x.rmu e sl }
  tellFw d 0x51 [e, sl.slid, sl.part] (sliceWrite d e 0x48 8 0 (sliceWrite d e 0x44 4 0 (sliceWrite d e 0x40 4 sl.slid s1)))

/-- SLICE_HANDOVER (R363): the record of a graph's slice is read now, and one out of range faults its queue (R362). -/
def execSliceHandover (s : State) : Outcome State Fault Refusal :=
  let d := curDisp s
  match (dispOf s d).pending, freeEntry s d with
  | h :: r, some e =>
    let s1 := modDisp s d fun x => { x with pending := r }
    match h.node, (cpOf s d).graphs.find? fun g => g.tok = h.tok with
    | none, _ => .next (handIn d e h s1)
    | some _, none => .next s1
    | some n, some g =>
      match readVia (cpTgt d h.part.toNat) 6 s1 (32 * d) h.va 256 with
      | (.error (x, a), t) => .next (graphRefused d g x a false (graphTakeBack d g.tok n t))
      | (.ok b, t) => .next (if badSlice b then lqFault d h.queue 2 t else handIn d e { h with bytes := b } t)
  | _, _ => .next s

/-! Ending crews and slices. -/

/-- A team has ended (spec/04_contexts.md R99): its contexts have executed EXIT and its launches have completed. -/
def teamEnded (s : State) (core : Nat) : Bool :=
  let k := coreOf s core
  !k.l.live && !k.c.live && !k.s.live && k.me.q.count = 0 && k.ve.q.count = 0
/-- A bound crew has ended (R361). -/
def crewEnded (s : State) (k : Crew) : Bool := k.st = .bound && k.cores.all (teamEnded s)

/-- A context that no team has: its privileged entry and watchpoint stay. -/
def bareCtx (x : Ctx) : Ctx := { tvec := x.tvec, wpt := x.wpt }

/-- A context whose team has gone: it runs no more; its registers stay until the next binding. -/
def idleCtx (x : Ctx) : Ctx :=
  { x with
    live := false, pend := [], reqs := [], waiting := none, remote := .idle, got := [], used := 0, acq := [], owed := [], refused := none,
    drain := false, rests := false, engOut := [], accept := none, uq := [], engfMe := none, engfVe := none, uirq := none }

/-- A core without its team: nothing runs; registers and mailboxes stay until the next binding (spec/08_sequencer.md R193). -/
def freeCore (core : Nat) (s : State) : State :=
  modCore s core fun k =>
    { k with team := none, yieldAt := none, scyBase := 0, l := idleCtx k.l, c := idleCtx k.c, s := idleCtx k.s,
             me := { k.me with q := { ticket := k.me.q.ticket, rotAt := k.me.q.rotAt }, mma := [], drain := none, load := none, popped := [],
                               mbxPend := [], closing := [] }
             ve := { k.ve with q := { ticket := k.ve.q.ticket, rotAt := k.ve.q.rotAt }, pend := [] }
             spoiled := [], ghostStale := [] }

/-- A core that a team is to be bound to. Engine tickets keep counting (spec/08_sequencer.md R188). -/
def bareCore (core : Nat) (s : State) : State :=
  modCore s core fun k =>
    { k with team := none, yieldAt := none, scyBase := 0, l := bareCtx k.l, c := bareCtx k.c, s := bareCtx k.s,
             me := { q := { ticket := k.me.q.ticket, rotAt := k.me.q.rotAt } }, ve := { q := { ticket := k.ve.q.ticket, rotAt := k.ve.q.rotAt } },
             spoiled := [], ghostStale := [] }

/-- A crew leaves its cores. -/
def unbindCrew (d e c : Nat) (st : CrewSt) (s : State) : State :=
  match tget? (dispOf s d).rmu e with
  | none => s
  | some sl =>
    let s1 := chargeCrew d e c s
    let s2 := (sl.crew c).cores.foldl (fun t core => freeCore core t) s1
    writeUsed d e (modCrew s2 d e c fun k => { k with st := st, since := s.now, scy0 := [], scyAt := [], saving := false })

/-- A killed team: its contexts stop, its engine launches end with ST 5 (spec/08_sequencer.md R192). -/
def killTeam (core : Nat) (s : State) : State :=
  let s1 := modCore s core fun k => { k with l := idleCtx k.l, c := idleCtx k.c, s := idleCtx k.s }
  cancelRest core .ve 16 (dropWork core .ve (cancelRest core .me 16 (dropWork core .me s1)))

/-- Stop a bound crew at once, unsaved (R372). -/
def killCrew (d e c : Nat) (s : State) : State :=
  match tget? (dispOf s d).rmu e with
  | none => s
  | some sl =>
    if (sl.crew c).st = .bound then unbindCrew d e c .ended ((sl.crew c).cores.foldl (fun t core => killTeam core t) s) else s

/-- The frames that a slice's images hold. -/
def framesHeld (sl : Slice) : Nat := ((sl.crews.filter fun e => e.2.st = .saved).map fun e => e.2.cores.length).foldl (· + ·) 0

/-- Copy packets that a saved crew of a slice had under way go on to their ends (R372). -/
def releaseJobs (sl : Slice) (s : State) : State :=
  (sl.crews.flatMap fun k => k.2.images).foldl (fun t i => i.ces.foldl (fun t j => ceResume i.core j t) t) s

/-- The energy of a slice (spec/19_observation.md R411): the idle figure for the bound cycles of its cores, saves and restores included, and
what its work took, a free value (log 52). -/
def sliceEnergy (s : State) (sl : Slice) : Nat := sl.used * Config.idlePj * 2^16 / 1000 + Config.workEnergy s.free

/-- A slice completes (R361): STATUS and USED, its entry, its counters and frames released, its packet or graph charged and told. -/
def completeSlice (d e st code : Nat) (s : State) : State :=
  let s0 := match tget? (dispOf s d).rmu e with
    | some sl => (sl.crews.filter fun x => x.2.st = .bound).foldl (fun t x => unbindCrew d e x.1 .ended t) s
    | none => s
  match tget? (dispOf s0 d).rmu e with
  | none => s
  | some sl =>
    let status := st + 2^8 * code
    let s1 := recordWrite d sl 0x48 8 sl.used (recordWrite d sl 0x44 4 status s0)
    let s2 := modPart s1 sl.part fun p => { p with frames := p.frames + framesHeld sl }
    let s3 := modDisp s2 d fun x => { x with rmu := tdel x.rmu e, runs := x.runs.filter fun r => r.slice != e }
    let s4 := hwWrite s3 ((dispOf s3 d).sltbase + 32 * e + 4) 4 0
    let s5 := addEnergy d sl.from_.tok (sliceEnergy s4 sl) { s4 with free := s4.free + 1 }
    sliceEnded d sl.from_ status (releaseJobs sl s5)

/-- Stop every crew of a slice and complete it with ST 3. -/
def stopSlice (d e code : Nat) (s : State) : State :=
  match tget? (dispOf s d).rmu e with
  | none => s
  | some sl => completeSlice d e 3 code (sl.crews.foldl (fun t x => killCrew d e x.1 t) s)

/-! Bind records (R364, R365, R369). -/

/-- The local core ids of HOME, ascending. -/
def homeCores (h : BitVec 32) : List Nat := (upto 32).filter fun i => h.getLsbD i

/-- A bind record that the dispatch hardware refuses (R365). -/
def badBind (s : State) (w : BindRecord) (sl : Slice) : Bool :=
  let l := homeCores w.home
  w.slid.toNat != sl.slid || l.any (fun i => !coreInPart s sl.part (32 * w.die.toNat + i)) || l.isEmpty ||
    l.length % max 1 sl.teams != 0 || w.ctl.toNat / 8 != 0 || w.rsvd != 0

/-- Add EXTRA to a parked slice's budget (R369): it resumes if that exceeds USED. -/
def extendSlice (d e extra : Nat) (s : State) : State :=
  match tget? (dispOf s d).rmu e with
  | none => s
  | some sl =>
    let eff := min (partOf s sl.part).bcap (sl.eff + extra)
    let s1 := modSlice s d e fun x => { x with eff := eff }
    if eff ≤ usedNow s sl then s1
    else recordWrite d sl 0x44 4 1 (modSlice s1 d e fun x => { x with parked := false, bstop := false })

/-- The dispatch hardware sees CTL of entry `e` written: the record is checked when VALID is 1 (R365). -/
def bindSeen (w : BindRecord) (s : State) : State :=
  let d := w.die.toNat
  let e := w.e.toNat
  if !w.ctl.getLsbD 0 then modSlice s d e fun sl => { sl with bound := false, cancel := sl.cancel && w.ctl.getLsbD 2 }
  else
    let refuse (slid : Nat) : State :=
      tellFw d 0x52 [e, slid] (modSlice (hwWrite s ((dispOf s d).sltbase + 32 * e + 4) 4 (w.ctl.toNat / 2 * 2)) d e fun sl =>
        { sl with bound := false, cancel := sl.cancel && w.ctl.getLsbD 2 })
    match tget? (dispOf s d).rmu e with
    | none => refuse w.slid.toNat
    | some sl =>
      if badBind s w sl then refuse sl.slid
      else
        let s2 := modSlice s d e fun sl =>
          { sl with bound := true, home := w.home, dthr := w.dthr.toNat, kmarg := w.kmarg.toNat, cancel := w.ctl.getLsbD 2 }
        if !sl.parked then s2
        else if w.ctl.getLsbD 2 then stopSlice d e 0x12 s2
        else if w.ctl.getLsbD 1 then extendSlice d e w.extra.toNat s2
        else s2

/-- A bind record as the 32 bytes of its entry (R364). -/
def bindBytes (w : BindRecord) : List Byte :=
  natBytes 4 w.slid.toNat ++ natBytes 4 w.ctl.toNat ++ natBytes 4 w.home.toNat ++ natBytes 4 w.dthr.toNat ++ natBytes 1 w.kmarg.toNat ++
    natBytes 7 w.rsvd.toNat ++ natBytes 8 w.extra.toNat

/-- The bind record that entry `e` of the slot table holds. -/
def bindAt (s : State) (d e : Nat) : BindRecord :=
  let f (off n : Nat) : Nat := hwRead s ((dispOf s d).sltbase + 32 * e + off) n
  { die := BitVec.ofNat 2 d, e := BitVec.ofNat 10 e, slid := BitVec.ofNat 32 (f 0 4), ctl := BitVec.ofNat 32 (f 4 4),
    home := BitVec.ofNat 32 (f 8 4), dthr := BitVec.ofNat 32 (f 0xC 4), kmarg := BitVec.ofNat 8 (f 0x10 1),
    rsvd := BitVec.ofNat 56 (f 0x11 7), extra := BitVec.ofNat 64 (f 0x18 8) }

/-- The firmware may access these bytes: its class passes the range check, within device DRAM (spec/10_pages.md R237). -/
def fwMay (s : State) (pa n : Nat) : Bool := (rangeCheckAll s pa n ⟨8, false⟩).isNone && isDram pa && isDram (pa + (n - 1))

/-- A refused access of a management core: a fault is logged (spec/10_pages.md R237). -/
def fwRefused (d pa : Nat) (s : State) : State := modDie s d fun x => { x with fwFaults := pa :: x.fwFaults }

/-- The firmware's write of a bind record, CTL last: into the slot table, as its class allows (R380), and seen by the dispatch hardware. -/
def bindWrite (w : BindRecord) (s : State) : State :=
  let at_ := (dispOf s w.die.toNat).sltbase + 32 * w.e.toNat
  if fwMay s at_ 32 then bindSeen w { s with mem := wrBytes s.mem at_ (bindBytes w) } else fwRefused w.die.toNat at_ s

/-- The entries of a die's slot table whose CTL lies among bytes of memory. -/
def ctlHit (s : State) (d pa n : Nat) : List Nat :=
  let b := (dispOf s d).sltbase
  (upto 1024).filter fun e => decide (pa < b + 32 * e + 8) && decide (b + 32 * e + 4 < pa + n)

/-- A store of the firmware: the dispatch hardware of every die sees what it writes to a CTL of its slot table (R365). -/
def fwStore (pa : Nat) (l : List Byte) (s : State) : State :=
  (upto 4).foldl (fun t d =>
    let b := (dispOf t d).sltbase
    if b = 0 || pa + l.length ≤ b || b + 2^15 ≤ pa then t
    else (ctlHit t d pa l.length).foldl (fun u e => bindSeen (bindAt u d e) u) t) (storeBytes s pa l)

/-- BIND_RECORD (R365). -/
def execBindRecord (w : BindRecord) (s : State) : Outcome State Fault Refusal := .next (bindWrite w s)
/-- BIND_EXTEND (R369). -/
def execBindExtend (w : BindRecord) (s : State) : Outcome State Fault Refusal := .next (bindWrite w s)
/-- BIND_CANCEL (R369). -/
def execBindCancel (w : BindRecord) (s : State) : Outcome State Fault Refusal := .next (bindWrite w s)

/-! Places and the crews that wait (R366, R367). -/

/-- The cores of a crew's place: its own once it has been bound, else place c mod P of HOME. -/
def placeOf (d : Nat) (sl : Slice) (c : Nat) : List Nat :=
  let k := sl.crew c
  if k.cores.isEmpty then
    let l := homeCores sl.home
    let t := max 1 sl.teams
    ((l.drop (c % max 1 (l.length / t) * t)).take t).map fun i => 32 * d + i
  else k.cores

/-- A crew that waits for a place. -/
structure Cand where
  e : Nat
  c : Nat
  sl : Slice
  k : Crew
  cores : List Nat

/-- The crews that wait, of slices that are parked or of those that are not. -/
def waitingIn (s : State) (d : Nat) (parked : Bool) : List Cand :=
  ((dispOf s d).rmu.map fun x =>
    let sl := x.2
    if sl.parked != parked || sl.nomore || (!sl.ever && rangeWait s d sl) then []
    else
      ((upto sl.ncrew).filter fun c =>
        match (sl.crew c).st with
        | .never => sl.bound
        | .saved => true
        | _ => false).map fun c => (⟨x.1, c, sl, sl.crew c, placeOf d sl c⟩ : Cand)).flatten
/-- The crews that may be bound: a parked slice binds none (R369). -/
def dispWaiting (s : State) (d : Nat) : List Cand := waitingIn s d false

/-- The order of R367 and of R372's promises. -/
def Cand.key (x : Cand) : List Nat :=
  [if x.k.prio then 0 else 1, x.sl.deadline, x.sl.num, if x.k.st = .saved then 0 else 1, x.k.since, x.c]

/-- Lexicographic order. -/
def lexLt (a b : List Nat) : Bool :=
  match a, b with
  | x :: r, y :: t => decide (x < y) || (x == y && lexLt r t)
  | _, _ => false

/-- The first of a list by that order. -/
def firstCand (l : List Cand) : Option Cand :=
  l.foldl (fun b x => match b with
    | none => some x
    | some y => if lexLt x.key y.key then some x else some y) none

/-- A core that no team holds. -/
def coreFree (s : State) (core : Nat) : Bool := (coreOf s core).team.isNone

/-- The lowest run of 16 counters of a partition that no crew of a slice in flight holds (spec/12_semaphores.md R274). -/
def freeRun (s : State) (d p : Nat) : Option Nat :=
  let q := partOf s p
  ((upto (q.hssCount - 15)).map fun i => q.hssBase + i).find? fun b =>
    (dispOf s d).runs.all fun r => decide (r.base + 16 ≤ b) || decide (b + 16 ≤ r.base)

/-- The crew that a first binding would leave without a run it is owed waits (R274). -/
def runReady (s : State) (d : Nat) (x : Cand) : Bool :=
  x.k.st = .saved || decide ((partOf s x.sl.part).hssCount < 16) || (freeRun s d x.sl.part).isSome

/-- The crew that binds next: of those whose cores are all free. -/
def nextBind (s : State) (d : Nat) : Option Cand :=
  firstCand ((dispWaiting s d).filter fun x => x.cores.all (coreFree s) && !x.cores.isEmpty && runReady s d x)

/-- Another crew waits for one of these cores. -/
def placeWanted (s : State) (d : Nat) (cores : List Nat) : Bool := (dispWaiting s d).any fun x => x.cores.any cores.contains

/-! Images (R401). -/

/-- The scratchpad ranges of an image: the system area without the spawn ring (R375), and the data of every enabled ring and tile. -/
def imageRanges (s : State) (core : Nat) : List (Nat × Nat) :=
  [(scrKey core 0x2F0000, scrKey core 0x2F5000), (scrKey core 0x2F7000, scrKey core 0x300000)] ++
    ((upto 48).filterMap fun id =>
      let d := descOf s core id
      if d.en then some (scrKey core d.base, scrKey core (d.base + d.slotb * (if id < 16 then max 1 d.depth else 1))) else none)

/-- Bytes of a frame beside its ranges of the scratchpad (R401): the header, the contexts, the vector registers, tables, banks and coma, and the
engines. DEDUCED (log 37): the spec gives no layout; with this size an image without rings takes the 700 cycles of the run of
spec/23_prog_stencil.md. -/
def imageFixed : Nat := 169984

/-- Cycles that a save or a restore of an image takes: 256, and one for every 512 bytes (R370). -/
def imageCycles (ranges : List (Nat × Nat)) : Nat :=
  256 + ((ranges.map fun r => r.2 - r.1).foldl (· + ·) imageFixed + 511) / 512

/-- Every in-flight word of a core completes; words that wait are taken back unissued, their WAIT records written (R60,
spec/12_semaphores.md R271, spec/19_observation.md R407). -/
def settleCore (core : Nat) (s : State) : State :=
  let cur := s.cur
  let s1 := [CtxSel.L, .C, .S].foldl (fun t x => acceptMark core x (endWait { t with cur := .ctx (BitVec.ofNat 7 core) x })) s
  let s2 := endEngWait core .ve (endEngWait core .me { s1 with cur := cur })
  let s3 := modCore s2 core fun k => { k with l := landAll k.l, c := landAll k.c, s := landAll k.s }
  settleVe core (modVe s3 core fun v => { v with pend := v.pend.map fun p => { p with due := 0 } })

/-- A team's image. -/
def imageOf (s : State) (core : Nat) : CoreImage :=
  let k := coreOf s core
  let r := imageRanges s core
  let idle (q : Seqr) : Seqr := { q with heldImage := false }
  { core := core, l := k.l, c := k.c, s := k.s, me := { k.me with q := idle k.me.q }, ve := { k.ve with q := idle k.ve.q }, ranges := r,
    ces := (ceJobs k.ce).filter (fun j => j.part == (k.team.map (·.part)).getD 0) |>.map aside,
    cells := s.mem.filter (fun e => inRanges r e.1), spoiled := k.spoiled, ghostStale := k.ghostStale, scy := scyOf s core, at_ := s.now }

/-- Put an image's bytes back. -/
def putImage (m : List Host.Cell) (i : CoreImage) : List Host.Cell :=
  i.cells.foldl (fun m e => bput m e.1 e.2) (m.filter fun e => !inRanges i.ranges e.1)

/-- A context has no answer outstanding: the save follows the last (R60). -/
def ctxSettled (x : Ctx) : Bool := x.acq.isEmpty && x.owed.isEmpty && x.pend.all fun p => p.await.isNone
/-- A core of which an image can be taken: none of its contexts awaits an answer. -/
def coreSettled (s : State) (c : Nat) : Bool :=
  let k := coreOf s c
  ctxSettled k.l && ctxSettled k.c && ctxSettled k.s

/-- A save of a crew may be made: frames are free (R402), none of its cores is stopped (spec/19_observation.md R409). -/
def mayLeave (s : State) (sl : Slice) (k : Crew) : Bool :=
  decide (k.cores.length ≤ (partOf s sl.part).frames) && k.cores.all (fun c => !(coreOf s c).stopped)
/-- The image of a crew can be taken now: no answer is outstanding. -/
def canSave (s : State) (k : Crew) : Bool := k.cores.all (coreSettled s)

/-- A team of the crew has yielded, in an earlier cycle (spec/04_contexts.md R100). -/
def yieldedCrew (s : State) (k : Crew) : Bool :=
  k.cores.any fun c => match (coreOf s c).yieldAt with
    | some t => decide (t < s.now)
    | none => false

/-- Number the elements of a list. -/
def zipFrom {α : Type} (n : Nat) (l : List α) : List (Nat × α) :=
  match l with
  | [] => []
  | x :: r => (n, x) :: zipFrom (n + 1) r

/-- Save a bound crew's image on every core of its place (R370). -/
def saveCrew (d e c : Nat) (s : State) : State :=
  match tget? (dispOf s d).rmu e with
  | none => s
  | some sl =>
    let k := sl.crew c
    let yielded := yieldedCrew s k
    let s1 := k.cores.foldl (fun t x => settleCore x t) s
    let images := (zipFrom 0 k.cores).map fun x => { imageOf s1 x.2 with slid := sl.slid, crew := c, team := x.1 }
    let s1 := k.cores.foldl (fun t x => ceAside x sl.part t) s1
    let s2 := modPart s1 sl.part fun p => { p with frames := p.frames - k.cores.length }
    let s3 := unbindCrew d e c .saved s2
    let cost := if yielded then 0 else ((images.map fun i => imageCycles i.ranges).foldl (· + ·) 0)
    writeUsed d e (modSlice (modCrew s3 d e c fun k => { k with images := images }) d e fun sl => { sl with used := sl.used + cost })

/-! Binding (R111, R366, R367, R370). -/

/-- A context of a team at its first binding (R111, R362): without an entry it starts as after EXIT. -/
def firstCtx (x : Ctx) (ent g1 g2 crewb now : Nat) : Ctx :=
  { bareCtx x with live := ent != 0, pc := wd ent, g := tput (tput [] 1 (wd g1)) 2 (wd g2), crewb := BitVec.ofNat 19 crewb, ready := now }

/-- A context's mark area as it stands at the first binding: a core reset before its first mark starts it afresh (log 38). -/
def firstMark (core : Nat) (x : CtxSel) (s : State) : State :=
  let v := ctxOf s core x
  { s with mem := wrBytes s.mem (scrKey core (markOff x)) (ctxImage v v.pc) }

/-- Bind a team for the first time. -/
def firstTeam (_d e c t : Nat) (sl : Slice) (core crewb : Nat) (s : State) : State :=
  let param := sl.from_.param.getD (sl.f 0x18 8)
  let g2 := c % 2^16 + 2^16 * t
  let ctx (k : Ctx) (i : Nat) : Ctx := firstCtx k (sl.f (8 * i) 8) param g2 crewb (s.now + 1)
  let s1 := modCore (bareCore core s) core fun k =>
    { k with team := some ⟨e, c, t, BitVec.ofNat 3 sl.part⟩, scyBase := 0, scyFrom := s.now, l := ctx k.l 0, c := ctx k.c 1, s := ctx k.s 2 }
  firstMark core .S (firstMark core .C (firstMark core .L s1))

/-- Restore a team from its image; CREWB is written again (spec/12_semaphores.md R274). -/
def restoreTeam (_d e c t : Nat) (sl : Slice) (i : CoreImage) (crewb : Nat) (s : State) : State :=
  let at_ := s.now + imageCycles i.ranges
  let ctx (x : Ctx) : Ctx := { x with crewb := BitVec.ofNat 19 crewb, ready := max x.ready at_, waiting := none }
  let eng (q : Seqr) (ticket : BitVec 16) (rot : Nat) : Seqr :=
    { q with ticket := ticket, rotAt := rot, ready := max q.ready at_, waiting := none, wdIdle := q.wdIdle + (s.now - i.at_) }
  let jobs (u : State) : State := i.ces.foldl (fun u j => ceResume i.core j u) u
  jobs <| modCore { s with mem := putImage s.mem i } i.core fun k =>
    { k with team := some ⟨e, c, t, BitVec.ofNat 3 sl.part⟩, yieldAt := none, scyBase := i.scy, scyFrom := s.now, l := ctx i.l, c := ctx i.c,
             s := ctx i.s, me := { i.me with q := eng i.me.q k.me.q.ticket k.me.q.rotAt }, ve := { i.ve with q := eng i.ve.q k.ve.q.ticket k.ve.q.rotAt },
             spoiled := i.spoiled, ghostStale := i.ghostStale }

/-- CREWB of a crew: BASE, DIE and VALID. -/
def crewbOf (d : Nat) (cb : Option Nat) : Nat :=
  match cb with
  | some b => b + 2^16 * d + 2^18
  | none => 0

/-- Reserve a crew's counters at its first binding, set to zero (spec/12_semaphores.md R274). DESIGN CHOICE (log 87): LAST has no kind for dispatch
(spec/12_semaphores.md R267) and stays as it was, and the zeroing is no update that a wait evaluates. -/
def reserveRun (d e c : Nat) (sl : Slice) (s : State) : Option Nat × State :=
  if (partOf s sl.part).hssCount < 16 then (none, s)
  else
    match freeRun s d sl.part with
    | none => (none, s)
    | some b =>
      (some b, modDie s d fun x =>
        { x with hss := (upto 16).foldl (fun t i => tput t (b + i) 0) x.hss,
                 disp := { x.disp with runs := x.disp.runs ++ [⟨sl.part, b, e, c⟩] } })

/-- Bind a crew to its place: every team in one step (R359). -/
def bindCrew (d : Nat) (x : Cand) (s : State) : State :=
  let r := if x.k.st = .never then reserveRun d x.e x.c x.sl s else (x.k.cb, s)
  let cb := crewbOf d r.1
  let s1 := if x.k.st = .never then
      (zipFrom 0 x.cores).foldl (fun t n => firstTeam d x.e x.c n.1 x.sl n.2 cb t) r.2
    else
      modPart ((zipFrom 0 x.k.images).foldl (fun t n => restoreTeam d x.e x.c n.1 x.sl n.2 cb t) r.2) x.sl.part fun p =>
        { p with frames := p.frames + x.cores.length }
  let s2 := if x.sl.ever then s1 else recordWrite d x.sl 0x44 4 1 s1
  let s3 := modCrew s2 d x.e x.c fun k =>
    { k with st := .bound, cores := x.cores, since := s.now, prio := false, cb := r.1, scy0 := x.cores.map (scyOf s2),
             scyAt := x.cores.map (scyOf s2), images := [] }
  modSlice s3 d x.e fun sl => { sl with ever := true }

/-- A saved crew whose place has a core outside the partition's core set cannot resume (R371). -/
def placeLost (s : State) (x : Cand) : Bool := x.k.st = .saved && x.cores.any fun c => !coreInPart s x.sl.part c

/-! Pre-emption (R372). -/

/-- The crew that holds a core: RMU entry, slice, crew number. -/
def holderOf (s : State) (d core : Nat) : Option (Nat × Slice × Nat) :=
  match (coreOf s core).team with
  | none => none
  | some t => (tget? (dispOf s d).rmu t.slice).map fun sl => (t.slice, sl, t.crew)

/-- What a decision is about: the newcomer's crew, the place, and the binding of the crew that holds it. -/
def claimOf (n core : Nat) (sl : Slice) (c : Nat) : List Nat := [n, core, sl.num, c, (sl.crew c).since]

/-- The next crew of a place that is held, with its holder, where a decision is due: the newcomer holds more tokens than another
slice's crew, and none was made for this crew, this place and this binding. -/
def nextDecision (s : State) (d : Nat) : Option (Cand × Nat × Slice × Nat) :=
  let l := dispWaiting s d
  (l.filterMap fun x =>
    match x.cores.find? (fun c => !coreFree s c) with
    | none => none
    | some core =>
      match firstCand (l.filter fun y => y.cores == x.cores) with
      | some y =>
        if y.e != x.e || y.c != x.c then none
        else
          match holderOf s d core with
          | some (e, sl, c) =>
            if e != x.e && decide (sl.tokens < x.sl.tokens) && !x.sl.decided.contains (claimOf x.c core sl c) &&
                (sl.crew c).cores.all (fun k => !(coreOf s k).stopped) then some (x, e, sl, c) else none
          | none => none
      | none => none).head?

/-- The decision of R372 for the holder: 1 drain, 2 checkpoint, 3 kill, 4 none; without a free frame a checkpoint is not made (R402). -/
def decision (s : State) (n : Slice) (sl : Slice) (k : Crew) : Nat :=
  if sl.f 0x38 8 - usedNow s sl ≤ sl.dthr then 1
  else if sl.ckpt && mayLeave s sl k then 2
  else if sl.kill && sl.kmarg != 0 && decide (sl.kmarg ≤ n.tokens - sl.tokens) then 3
  else 4

/-- Save a crew, now or as soon as its image can be taken; until then its cores issue nothing. -/
def saveOrHold (d e c : Nat) (s : State) : State :=
  match tget? (dispOf s d).rmu e with
  | some sl => if canSave s (sl.crew c) then saveCrew d e c s else modCrew s d e c fun k => { k with saving := true }
  | none => s

/-- Make a decision and act on it. -/
def preempt (d : Nat) (r : Cand × Nat × Slice × Nat) (s : State) : State :=
  let (x, e, sl, c) := r
  let core := match x.cores.find? fun c => !coreFree s c with
    | some k => k
    | none => 0
  let n := decision s x.sl sl (sl.crew c)
  let s1 := modSlice s d x.e fun y => { y with decided := y.decided ++ [claimOf x.c core sl c] }
  let s2 := if n = 4 then s1 else tracePreempt d sl n (modCrew s1 d x.e x.c fun k => { k with prio := true })
  match n with
  | 2 => saveOrHold d e c s2
  | 3 => stopSlice d e 0x11 s2
  | _ => s2

/-! The actions of dispatch. -/

/-- A bound crew that has ended, of a slice with others. -/
def endedCrew (s : State) (d : Nat) : Option (Nat × Nat) :=
  (dispOf s d).rmu.findSome? fun x => (x.2.crews.find? fun k => crewEnded s k.2).map fun k => (x.1, k.1)

/-- A bound crew that is to be saved whatever else waits: its slice is parked, or a checkpoint of it has been decided. -/
def toSave (s : State) (sl : Slice) (k : Crew) : Bool := k.st = .bound && (sl.parked || k.saving) && mayLeave s sl k

/-- A crew to be saved whose image can be taken. -/
def unsavedCrew (s : State) (d : Nat) : Option (Nat × Nat) :=
  (dispOf s d).rmu.findSome? fun x => (x.2.crews.find? fun k => toSave s x.2 k.2 && canSave s k.2).map fun k => (x.1, k.1)

/-- A waiting crew that cannot resume, of a parked slice too (R371). -/
def lostCrew (s : State) (d : Nat) : Option Cand := (dispWaiting s d ++ waitingIn s d true).find? (placeLost s)

/-- CREW_BIND is due. -/
def bindDue (s : State) (d : Nat) : Bool :=
  (endedCrew s d).isSome || (unsavedCrew s d).isSome || (lostCrew s d).isSome || (nextBind s d).isSome || (nextDecision s d).isSome

/-- CREW_BIND (R367, R371, R372): ended crews leave, the chosen crew binds, a newcomer's claim on a held place is decided. -/
def execCrewBind (s : State) : Outcome State Fault Refusal :=
  let d := curDisp s
  let t := modDisp s d fun x => { x with ready := s.now }
  match endedCrew s d with
  | some (e, c) => .next (unbindCrew d e c .ended t)
  | none =>
    match unsavedCrew s d with
    | some (e, c) => .next (saveCrew d e c t)
    | none =>
      match lostCrew s d with
      | some x => .next (tellFw d 0x53 [x.e, x.sl.slid] (stopSlice d x.e 0x11 t))
      | none =>
        match nextBind s d with
        | some x => .next (bindCrew d x t)
        | none =>
          match nextDecision s d with
          | some r => .next (preempt d r t)
          | none => .next s

/-- Cycles that a bound crew has held its place, as they count for the quantum: SCY since its binding (R370,
spec/19_observation.md R409). -/
def heldFor (s : State) (k : Crew) : Nat := ((k.cores.zip k.scyAt).map fun e => scyOf s e.1 - e.2).foldl max 0

/-- A crew is to be swapped: its quantum has passed or its team has yielded, and another waits for its place (R370, R402). -/
def toSwap (s : State) (d : Nat) (sl : Slice) (k : Crew) : Bool :=
  k.st = .bound && !sl.nomore && (yieldedCrew s k || decide (sl.quantum ≤ heldFor s k)) && mayLeave s sl k && placeWanted s d k.cores

/-- The crew of a core is about to be saved: the core issues no further word (R60, spec/04_contexts.md R100). -/
def leaving (s : State) (core : Nat) : Bool :=
  let d := dieOfCore core
  match holderOf s d core with
  | none => false
  | some (_, sl, c) => toSave s sl (sl.crew c) || toSwap s d sl (sl.crew c)

/-- A crew to be swapped whose image can be taken. -/
def swapDue (s : State) (d : Nat) : Option (Nat × Slice × Nat × Bool) :=
  (dispOf s d).rmu.findSome? fun x =>
    (x.2.crews.find? fun k => toSwap s d x.2 k.2 && canSave s k.2).map fun k => (x.1, x.2, k.1, yieldedCrew s k.2)

/-- QUANTUM_EXPIRY (R370, R100). -/
def execQuantumExpiry (s : State) : Outcome State Fault Refusal :=
  let d := curDisp s
  match swapDue s d with
  | none => .next s
  | some (e, sl, c, y) => .next (saveCrew d e c (tracePreempt d sl (if y then 5 else 4) s))

/-- The slice whose every crew has ended: RMU entry. -/
def doneSlice (s : State) (d : Nat) : Option (Nat × Slice) :=
  (dispOf s d).rmu.find? fun x => (upto x.2.ncrew).all fun c => (x.2.crew c).st = .ended || crewEnded s (x.2.crew c)

/-- SLICE_COMPLETE (R361). -/
def execSliceComplete (s : State) : Outcome State Fault Refusal :=
  let d := curDisp s
  match doneSlice s d with
  | none => .next s
  | some (e, sl) => .next (completeSlice d e (if sl.code = 0 then 2 else 3) sl.code s)

/-- A slice whose budget is used up before every crew has ended (R369). -/
def budgetOut (s : State) (d : Nat) : Option (Nat × Slice) :=
  (dispOf s d).rmu.find? fun x =>
    !x.2.parked && !x.2.bstop && decide (x.2.eff ≤ usedNow s x.2) && x.2.ever &&
      !(upto x.2.ncrew).all (fun c => (x.2.crew c).st = .ended || crewEnded s (x.2.crew c))

/-- Park a slice: its bound crews are saved as frames allow, USED and ST 4 are written; with CANCEL set it completes at once (R369). -/
def parkSlice (d e : Nat) (sl : Slice) (s : State) : State :=
  let s1 := writeUsed d e (recordWrite d sl 0x44 4 4 (modSlice s d e fun x => { x with parked := true }))
  if sl.cancel then stopSlice d e 0x12 s1
  else
    sl.crews.foldl (fun t k =>
      match tget? (dispOf t d).rmu e with
      | some x => if toSave t x (x.crew k.1) && canSave t (x.crew k.1) then saveCrew d e k.1 t else t
      | none => t) s1

/-- A slice of neither class binds no crew again; crews that are not bound end unrun. -/
def drySlice (d e : Nat) (s : State) : State :=
  match tget? (dispOf s d).rmu e with
  | none => s
  | some sl =>
    let s1 := releaseJobs sl (modPart s sl.part fun p => { p with frames := p.frames + framesHeld sl })
    (upto sl.ncrew).foldl (fun t c =>
      if (sl.crew c).st = .never || (sl.crew c).st = .saved then modCrew t d e c fun k => { k with st := .ended, images := [] } else t)
      (modSlice s1 d e fun x => { x with nomore := true, code := 0x10 })

/-- BUDGET_EXHAUSTED (R369). -/
def execBudgetExhausted (s : State) : Outcome State Fault Refusal :=
  let d := curDisp s
  match budgetOut s d with
  | none => .next s
  | some (e, sl) =>
    let t := tellFw d 0x50 [e, sl.slid] (modSlice s d e fun x => { x with bstop := true })
    .next (if sl.ckpt then parkSlice d e sl t else if sl.kill then stopSlice d e 0x10 t else drySlice d e t)

/-! YIELD (spec/04_contexts.md R100). -/

/-- YIELD: the context's in-flight words complete. Where no other crew waits for the team's place, or no frame is free (R402), the team
goes on; else it is saved at the next cycle. -/
def execYield (w : S0W) (s : State) : Outcome State Fault Refusal :=
  let c := curCore s
  let t := modCur (endWait s) fun x => { landAll x with pc := x.pc + 4, ready := s.now + max 3 (1 + w.st.toNat), passAt := passGone x }
  match holderOf s (dieOfCore c) c with
  | none => .next t
  | some (_, sl, n) =>
    let k := sl.crew n
    if placeWanted s (dieOfCore c) k.cores && decide (k.cores.length ≤ (partOf s sl.part).frames) then
      .next (modCore t c fun k => { k with yieldAt := some (match k.yieldAt with
        | some n => n
        | none => s.now) })
    else .next t

/-! SPAWN (R374, R375). -/

/-- Fields of a core's spawn ring: HEAD 0, TAIL 4, COUNT 8. -/
def spawnF (s : State) (core off : Nat) : Nat := sysRead s core (0x2F5000 + off) 4

/-- The core that owns an address: the issuing one, the one that the address names, or the home slice of its line. -/
def spawnOwner (own : Word) : Op Nat := do
  let s ← gets (fun s => s)
  let a := own.toNat
  let core ← (match nbits a 48 8 with
    | 0xFE => pure (curCore s)
    | 0xFD => pure (nbits a 22 7)
    | 0xFC => raise tPROT own
    | 0xFF => raise tPROT own
    | _ => do
      raiseIf (decide (2^56 ≤ a)) tPROT own
      let (pa, _) ← ctxTranslate own ⟨true, false, false, false⟩
      raiseIf (isHost pa) tPROT own
      (match (if (knockAt s pa).isSome then none else rangeCheck s pa ⟨curPart s, false⟩) with
        | some k => raise k own
        | none => pure (32 * homeDie pa + homeSlice pa)))
  raiseIf (!coreInPart s (curPart s) core) tPROT own
  pure core

/-- Read `n` aligned bytes as a load does. -/
def ctxLoad (va : Word) (n : Nat) : Op Nat := do
  match ← resolve va n ⟨true, false, false, false⟩ with
  | .remote peer off => remoteLoad va peer off n
  | t => readAt t va n

/-- SPAWN (R374), a logged word. -/
def execSpawn (w : D3W) (s : State) : Outcome State Fault Refusal :=
  loggedWord w.st 0x24 0 (some (w.d.toNat, Config.latDie, true)) (do
    operands [w.a.toNat, w.b.toNat] [w.d.toNat]
    let own ← gr w.a.toNat
    let tk ← gr w.b.toNat
    raiseIf (tk.toNat % 32 != 0) tALIGN tk
    let core ← spawnOwner own
    needEntry
    let task ← ctxLoad tk 32
    waitQuiet
    releaseAt 3
    holdEntry Config.latDie
    let s ← gets (fun s => s)
    if 255 ≤ spawnF s core 8 then pure 1
    else do
      let tail := spawnF s core 4
      upd fun s =>
        sysWrite (sysWrite (sysWrite s core (0x2F5020 + 32 * tail) 32 task) core 0x2F5004 4 ((tail + 1) % 255)) core 0x2F5008 4 (spawnF s core 8 + 1)
      pure 0) s

/-- SPAWN.TAKE (R375): its write faults as a store, and then the entry stays. DEDUCED (log 74): as a word of SPAWN's major it is logged, so
that a replay takes no second task. -/
def execSpawnTake (w : TakeW) (s : State) : Outcome State Fault Refusal :=
  loggedWord w.st 0x24 0 (some (w.d.toNat, Config.latOwn, true)) (do
    operands [w.b.toNat] [w.d.toNat]
    let tk ← gr w.b.toNat
    let s ← gets (fun s => s)
    let core := curCore s
    if spawnF s core 8 = 0 then pure 2
    else do
      needEntry
      let head := spawnF s core 0
      let task := sysRead s core (0x2F5020 + 32 * head) 32
      let place ← resolve tk 32 ⟨false, true, false, false⟩
      acquireAt 3
      match place with
      | .remote peer off => remoteStore tk peer off 32 task
      | t => writeOrNote t tk 32 task
      upd fun s => sysWrite (sysWrite s core 0x2F5000 4 ((head + 1) % 255)) core 0x2F5008 4 (spawnF s core 8 - 1)
      holdEntry Config.latOwn
      pure 0) s

end Sys2Proof.Machine
end

