-- ==== Sys2Proof/Machine/Paging.lean ====
section
/-! DEFINITION. Events of the memory system: page walks, the retirement of fault-queue entries, shutters and their publishes, host
snoops, fetch blocks, the registration of queues (spec/10_pages.md R224 to R235, spec/11_ordering.md R250, spec/03_encoding.md
R46, spec/13_copy.md R280). -/

namespace Sys2Proof.Machine

open Host (Outcome)

/-! Walks and fetch blocks. -/

/-- PAGE_WALK (R224, R226, R229): a requester's miss fills the TLBs or enters the fault queue. A VA that is not translated walks
nothing; with a full fault queue the request holds. -/
def execPageWalk (w : WalkReq) (s : State) : Outcome State Fault Refusal :=
  let k := w.unitKind.toNat
  let d := w.die.toNat
  let p := w.part.toNat
  let va := w.va.toNat
  let need : Need := ⟨!w.write && !w.fetch, w.write, w.fetch, false⟩
  if 2^56 ≤ va || 0xFC ≤ nbits va 48 8 then .next s
  else
    let r := if k ≤ 2 || k = 5 then translate s w.core.toNat p true need va else translateDie s d p need va
    match r with
    | (.walkFault n, t) =>
      match fqEnter t d p va w.write w.fetch n k w.core.toNat [] with
      | some u => .next u
      | none => .next t
    | (_, t) => .next t

/-- The bytes of a 64-byte block as a die obtains them: its L2 copy, else the home's. -/
def blockBytes (s : State) (d pa : Nat) : List Byte :=
  match tget? (dieOf s d).l2 (pa / 128) with
  | some c => natBytes 64 (nbits c.data.toNat (8 * (pa % 128)) 512)
  | none => rdBytes s.mem pa 64

/-- Bring a block into a core's instruction cache (R46). -/
def fillBlock (c pa : Nat) (s : State) : State :=
  let v := BitVec.ofNat 512 (bytesNat (blockBytes s (dieOfCore c) (pa / 64 * 64)))
  let t := if (victim s (coreOf s c).icache icacheCap (pa / 64)).isSome then { s with free := s.free + 1 } else s
  modCore t c fun k => { k with icache := tput (roomed s k.icache icacheCap (pa / 64)) (pa / 64) v }

/-- FETCH_BLOCK_FILL (spec/03_encoding.md R46, spec/04_contexts.md R83). -/
def execFetchBlockFill (w : FetchFill) (s : State) : Outcome State Fault Refusal :=
  .next (fillBlock w.core.toNat (64 * w.block.toNat) s)

/-! Retiring a fault-queue entry (R232). -/

/-- A held copy request is made again, or its packet ends with XLATE. -/
def freeCopy (c : Nat) (fail : Bool) (s : State) : State :=
  match (ceOf s c).job with
  | some j =>
    if !j.held then s
    else if fail then
      (match j.fin with
      | some (status, written) => ceEndAgain c { j with held := false } status written true s
      | none => ceFail c { j with held := false } 0x14 0 s)
    else modCe (setJob s c (some { j with held := false })) c fun e => { e with ready := max e.ready (s.now + 1) }
  | none => s

/-- A held image read is made again, or its launch does not start; a held write of a record is made again, or given up, the write of ST 2 with
an engine fault. -/
def freeImage (c : Nat) (e : EngSel) (part : BitVec 3) (va : Nat) (fail : Bool) (s : State) : State :=
  let q := seqrOf s c e
  if !q.heldImage || q.part != part then s
  else if fail then
    let t := modSeqr s c e fun q => { q with heldImage := false, ready := max q.ready (s.now + 1) }
    if !q.puts.isEmpty then modSeqr t c e fun q => { q with puts := q.puts.tail }
    else if q.running then engFaultAt c e q.pc tXLATE va 0 t else notStarted c e tXLATE t
  else modSeqr s c e fun q => { q with heldImage := false, ready := max q.ready (s.now + 1) }

/-- A held operation of a halo engine goes on, or ends with XLATE. -/
def freeHalo (d n : Nat) (fail : Bool) (s : State) : State :=
  match tget? (dieOf s d).he.held n with
  | none => s
  | some o =>
    let t := modHe s d fun h => { h with held := tdel h.held n, ready := max h.ready (s.now + 1) }
    if fail then heFault d o 0x14 t else t

/-- A held collective request is made again, or its packet ends with XLATE; a held read of a queue stops the queue. -/
def freeColl (d n va : Nat) (fail : Bool) (s : State) : State :=
  match tget? (xeOf s d).jobs n with
  | some j =>
    if !j.held then s
    else if fail then
      match j.fin with
      | some (status, written) => xeEndAgain d { j with held := false } status written true s
      | none => xeEnd d { j with held := false } 0x14 s
    else modXe (putXeJob s d { j with held := false }) d fun e => { e with ready := max e.ready (s.now + 1) }
  | none =>
    if !(xeOf s d).held.contains n then s
    else if fail then xqFault d n (match tget? (xeOf s d).slots n with
      | some q => q.part.toNat
      | none => 0) va s
    else modXe s d fun e => { e with held := without e.held n }

/-- A held request of a launch queue is made again, a parked queue wakes (spec/16_launch.md R349); or it faults with XLATE. -/
def freeQueue (d q : Nat) (fail : Bool) (s : State) : State :=
  let wake (t : State) : State := modCp t d fun c => { c with kvec := withOne c.kvec q }
  match tget? (cpOf s d).q q with
  | some x => if !x.held then s else if fail then lqFault d q 7 s else wake (modLq s d q fun x => { x with held := false })
  | none =>
    if lqState s d q != 2 then s else if fail then lqFault d q 7 s else wake (lqSetState s d q 1 0)

/-- A held access of a graph's instance is made again, or its queue faults; the frame of a finished one stays in use then. -/
def freeGraph (d tok : Nat) (fail : Bool) (s : State) : State :=
  match (cpOf s d).graphs.find? fun g => g.tok = tok with
  | none => s
  | some g =>
    if !g.held then s
    else if fail then
      let t := lqFault d g.queue 7 (modGraph d tok (fun x => { x with held := false }) s)
      if g.done.length < g.slices.length then t else graphEnd d g t
    else modGraph d tok (fun x => { x with held := false, again := true }) s

/-- A held completion record is written again, or it is lost and its queue faults. -/
def freeRecord (d n : Nat) (fail : Bool) (s : State) : State :=
  match (cpOf s d).recs.find? fun r => r.n = n with
  | none => s
  | some r =>
    if fail then lqFault d r.queue 7 (modCp s d fun c => { c with recs := c.recs.filter fun e => e.n != n })
    else modCp s d fun c => { c with recs := c.recs.map fun e => if e.n = n then { e with held := false } else e }

/-- A held examination of a copy queue is made again, whether the entry is retired with its page or without (log 63). -/
def freeCopyQueue (c n : Nat) (s : State) : State :=
  modCe s c fun e =>
    match tget? e.slots n with
    | some q => { e with slots := tput e.slots n { q with held := false }, fresh := true, ready := max e.ready (s.now + 1) }
    | none => e

/-- The held write of a slice record is made again with those behind it, or is given up (spec/10_pages.md R232). -/
def freeDisp (d : Nat) (fail : Bool) (s : State) : State :=
  modDisp s d fun x => { x with held := false, puts := if fail then x.puts.tail else x.puts, ready := max x.ready (s.now + 1) }

/-- Release one held request of an entry of partition `part` at `va`. -/
def freeHeld (part : BitVec 3) (va : Nat) (fail : Bool) (s : State) (h : Held) : State :=
  match h with
  | .copy c => freeCopy c.toNat fail s
  | .copyQueue c n => freeCopyQueue c.toNat n.toNat s
  | .image c e => freeImage c.toNat e part va fail s
  | .halo d n => freeHalo d.toNat n fail s
  | .collective d n => freeColl d.toNat n.toNat va fail s
  | .launchQueue d q => freeQueue d.toNat q.toNat fail s
  | .graph d tok => freeGraph d.toNat tok fail s
  | .record d n => freeRecord d.toNat n fail s
  | .dispatch d => freeDisp d.toNat fail s

/-- Retire entry `i`: a write that names an entry not pending is ignored. -/
def fqRetire (d i : Nat) (fail : Bool) (s : State) : State :=
  let e := tget (dieOf s d).fq i {}
  if e.state != 1 then s
  else
    let t := fqMirror (modDie s d fun x => { x with fq := tput x.fq i { e with state := if fail then 3 else 2, held := [] } }) d i
    e.held.foldl (freeHeld e.part e.va.toNat fail) t

/-- A write to FQRET wakes the package where it comes through BAR0 (spec/20_host.md R423), not from a management core. -/
def wakeFq (s : State) : State :=
  match s.cur with
  | .mgmt _ => s
  | _ => wake s

/-- FQRET_RETIRE (R232). -/
def execFqretRetire (w : FqRet) (s : State) : Outcome State Fault Refusal := .next (fqRetire w.die.toNat w.index.toNat false (wakeFq s))
/-- FQRET_FAIL (R232). -/
def execFqretFail (w : FqRet) (s : State) : Outcome State Fault Refusal := .next (fqRetire w.die.toNat w.index.toNat true (wakeFq s))

/-! Shutters (R233 to R235). -/

/-- A backing lies wholly in ranges owned by a partition. -/
def ownsAll (s : State) (p base size : Nat) : Bool :=
  (upto size).all fun i => s.ranges.any fun g => decide (g.base ≤ base / 2^16 + i) && decide (base / 2^16 + i ≤ g.limit) && g.owners.getLsbD p

/-- SHUTTER_ENTRY_WRITE (R233): refused with EN = 1 where a field is out of range or a backing is not the owner's. -/
def execShutterEntryWrite (w : ShutterWrite) (s : State) : Outcome State Fault Refusal :=
  let c := w.ctl.toNat
  let a := w.back0.toNat
  let b := w.back1.toNat
  let n := w.size.toNat
  let en := nbits c 1 1 = 1
  let p := nbits c 2 3
  if en && !(a % 2^16 = 0 && b % 2^16 = 0 && 1 ≤ n && n ≤ 16384 && ownsAll s p a n && ownsAll s p b n) then .next s
  else
    let e : Shutter := ⟨a, b, n, nbits c 0 1 = 1, en, BitVec.ofNat 3 p, BitVec.ofNat 16 (nbits c 16 16), none⟩
    .next { s with
      shutters := tput s.shutters w.shutter.toNat e
      dies := ((upto 4).foldl (fun t d => modDie t d fun x => { x with sel := tput x.sel w.shutter.toNat e.sel }) s).dies }

/-- A publish's key. -/
def Publish.key (p : Publish) : Nat × Nat × Nat × Nat := (p.core.toNat, p.queue, p.seq, p.groups)

/-- The packet that a publish belongs to, if its engine still performs it. -/
def pubJob (s : State) (p : Publish) : Option CopyJob :=
  match (ceOf s p.core.toNat).job with
  | some j => if j.fin.isNone && j.stage = 2 && j.queue = p.queue && j.seq = p.seq && j.groups = p.groups then some j else none
  | none => none

/-- A publish leaves the list; the next of its shutter begins. -/
def pubNext (p : Publish) (s : State) : State :=
  let l := s.pubs.erase p
  let t := { s with pubs := l }
  if l.any fun x => x.shutter == p.shutter then
    { t with events := t.events ++ [⟨.l2dir (BitVec.ofNat 2 (p.shutter.toNat / 1024)), some (.shutterPublish p.shutter)⟩] }
  else t

/-- The publish is acknowledged: the packet's increment is applied and the packet goes on. -/
def pubDone (p : Publish) (s : State) : State :=
  let c := p.core.toNat
  match pubJob s p with
  | none => pubNext p s
  | some j =>
    pubNext p (ceIncrement c { j with asked := false } s)

/-- SHUTTER_PUBLISH (R235, spec/13_copy.md R291): the oldest publish of the shutter begins at its home die. Another partition than
the owner ends its packet with PROT; a repeated key is acknowledged without a flip. -/
def execShutterPublish (n : ShutterId) (s : State) : Outcome State Fault Refusal :=
  match s.pubs.find? fun p => p.shutter == n with
  | none => .next s
  | some p =>
    if p.begun then .next s
    else
      let sh := tget s.shutters n.toNat {}
      if !sh.en || sh.owner != p.part then
        .next (pubNext p (match pubJob s p with
          | some j => ceFail p.core.toNat j 0x15 0 s
          | none => s))
      else if sh.key == some p.key then .next (pubDone p s)
      else
        .next { s with
          pubs := s.pubs.map fun x => if x == p then { p with begun := true, waitingDies := [0, 1, 2, 3] } else x
          events := s.events ++ (upto 4).map fun d => ⟨.l2dir (BitVec.ofNat 2 d), some (.selChange ⟨BitVec.ofNat 2 d, n⟩)⟩ }

/-- A die drops its copies of the lines from `base`, `size` granules of 64 KiB, dirty ones written back (spec/11_ordering.md R254). -/
def dropRange (d base size : Nat) (s : State) : State :=
  let hit (line : Nat) : Bool := decide (base ≤ 128 * line) && decide (128 * line < base + size * 2^16)
  let t := ((dieOf s d).l2.filter fun e => hit e.1).foldl (fun t e => dropL2 t d e.1) s
  { t with cores := t.cores.map fun e =>
      if dieOfCore e.1 = d then (e.1, { e.2 with l1 := e.2.l1.filter fun l => !hit l.1 }) else e }

/-- SEL_CHANGE (R235): one die changes its copy and drops what it holds of the new front (spec/11_ordering.md R254). Accesses are performed
when they issue (log 7), so that it acknowledges at once. -/
def execSelChange (w : SelChange) (s : State) : Outcome State Fault Refusal :=
  let d := w.die.toNat
  match s.pubs.find? fun p => p.shutter == w.shutter && p.begun && p.waitingDies.contains d with
  | none => .next s
  | some p =>
    let q := { p with waitingDies := without p.waitingDies d }
    let sh := tget s.shutters w.shutter.toNat {}
    let t := modDie (dropRange d (if sh.sel then sh.back0 else sh.back1) sh.size s) d fun x => { x with sel := tput x.sel w.shutter.toNat (!sh.sel) }
    let u := { t with pubs := t.pubs.map fun x => if x == p then q else x }
    .next (if q.waitingDies.isEmpty then
        { u with events := u.events ++ [⟨.l2dir (BitVec.ofNat 2 (w.shutter.toNat / 1024)), some (.publishAck w.shutter)⟩] }
      else u)

/-- PUBLISH_ACK (R235): with all four acknowledgements SEL, GEN, the key and the increment in one step. -/
def execPublishAck (n : ShutterId) (s : State) : Outcome State Fault Refusal :=
  match s.pubs.find? fun p => p.shutter == n && p.begun && p.waitingDies.isEmpty with
  | none => .next s
  | some p =>
    let sh := tget s.shutters n.toNat {}
    .next (pubDone p { s with shutters := tput s.shutters n.toNat { sh with sel := !sh.sel, gen := sh.gen + 1, key := some p.key } })

/-! Host memory and queue slots. -/

/-- HOST_SNOOP (spec/11_ordering.md R250): the new bytes of a line of host memory. The model keeps no device copy of host memory, so
that a snoop which only removes copies changes nothing. -/
def execHostSnoop (w : SnoopLine) (s : State) : Outcome State Fault Refusal :=
  match w.data with
  | none => .next s
  | some v => .next (storeBytes s (hostKey (128 * w.line.toNat)) (natBytes 128 v.toNat))

/-- QUEUE_REGISTRATION (spec/13_copy.md R280, R281; spec/15_fabric.md R338): the slot is valid, an overrun or a stop is over. A
descriptor whose PART is another partition's registers no queue (log 63). -/
def execQueueRegistration (w : QueueReg) (s : State) : Outcome State Fault Refusal :=
  match w with
  | .copy c n desc p =>
    let other := match (unitRead s c.toNat p.toNat desc.toNat 64).1 with
      | .ok l => decide ((qDescOf l).part ≠ p.toNat)
      | .error _ => false
    .next (modCe s c.toNat fun e =>
      { e with slots := if other then tdel e.slots n.toNat else tput e.slots n.toNat ⟨desc, p, false, false, false⟩, fresh := true })
  | .collective d n desc p =>
    let other := match (dieRead s d.toNat p.toNat desc.toNat 64).1 with
      | .ok l => decide ((qDescOf l).part ≠ p.toNat)
      | .error _ => false
    .next (modXe s d.toNat fun e =>
      { e with slots := if other then tdel e.slots n.toNat else tput e.slots n.toNat ⟨desc, p, false, false, false⟩, held := without e.held n.toNat })

end Sys2Proof.Machine
end

