-- ==== Sys2Proof/Machine/Fetch.lean ====
section
/-! DEFINITION. Fetching a context's next word (spec/03_encoding.md R46 to R48, spec/10_pages.md R220, R224) and the traps that
are due before it issues (spec/04_contexts.md R106). -/

namespace Sys2Proof.Machine

open Host (Outcome)

/-- The PA that a fetch at `va` reaches: a window raises PROT, a page needs R and X (R48, R220, R224). -/
def fetchPa (va : Word) : Op Nat := do
  let s ← gets (fun s => s)
  let a := va.toNat
  raiseIf (decide (2^56 ≤ a) || decide (0xFC ≤ nbits a 48 8)) tPROT va
  let core := curCore s
  let p := curPart s
  match translate s core p (!(curCtx s).priv) ⟨true, false, true, false⟩ a with
  | (.refused c, _) => raise c va
  | (.walkFault r, _) =>
    match fqEnter s (dieOfCore core) p a false true r (ctxNum (curSel s)) core [] with
    | some t => stop (.trapIn t tXLATE va)
    | none => stop (.wait 9 va)
  | (.ok pa _, t) => do
    upd fun _ => t
    match rangeCheck t pa ⟨p, false⟩ with
    | some code => raise code va
    | none => pure pa

/-- The word of a 64-byte block at a PA. -/
def blockWord (b : BitVec 512) (pa : Nat) : Nat := nbits b.toNat (8 * (pa % 64 / 4 * 4)) 32

/-- The word at the issuing context's pc, through the instruction cache, which is not coherent with stores (R46, R48). -/
def fetchWord : Op Nat := do
  let va := (← gets curCtx).pc
  let pa ← fetchPa va
  let s ← gets (fun s => s)
  let core := curCore s
  match tget? (coreOf s core).icache (pa / 64) with
  | some b => pure (blockWord b pa)
  | none => do
    raiseIf (hasBad s (pa / 4 * 4) 4) tPOISON va
    upd (fillBlock core pa)
    let t ← gets (fun s => s)
    pure (blockWord (tget (coreOf t core).icache (pa / 64) 0) pa)

/-- The next word raises PRIV by its encoding at user level (spec/04_contexts.md R98, spec/05_registers.md R116). -/
def privWord (i : Instr) : Bool :=
  match i with
  | .eret _ => true
  | .tlbinv _ => true
  | .mtc w => userReadOnly w.c.toNat
  | _ => false

/-- The next word raises a trap from its fetch or its encoding alone (R106). DEDUCED (log 68): POISON and SEAL of the fetch are due as
PROT is; the ILLOP that UIRET raises outside a handler depends on UIACT and is not. -/
def fetchDue (s : State) : Bool :=
  match fetchWord s with
  | .error (.trap _ _) => true
  | .error (.trapIn _ _ _) => true
  | .error _ => false
  | .ok (w, _) =>
    match decodeD w with
    | none => true
    | some i => !(curCtx s).priv && privWord i

/-- The event that a context's boundary is due for, in place of its next word (R106, spec/18_recovery.md R390, R398, R400): ENGF at
user level, UIRQ or the acceptance of a user interrupt, an automatic mark after 2^20 bound cycles. None while the word at pc
waits for a peer's answer: it has left. -/
def boundaryRow (s : State) : Option Instr :=
  let x := curCtx s
  if x.remote != .idle || !x.got.isEmpty then none
  else if !x.priv && (x.engfMe.isSome || x.engfVe.isSome) then some .engf
  else if x.uirq.isSome then some .acceptance
  else if x.uie && !x.uiact && !x.priv && !x.uq.isEmpty && !fetchDue s then some .acceptance
  else if 2^20 ≤ scyOf s (curCore s) - x.markScy then some .automaticMark
  else none

end Sys2Proof.Machine
end

