-- ==== Sys2Proof/Machine/Recovery.lean ====
section
/-! DEFINITION. Word-boundary events of a context, landings of results, acknowledgements; alarms, eclipses, core, die and package
resets (spec/18_recovery.md R383 to R400, spec/04_contexts.md R106, R107, spec/17_scheduling.md R379). -/

namespace Sys2Proof.Machine

open Host (Outcome)

/-! Word boundaries. -/

/-- The unit that acts is a context whose word has not left for a peer. -/
def atBoundary (s : State) : Bool :=
  match s.cur with
  | .ctx _ _ => (curCtx s).live && (curCtx s).remote == .idle && (curCtx s).got.isEmpty
  | _ => false

/-- ENGF (R398, R400): at user level, the ME's first. -/
def execEngf (s : State) : Outcome State Fault Refusal :=
  let x := curCtx s
  if !atBoundary s || x.priv then .next s
  else
    match x.engfMe, x.engfVe with
    | some va, _ => .next (takeTrap tENGF va (modCur s fun y => { y with engfMe := none }))
    | none, some va => .next (takeTrap tENGF va (modCur s fun y => { y with engfVe := none }))
    | none, none => .next s

/-- The shadow bank and the entry of the handler (R107): the interrupted address, the record. -/
def enterHandler (pc : Word) (r : UiRec) (now : Nat) (x : Ctx) : Ctx :=
  { x with
    g := tput (tput (tput x.g 56 pc) 57 r.va) 58 (wd (r.kind.toNat + 256 * r.status.toNat))
    uiact := true, uq := x.uq.tail, pc := x.uvec, ready := now + 3, waiting := none }

/-- ACCEPTANCE (R106, R107, R390): words in flight complete, a WFE that sleeps is completed, the automatic mark is taken, the handler
is entered. A UIRQ is due before it, and an ENGF before both. -/
def execAcceptance (s : State) : Outcome State Fault Refusal :=
  let x := curCtx s
  if !atBoundary s || (!x.priv && (x.engfMe.isSome || x.engfVe.isSome)) then .next s
  else
    match x.uirq with
    | some va => .next (takeTrap tUIRQ va (modCur s fun y => { y with uirq := none }))
    | none =>
      match x.uq with
      | [] => .next s
      | r :: _ =>
        if !x.uie || x.uiact || x.priv || fetchDue s then .next s
        else
          let wfe : Bool := match x.waiting with
            | some w => w.kind == 5
            | none => false
          let pc := if wfe then x.pc + 4 else x.pc
          let t := modCur (endWait s) fun y =>
            if wakeMissed s.now x then { landAll y with pc := pc, latch := y.relatch, relatch := false } else { landAll y with pc := pc }
          .next (modCur (markCtx (curCore s) (curSel s) pc t) fun y =>
            enterHandler pc r s.now { y with accept := y.accept.map fun m => { m with uq := some r } })

/-- AUTOMATIC_MARK (R390): 2^20 bound cycles after the last mark, or with a full replay log. -/
def execAutomaticMark (s : State) : Outcome State Fault Refusal :=
  let x := curCtx s
  if atBoundary s && (decide (2^20 ≤ scyOf s (curCore s) - x.markScy) || decide (24 ≤ x.ord)) then .next (autoMark s) else .next s

/-- A wait has lasted longer than its partition's STALLTO allows. -/
def overLimit (s : State) (part : Nat) (w : Waiting) : Bool :=
  let lim := stallLimit s part
  1 ≤ w.kind && w.kind ≤ 7 && lim != 0 && decide (lim < s.now - w.since)

/-- BUDGET_TRAP (R379): the trap at the waiting word, or an engine fault with wait kind 1. -/
def execBudgetTrap (s : State) : Outcome State Fault Refusal :=
  let eng (c : Nat) (e : EngSel) : State :=
    match (seqrOf s c e).waiting with
    | some w => if overLimit s (seqrOf s c e).part.toNat w then engFault c e tBUDGET 1 0 s else s
    | none => s
  match s.cur with
  | .ctx _ _ =>
    match (curCtx s).waiting with
    | some w => .next (if (limitAt s (curPart s) (curCtx s)).any fun t => decide (t ≤ s.now) then takeTrap tBUDGET (wd w.kind) s else s)
    | none => .next s
  | .me c => .next (eng c.toNat .me)
  | .ve c => .next (eng c.toNat .ve)
  | _ => .next s

/-- RESULT_WRITTEN (spec/03_encoding.md R56, R58): the results of a stream whose latency has elapsed are written, and a context's mark is
accepted (R389). -/
def execResultWritten (s : State) : Outcome State Fault Refusal :=
  match s.cur with
  | .ctx c x =>
    let t := modCur s (settle s.now)
    .next (match (curCtx t).accept with
      | some m => if m.at_ ≤ t.now then acceptMark c.toNat x t else t
      | none => t)
  | .me c => .next (settleMe c.toNat s)
  | .ve c => .next (settleVe c.toNat s)
  | _ => .next s

/-- REQUEST_ACKNOWLEDGED (spec/04_contexts.md R85): request entries whose time has come are free. -/
def execRequestAcknowledged (s : State) : Outcome State Fault Refusal :=
  match s.cur with
  | .ctx _ _ => .next (modCur s fun x =>
      { x with reqs := x.reqs.filter fun r => match r.due with
          | some t => decide (s.now < t)
          | none => true })
  | _ => .next s

/-- LOG_RESPONSE (R391): the value and DONE of an entry of a replay log. -/
def execLogResponse (w : LogResponse) (s : State) : Outcome State Fault Refusal :=
  let c := w.who.core.toNat
  let i := w.ordinal.toNat
  if (ctxOf s c w.who.ctx).logN ≤ i then .next s
  else
    let o := scrKey c (logOff w.who.ctx i)
    let h := rdN s.mem o 8
    .next { s with mem := wrN (wrN s.mem o 8 (if h / 2^31 % 2 = 1 then h else h + 2^31)) (o + 8) 8 w.value.toNat }

/-! Debug stops (spec/19_observation.md R409). -/

/-- SCY has reached STOPAT while it counted. -/
def stopatReached (s : State) (c : Nat) : Bool :=
  let k := coreOf s c
  k.team.isSome && !k.stopped && k.dbg.getLsbD 2 && decide (k.scyBase < k.stopat.toNat) && scyOf s c = k.stopat.toNat

/-- SCY_STOPAT (R409). -/
def execScyStopat (s : State) : Outcome State Fault Refusal :=
  .next (if stopatReached s (curCore s) then debugStop (curCore s) 4 s else s)

/-- A stop of `n` cycles shifts what a context has in flight and the wait that it counts. -/
def shiftCtx (n : Nat) (x : Ctx) : Ctx :=
  { x with pend := x.pend.map fun p => { p with due := p.due + n }
           ready := x.ready + n, waiting := x.waiting.map fun w => { w with since := w.since + n }
           accept := x.accept.map fun m => { m with at_ := m.at_ + n } }

/-- The same of a sequencer. -/
def shiftSeqr (n : Nat) (q : Seqr) : Seqr :=
  { q with ready := q.ready + n, waiting := q.waiting.map (fun w => { w with since := w.since + n }), wdFrom := q.wdFrom + n,
           rotAt := q.rotAt + n }

/-- The same of a matrix engine. -/
def shiftMe (n : Nat) (m : Me) : Me :=
  { m with q := shiftSeqr n m.q, banks := m.banks.map (fun b => (b.1, { b.2 with due := b.2.due + n }))
           mma := m.mma.map (fun j => { j with due := j.due + n }), closing := m.closing.map (fun e => (e.1, e.2 + n)), drain := m.drain.map (fun j => { j with start := j.start + n })
           load := m.load.map (fun j => { j with start := j.start + n }), mbxPend := m.mbxPend.map fun p => (p.1, p.2.1, p.2.2 + n) }

/-- The same of a vector engine. -/
def shiftVe (n : Nat) (v : Ve) : Ve :=
  { v with q := shiftSeqr n v.q, pend := v.pend.map (fun p => { p with due := p.due + n }), tabDue := v.tabDue.map (fun p => (p.1, p.2 + n))
           memDue := v.memDue + n }

/-- A stopped core resumes: what it had in flight goes on where the stop left it (R60, R409). -/
def debugResume (c : Nat) (s : State) : State :=
  let k := coreOf s c
  if !k.stopped then s
  else
    let n := s.now - k.scyFrom
    modCore s c fun k =>
      { k with stopped := false, scyFrom := s.now, l := shiftCtx n k.l, c := shiftCtx n k.c, s := shiftCtx n k.s, me := shiftMe n k.me,
               ve := shiftVe n k.ve
               ce := { k.ce with ready := k.ce.ready + n, wd := { k.ce.wd with since := k.ce.wd.since + n }, job := k.ce.job.map fun j => { j with since := j.since + n } } }

/-! Eclipses (R384 to R388). -/

/-- Alarm kinds (R388). -/
def kWatchdog : Nat := 1
def kParity : Nat := 2
def kProtocol : Nat := 3
def kRotation : Nat := 4
def kEscalation : Nat := 5

/-- Unit kind of an agent in the log (spec/06_scratchpad.md R141); 10 for the units of a die that it does not name. -/
def alarmKind (a : Agent) : Nat := if agentKind a = 15 then 10 else agentKind a

/-- The core in whose log an alarm of a unit stands: its own, or core 0 of its die. -/
def logCore (a : Agent) : Nat :=
  match a with
  | .ctx c _ => c.toNat
  | .me c => c.toNat
  | .ve c => c.toNat
  | .ce c => c.toNat
  | a => 32 * agentDie a

/-- The mark index that a unit restarts from. -/
def markIndexOf (s : State) (a : Agent) : Nat :=
  match a with
  | .ctx c x => (ctxOf s c.toNat x).markIdx.toNat
  | .me c => (seqrOf s c.toNat .me).markIdx.toNat
  | .ve c => (seqrOf s c.toNat .ve).markIdx.toNat
  | .ce c => match (ceOf s c.toNat).job with
    | some j => j.groups
    | none => 0
  | _ => 0

/-- The alarm log entry and the trace record (R388, spec/19_observation.md R403). -/
def logAlarm (a : Agent) (kind action : Nat) (s : State) : State :=
  let c := logCore a
  let d := dieOfCore c
  let w := (coreOf s c).logw.toNat
  let e := natBytes 8 (diecyc s d) ++ natBytes 1 kind ++ natBytes 1 (alarmKind a) ++ natBytes 1 action ++ natBytes 5 0
  let t := modCore { s with mem := wrBytes s.mem (scrKey c (0x2F3F00 + 16 * w)) e } c fun k => { k with logw := k.logw + 1 }
  traceUnit d 10 (32 * d) (corePart s c) 0x31 1 0 kind action (markIndexOf s a) 0 t

/-- Add to a core's count of eclipses, saturating. -/
def bumpEcl (c n : Nat) (s : State) : State :=
  modCore s c fun k => { k with ecl := BitVec.ofNat 24 (min (2^24 - 1) (k.ecl.toNat + n)) }

/-- Reset one engine, which restarts from its mark (R385). -/
def eclipseEngine (a : Agent) (s : State) : State :=
  match a with
  | .me c => bumpEcl c.toNat 1 (modSeqr (restartEngine c.toNat .me s) c.toNat .me fun q => { q with eclAt := some s.now, wdFrom := s.now, wdIdle := 0 })
  | .ve c => bumpEcl c.toNat 1 (modSeqr (restartEngine c.toNat .ve s) c.toNat .ve fun q => { q with eclAt := some s.now, wdFrom := s.now, wdIdle := 0 })
  | .ce c => bumpEcl c.toNat 1 (modCe (restartCe c.toNat s) c.toNat fun e => { e with eclAt := some s.now, wd := { e.wd with since := s.now } })
  | .he d => modHe (restartHe d.toNat s) d.toNat fun e => { e with eclAt := some s.now, wd := { e.wd with since := s.now } }
  | .xe d => modXe (restartXe d.toNat s) d.toNat fun e => { e with eclAt := some s.now, wd := { e.wd with since := s.now } }
  | _ => s

/-- The mark area of a running launch, which its restart must read, holds an uncorrectable error (R386). -/
def engMarkLost (s : State) (c : Nat) (e : EngSel) : Bool :=
  (seqrOf s c e).running && (match e with
    | .me => hasBad s (scrKey c 0x2F2000) 0x200
    | .ve => hasBad s (scrKey c 0x2F2200) 0x1400)

/-- A mark area that a restart of the core's team must read holds an uncorrectable error (R386). -/
def markLost (s : State) (c : Nat) : Bool :=
  (coreOf s c).team.isSome && (hasBad s (scrKey c 0x2F3600) 0x900 || engMarkLost s c .me || engMarkLost s c .ve)

/-- The slice of a core's team is stopped, the firmware told (R386). -/
def loseMark (c : Nat) (s : State) : State :=
  match holderOf s (dieOfCore c) c with
  | some (e, sl, _) => tellFw (dieOfCore c) 0x54 [e, sl.slid] (stopSlice (dieOfCore c) e 0x11 s)
  | none => s

/-- An eclipse: of a launch engine whose mark area is lost, the slice is stopped instead (R386). -/
def eclipseOrLose (kind : Nat) (a : Agent) (s : State) : State :=
  let lost : Bool := match a with
    | .me c => engMarkLost s c.toNat .me
    | .ve c => engMarkLost s c.toNat .ve
    | _ => false
  if lost then logAlarm a kind 5 (loseMark (agentCore a) s) else logAlarm a kind 1 (eclipseEngine a s)

/-- Cycle of a unit's last eclipse. -/
def lastEclipse (s : State) (a : Agent) : Option Nat :=
  match a with
  | .me c => (seqrOf s c.toNat .me).eclAt
  | .ve c => (seqrOf s c.toNat .ve).eclAt
  | .ce c => (ceOf s c.toNat).eclAt
  | .he d => (dieOf s d.toNat).he.eclAt
  | .xe d => (xeOf s d.toNat).eclAt
  | _ => none

/-- `t` lies at most `n` cycles back. -/
def within (s : State) (t : Option Nat) (n : Nat) : Bool :=
  match t with
  | some c => decide (s.now - c ≤ n)
  | none => false

/-- The active launch of a vector engine has NR = 1 (spec/08_sequencer.md R199). -/
def nrActive (s : State) (a : Agent) : Bool :=
  match a with
  | .ve c => (seqrOf s c.toNat .ve).running && nbits (launchField s c.toNat .ve 0 1) 4 1 = 1
  | _ => false

/-! Core reset (R393). -/

/-- A context restored from the image in its mark area (R389, R393). What the image does not hold stays as it is; an entry of its log
whose response is still to come is owed to it (R391). -/
def restoreCtx (s : State) (c : Nat) (sel : CtxSel) (x : Ctx) : Ctx :=
  let o := scrKey c (markOff sel)
  let w (i : Nat) : Nat := rdN s.mem (o + 8 * i) 8
  let st := w 40
  { x with
    live := w 43 != 0, pc := wd (w 43)
    g := ((upto 31).map fun i => (i + 1, wd (w i))) ++ ((upto 8).map fun i => (56 + i, wd (w (31 + i))))
    p := BitVec.ofNat 8 (w 39), latch := w 39 / 256 % 2 = 1
    priv := st % 2 = 1, ppriv := st / 2 % 2 = 1, uie := st / 4 % 2 = 1, uiact := st / 8 % 2 = 1, uvec := wd (w 41)
    tokens := BitVec.ofNat 16 (w 42), markIdx := BitVec.ofNat 32 (w 44)
    pend := [], waiting := none, remote := .idle, got := [], used := 0, ord := 0, replayTo := x.logN, acq := [], refused := none, drain := false
    branches := x.markBr, brDone := max x.brDone x.branches, markScy := scyOf s c, ready := s.now + 1, passAt := none }

/-- A core reset: every engine eclipsed, the contexts of a team restored from their marks, every retired-pending slot full again. -/
def coreReset (c : Nat) (s : State) : State :=
  let b := BitVec.ofNat 7 c
  let s0 := [CtxSel.L, .C, .S].foldl (fun t x => undoMark c x t) s
  let s1 := eclipseEngine (.ce b) (eclipseEngine (.ve b) (eclipseEngine (.me b) s0))
  let s2 := (upto 6).foldl (fun t k => unpopSlots t c k) s1
  let s3 := if (coreOf s c).team.isNone then s2
    else modCore s2 c fun k => { k with l := restoreCtx s2 c .L k.l, c := restoreCtx s2 c .C k.c, s := restoreCtx s2 c .S k.s }
  modCore s3 c fun k => { k with crst := BitVec.ofNat 16 (min (2^16 - 1) (k.crst.toNat + 1)), resetAt := some s.now }

/-- A core reset, or the loss of its team's marks. -/
def resetOrLose (c : Nat) (s : State) : State := if markLost s c then loseMark c s else coreReset c s

/-! Die reset (R394). -/

/-- The cores of a die. -/
def dieCores (d : Nat) : List Nat := (upto 32).map fun i => 32 * d + i

/-- The command processor restarts from its queue records: every resident queue is loaded again. -/
def restartCp (c : Cp) : Cp :=
  { c with q := [], kvec := (c.q.map (·.1)).foldl withOne c.kvec }

/-- Write a line back under ECC check: one that fails the check leaves POISON at its home (R394). -/
def backOrPoison (s : State) (d line : Nat) : State :=
  let x := tget (dieOf s d).l2 line {}
  let t := writeBack s d line
  if x.dirty = 0 || x.err = 0 then t else { t with bad := (upto 16).foldl (fun l i => withOne l (16 * line + i)) t.bad }

/-- A die reset. -/
def dieReset (d : Nat) (s : State) : State :=
  let s1 := ((dieOf s d).l2.map (·.1)).foldl (fun t line => backOrPoison t d line) s
  let s2 := modDie s1 d fun x => { x with tlb := [], cp := restartCp x.cp, resetAt := some s.now }
  let s3 := (dieCores d).foldl (fun t c =>
    let u := modCore t c fun k => { k with utlb := [] }
    if (coreOf u c).team.isSome then resetOrLose c u else u) s2
  let b := BitVec.ofNat 2 d
  eclipseEngine (.xe b) (eclipseEngine (.he b) s3)

/-! Package recovery (R395). -/

/-- A port retrained: flits that its partner has not acknowledged are sent again. What its registers hold stays. -/
def retrainPort (f : Nat) (s : State) : State :=
  modPort (returnFlits (portOf s f).retry s) f fun p =>
    { live := p.live, rxLive := p.rxLive, banks := p.banks, slots := p.slots, flitTx := p.flitTx, flitRx := p.flitRx, replays := p.replays, crcErr := p.crcErr,
      losCnt := p.losCnt, los := p.los, htr := p.htr, mpd := p.mpd, rmap := p.rmap, sat := p.sat, satRx := p.satRx }

/-- A core that is not dumped, reset as for power-on: its scratchpad reads zero (R395, spec/06_scratchpad.md R139). -/
def coldCore (c : Nat) (s : State) : State :=
  let inside (k : Nat) : Bool := decide (scrKey c 0 ≤ k) && decide (k < scrKey c 0x300000)
  { s with
    cores := tput s.cores c {}, mem := s.mem.filter (fun e => !inside e.1), bad := s.bad.filter fun w => !inside (8 * w) }

/-- A package recovery that took `n` cycles: every die as after a reset, copies of lines gone, DIECYC ahead by its duration, the ports
retrained, cores without a team as after power-on. What the dump takes to the recovery area and back stays where it is (log 41). -/
def packageRecover (n : Nat) (s : State) : State :=
  let s1 := (upto 4).foldl (fun t d =>
    modDie (dieReset d t) d fun x => { x with l2 := [], cycAdd := x.cycAdd + n }) s
  let s2 := (s1.cores.map (·.1)).foldl (fun t c =>
    if (coreOf t c).team.isSome then modCore t c fun k => { k with l1 := [], icache := [] } else coldCore c t) s1
  (upto 64).foldl (fun t f => retrainPort f t) s2

/-- PACKAGE_RECOVERY (R395). -/
def execPackageRecovery (w : Recovery) (s : State) : Outcome State Fault Refusal := .next (packageRecover w.cycles s)

/-- Ask for a package recovery, whose duration the always-on domain measures: a free value (log 1). -/
def askRecovery (s : State) : State :=
  { s with free := s.free + 1, events := s.events ++ [⟨.alwaysOn, some (.packageRecovery ⟨Config.freeNat s.free⟩)⟩] }

/-! Escalation (R386). -/

/-- A die-reset alarm: a second within 5 ms is one of the package. -/
def dieAlarm (a : Agent) (d kind : Nat) (s : State) : State :=
  if within s (dieOf s d).resetAt 4250000 then logAlarm a kind 4 (askRecovery s) else logAlarm a kind 3 (dieReset d s)

/-- A core-reset alarm: a second within 20 µs is one of the die. -/
def coreAlarm (a : Agent) (c kind : Nat) (s : State) : State :=
  if within s (coreOf s c).resetAt 17000 then dieAlarm a (dieOfCore c) kind s
  else if markLost s c then logAlarm a kind 5 (loseMark c s)
  else logAlarm a kind 2 (coreReset c s)

/-- An alarm of a unit: an eclipse, or what it escalates to. -/
def alarm (kind : Nat) (a : Agent) (s : State) : State :=
  let again := within s (lastEclipse s a) 1024
  match a with
  | .ctx c _ => coreAlarm a c.toNat kind s
  | .me c => if again then coreAlarm a c.toNat kEscalation s else eclipseOrLose kind a s
  | .ve c => if again || nrActive s a then coreAlarm a c.toNat kEscalation s else eclipseOrLose kind a s
  | .ce c => if again then coreAlarm a c.toNat kEscalation s else logAlarm a kind 1 (eclipseEngine a s)
  | .he d => if again then dieAlarm a d.toNat kEscalation s else logAlarm a kind 1 (eclipseEngine a s)
  | .xe d => if again then dieAlarm a d.toNat kEscalation s else logAlarm a kind 1 (eclipseEngine a s)
  | .cp d => dieAlarm a d.toNat kind s
  | .dispatch d => dieAlarm a d.toNat kind s
  | .l2dir d => dieAlarm a d.toNat kind s
  | .rot => s
  | _ => logAlarm a kind 4 (askRecovery s)

/-- PARITY_ALARM (R384, R386). -/
def execParityAlarm (s : State) : Outcome State Fault Refusal := .next (alarm kParity s.cur s)
/-- PROTOCOL_ALARM (R384). -/
def execProtocolAlarm (s : State) : Outcome State Fault Refusal := .next (alarm kProtocol s.cur s)

/-! The watchdog (R384) and rotation (R387). -/

/-- A unit that is neither an ME nor a VE holds work, and its cycles count. -/
def watchCounts (s : State) (a : Agent) : Bool :=
  match a with
  | .ce c =>
    match (ceOf s c.toNat).job with
    | some j => (coreOf s c.toNat).team.isSome && !j.held && !(j.flag 4 && j.slot.isNone) && !(coreOf s c.toNat).stopped
    | none => false
  | .he d => let h := (dieOf s d.toNat).he
    !(h.openStages.isEmpty && h.openStrips.isEmpty)
  | .xe d => (xeOf s d.toNat).jobs.any fun e => !e.2.held
  | _ => false

/-- Counted cycles of a unit since its last mark. -/
def watchCount (s : State) (a : Agent) : Nat :=
  let since (w : Watch) : Nat := (w.hold.getD s.now) - w.since
  let eng (c : Nat) (e : EngSel) : Nat :=
    let q := seqrOf s c e
    if !q.running || (coreOf s c).team.isNone then 0
    else
      match q.waiting.filter idleWait with
      | some w => w.since - q.wdFrom - q.wdIdle
      | none => (if (coreOf s c).stopped then (coreOf s c).scyFrom else s.now) - q.wdFrom - q.wdIdle
  match a with
  | .me c => eng c.toNat .me
  | .ve c => eng c.toNat .ve
  | .ce c => since (ceOf s c.toNat).wd
  | .he d => since (dieOf s d.toNat).he.wd
  | .xe d => since (xeOf s d.toNat).wd
  | _ => 0

/-- The watchdog's limit is reached. -/
def watchdogDue (s : State) (a : Agent) : Bool :=
  decide (131072 ≤ watchCount s a) && (match a with
    | .me c => (seqrOf s c.toNat .me).running && !(seqrOf s c.toNat .me).waiting.any idleWait
    | .ve c => (seqrOf s c.toNat .ve).running && !(seqrOf s c.toNat .ve).waiting.any idleWait
    | a => watchCounts s a)

/-- WATCHDOG (R384). -/
def execWatchdog (s : State) : Outcome State Fault Refusal := .next (if watchdogDue s s.cur then alarm kWatchdog s.cur s else s)

/-- ECLIPSE (R385): the engine that acts restarts from its mark; a VE whose active launch has NR = 1 takes its core with it (R386,
spec/08_sequencer.md R199). -/
def execEclipse (s : State) : Outcome State Fault Refusal :=
  let lost : Bool := match s.cur with
    | .me c => engMarkLost s c.toNat .me
    | .ve c => engMarkLost s c.toNat .ve
    | _ => false
  .next (if nrActive s s.cur then coreAlarm s.cur (agentCore s.cur) kEscalation s
    else if lost then loseMark (agentCore s.cur) s else eclipseEngine s.cur s)

/-- A unit's cycle of its last rotation eclipse. -/
def rotationAt (s : State) (a : Agent) : Nat :=
  match a with
  | .me c => (seqrOf s c.toNat .me).rotAt
  | .ve c => (seqrOf s c.toNat .ve).rotAt
  | .ce c => (ceOf s c.toNat).wd.rotAt
  | .he d => (dieOf s d.toNat).he.wd.rotAt
  | .xe d => (xeOf s d.toNat).wd.rotAt
  | _ => 0

/-- The rotation interval of SVROT in cycles. -/
def rotationCycles (s : State) : Nat := s.rot.svrot.toNat * 850000

/-- The unit that acts belongs to a stopped core (spec/19_observation.md R409): the engines of a die belong to none. -/
def unitStopped (s : State) (a : Agent) : Bool :=
  match a with
  | .he _ => false
  | .xe _ => false
  | a => (coreOf s (agentCore a)).stopped

/-- ROTATION_ECLIPSE (R387): postponed while the active launch has NR = 1, and while the core is stopped. -/
def execRotationEclipse (s : State) : Outcome State Fault Refusal :=
  let a := s.cur
  let note (w : Watch) : Watch := { w with rotAt := s.now }
  let done (f : State → State) : State := useScrub (agentDie a) (f (eclipseOrLose kRotation a s))
  if nrActive s a || unitStopped s a then .next s
  else
    match a with
    | .me c => .next (done fun t => modSeqr t c.toNat .me fun q => { q with rotAt := s.now })
    | .ve c => .next (done fun t => modSeqr t c.toNat .ve fun q => { q with rotAt := s.now })
    | .ce c => .next (done fun t => modCe t c.toNat fun e => { e with wd := note e.wd })
    | .he d => .next (done fun t => modHe t d.toNat fun e => { e with wd := note e.wd })
    | .xe d => .next (done fun t => modXe t d.toNat fun e => { e with wd := note e.wd })
    | _ => .next s

/-- The action of a unit between two states wrote a mark, or took a new record. -/
def markedBy (a : Agent) (s t : State) : Bool :=
  match a with
  | .me c => (seqrOf s c.toNat .me).markIdx != (seqrOf t c.toNat .me).markIdx
  | .ve c => (seqrOf s c.toNat .ve).markIdx != (seqrOf t c.toNat .ve).markIdx
  | .ce c =>
    match (ceOf s c.toNat).job, (ceOf t c.toNat).job with
    | some i, some j => i.groups != j.groups || i.stage != j.stage || i.idx != j.idx
    | none, some _ => true
    | _, _ => false
  | .he d => (dieOf s d.toNat).he.sentAt != (dieOf t d.toNat).he.sentAt
  | .xe d => ((xeOf s d.toNat).jobs.map fun e => (e.1, e.2.stages)) != ((xeOf t d.toNat).jobs.map fun e => (e.1, e.2.stages))
  | _ => false

/-- A unit's watch after its action: marks and new records start the count, waits suspend it. -/
def watchAfter (marked counts : Bool) (now : Nat) (w : Watch) : Watch :=
  let w1 := if marked then { w with since := now, hold := none } else w
  match w1.hold with
  | some h => if counts then { w1 with since := w1.since + (now - h), hold := none } else w1
  | none => if counts then w1 else { w1 with hold := some now }

/-- What the supervisor notes after an action of a unit: its watch, and a rotation eclipse that falls due at a mark. -/
def superviseAfter (a : Agent) (s t : State) : State :=
  let m := markedBy a s t
  let k := watchCounts t a
  let u := match a with
    | .ce c => modCe t c.toNat fun e => { e with wd := watchAfter m k t.now e.wd }
    | .he d => modHe t d.toNat fun e => { e with wd := watchAfter m k t.now e.wd }
    | .xe d => modXe t d.toNat fun e => { e with wd := watchAfter m k t.now e.wd }
    | _ => t
  if m && decide (rotationCycles u ≤ u.now - rotationAt u a) && !nrActive u a then
    later (u.now + 1) ⟨a, some .rotationEclipse⟩ u
  else u

/-- CORE_RESET of the core of the unit that acts (R393). -/
def execCoreReset (s : State) : Outcome State Fault Refusal := .next (resetOrLose (agentCore s.cur) s)
/-- DIE_RESET of the die of the unit that acts (R394). -/
def execDieReset (s : State) : Outcome State Fault Refusal := .next (dieReset (agentDie s.cur) s)

/-- POWER_ON_RESET (spec/01_device.md R17): the state after reset. The host's memory is not the package's; what the model itself keeps,
the inputs to come and the counter of free values, stays. -/
def execPowerOnReset (s : State) : Outcome State Fault Refusal :=
  .next { State.reset with
    agenda := s.agenda, free := s.free, mem := s.mem.filter (fun e => isHost e.1), bad := s.bad.filter fun w => isHost (8 * w) }

end Sys2Proof.Machine
end

