-- ==== Sys2Proof/Machine/Trace.lean ====
section
/-! DEFINITION. Trace records on their way to memory, budget periods, scrubbing, the power controller (spec/19_observation.md R403 to
R406, spec/17_scheduling.md R376, spec/06_scratchpad.md R135, spec/20_host.md R423). -/

namespace Sys2Proof.Machine

open Host (Outcome)

/-! Periods (spec/01_device.md R13, spec/17_scheduling.md R376). -/

/-- BUDGET_PERIOD_END (spec/01_device.md R13): the slots of a resource are granted afresh. -/
def execBudgetPeriodEnd (w : PeriodEnd) (s : State) : Outcome State Fault Refusal :=
  .next { s with slotsUsed := s.slotsUsed.filter fun e => slotRes e.1 != resNum w.res }

/-! Trace records (R403 to R406). -/

/-- What a sealed partition's record shows (R404): A of RSTART and PAGEFLT, OBJ of a WAIT on a transaction barrier and on what else an
address names, a remote load and a fault hold, A of FAULT but for
ILLOP, PRIV and TRAPI, B of WAIT and SIGNAL are zero. -/
def sealRec (r : TraceRec) : TraceRec :=
  if !r.isSealed then r
  else
    let hideA := r.kind = 0x01 || r.kind = 0x33 || (r.kind = 0x30 && !(r.obj = tILLOP || r.obj = tPRIV || r.obj = tTRAPI))
    let hideObj := r.kind = 0x20 && (r.b % 16 = 4 || r.b % 16 = 7 || r.b % 16 = 9)
    let hideB := r.kind = 0x20 || r.kind = 0x21
    { r with a := if hideA then 0 else r.a, obj := if hideObj then 0 else r.obj, b := if hideB then 0 else r.b }

/-- The 64 bytes of a record (R403). -/
def recBytes (r : TraceRec) : List Byte :=
  natBytes 1 r.kind ++ natBytes 1 r.cls ++ natBytes 1 (r.part.toNat + 128 * r.isSealed.toNat) ++ natBytes 1 r.unitKind ++ natBytes 2 r.core ++
    natBytes 1 r.ctx ++ [0] ++ natBytes 8 r.cyc ++ natBytes 8 r.scy ++ natBytes 8 r.pc ++ natBytes 8 r.obj ++ natBytes 8 r.a ++ natBytes 8 r.b ++
    natBytes 4 r.seq ++ natBytes 4 r.lastu

/-- Trace slots of a die used in this period, and those that partitions hold and have not used. -/
def slotsGone (s : State) (d : Nat) : Nat := ((upto 8).map fun p => tget s.slotsUsed (slotKey (.trace (BitVec.ofNat 2 d)) p) 0).foldl (· + ·) 0
def slotsHeld (s : State) (d : Nat) : Nat :=
  ((upto 8).map fun p =>
    let k := slotKey (.trace (BitVec.ofNat 2 d)) p
    tget (partOf s p).slots k 0 - tget s.slotsUsed k 0).foldl (· + ·) 0

/-- The oldest staged record can be written in this cycle: its partition has a slot left, or one is free for the best-effort class:
one that nobody holds, or, in the last cycle of a period, one that its owner has left unused (spec/01_device.md R13; log 65). -/
def traceReady (s : State) (d : Nat) : Bool :=
  match (dieOf s d).staging with
  | [] => false
  | r :: _ =>
    let k := slotKey (.trace (BitVec.ofNat 2 d)) r.part.toNat
    decide (tget s.slotsUsed k 0 < tget (partOf s r.part.toNat).slots k 0) ||
      decide (slotsGone s d + (if s.now % 4096 = 4095 then 0 else slotsHeld s d) < 4096)

/-- Write a record into the die's region, a ring, or discard it (R405, R406). -/
def placeRec (d : Nat) (r : TraceRec) (s : State) : State :=
  let x := dieOf s d
  if !(partOf s r.part.toNat).trEn || x.trSize < 64 then s
  else
    let t := { s with mem := wrBytes s.mem (x.trBase + x.trPos) (recBytes (sealRec r)) }
    modDie t d fun y =>
      if y.trPos + 128 ≤ y.trSize then { y with trPos := y.trPos + 64, trCount := y.trCount + 1 }
      else { y with trPos := 0, trCount := y.trCount + 1, wrap := if y.wrap = BitVec.allOnes 24 then y.wrap else y.wrap + 1 }

/-- A DROP record once staging has room again (R405), for the partition of the record dropped last (log 93). -/
def noteDrops (d : Nat) (s : State) : State :=
  let n := (dieOf s d).dropped
  if n = 0 then s else traceUnit d 10 (32 * d) (dieOf s d).dropPart 0x36 1 0 n 0 0 0 (modDie s d fun x => { x with dropped := 0 })

/-- TRACE_RECORD_WRITE (R405): the oldest staged record of the die of the unit that acts. -/
def execTraceRecordWrite (s : State) : Outcome State Fault Refusal :=
  let d := agentDie s.cur
  match (dieOf s d).staging with
  | [] => .next s
  | r :: rest =>
    if !traceReady s d then .next s
    else
      let s1 := useSlot (slotKey (.trace (BitVec.ofNat 2 d)) r.part.toNat) (modDie s d fun x => { x with staging := rest })
      .next (noteDrops d (placeRec d r s1))

/-! Scrubbing (spec/06_scratchpad.md R135). -/

/-- The die that an 8-byte word under scrub belongs to. -/
def eccDie (w : EccPlace) : Nat :=
  match w with
  | .scratchpad c _ => dieOfCore c.toNat
  | .table c _ => dieOfCore c.toNat
  | .vreg c _ => dieOfCore c.toNat
  | .l2 d _ _ => d.toNat

/-- An uncorrectable error at a word: of a scratchpad, with the tag of a full slot that holds it; of a user table
(spec/07_vector.md R174); of a vector register, which loses its data (spec/02_numbers.md R36); of the die's copy of a line. -/
def strike (w : EccPlace) (s : State) : State :=
  match w with
  | .scratchpad c off =>
    let o := off.toNat / 8 * 8
    poisonSlots { s with bad := withOne s.bad (scrKey c.toNat o / 8) } c.toNat o 8
  | .table c n =>
    modCore s c.toNat fun k =>
      { k with ve := { k.ve with tabs := k.ve.tabs.map fun e => if e.1 = n.toNat then (e.1, { e.2 with poisoned := true }) else e } }
  | .vreg c r =>
    modCore s c.toNat fun k => { k with ve := { k.ve with regs := tput k.ve.regs r.toNat { tget k.ve.regs r.toNat {} with tag := 0xF000 } } }
  | .l2 d line i =>
    modDie s d.toNat fun x =>
      { x with l2 := x.l2.map fun e =>
          if e.1 = line.toNat then (e.1, { e.2 with err := e.2.err ||| BitVec.ofNat 16 (2^i.toNat) }) else e }

/-- The storage of a word in an ECCCOR record, and its bank or slice: 0 a scratchpad, 1 a user table, 2 a vector register, 3 the L2
(spec/19_observation.md R403; log 73). -/
def eccUnit (w : EccPlace) : Nat × Nat :=
  match w with
  | .scratchpad _ off => (0, off.toNat / 64 % 384)
  | .table _ n => (1, n.toNat)
  | .vreg _ r => (2, r.toNat)
  | .l2 _ line _ => (3, homeSlice (128 * line.toNat))

/-- SCRUB (R135): a single-bit error is corrected and counted, and changes no value; an uncorrectable one strikes. -/
def execSpScrub (w : ScrubRow) (s : State) : Outcome State Fault Refusal :=
  let d := eccDie w.place
  let t := useScrub d s
  if scrubFull s d then .next (nextPeriod (.spScrub w) s)
  else .next (match w.err with
    | .none => t
    | .single =>
      let p := eccUnit w.place
      traceUnit d 10 (32 * d) 0 0x34 1 0 p.1 p.2 0 0 (modDie t d fun x => { x with corrected := x.corrected + 1 })
    | .double => strike w.place t)

/-! Power (spec/20_host.md R423). -/

/-- Write CAPW: the nearer limit for a value outside 1,000 to 3,000; a change writes a POWER record. -/
def writeCap (v : Word) (s : State) : State :=
  let n := max 1000 (min 3000 (v.toNat % 4096))
  let t := { s with power := { s.power with capw := n } }
  if n = s.power.capw then t else sendEvent 0 0x70 [] t

/-- PWRCAP: a write to BAR0, which wakes the package. -/
def execPwrcap (w : CapWrite) (s : State) : Outcome State Fault Refusal := .next (writeCap w.value (wake s))

/-- POWER_COMPARE: above the cap j rises, up to 3; below it throttling ends. A change of THR writes a POWER record. The package enters
IDLE or SLEEP, or leaves IDLE, as the controller chooses (log 91). -/
def execPowerCompare (w : PowerSample) (s : State) : Outcome State Fault Refusal :=
  let p := s.power
  let q : Power := if p.capw < w.watts then { p with thr := true, j := min 3 (p.j + 1) }
    else if w.watts < p.capw then { p with thr := false, j := 0 } else p
  let t := { s with power := { q with mode := match w.mode with
    | some m => if m = 3 then q.mode else m.toNat
    | none => q.mode } }
  .next (if q.thr != p.thr then sendEvent 0 0x70 [] t else t)

/-- I3C_REQUEST (R425): temperatures and power are free values (log 1). -/
def execI3cRequest (w : I3cRequest) (s : State) : Outcome State Fault Refusal :=
  let answer (v : Word) (t : State) : State := { t with host := { t.host with i3c := v :: t.host.i3c } }
  match w with
  | .readTemps => .next (answer (Config.freeWord s.free) { s with free := s.free + 1 })
  | .readPower => .next (answer (Config.freeWord s.free) { s with free := s.free + 1 })
  | .readCap => .next (answer (wd (s.power.capw + 2^12 * s.power.thr.toNat)) s)
  | .writeCap v => .next (writeCap v s)
  | .recover => .next (askRecovery s)

end Sys2Proof.Machine
end

