-- ==== Sys2Proof/Machine/Dump.lean ====
section
/-! DEFINITION. A stopped core's state in the image layout, as the management interface reads and writes it (spec/19_observation.md R409,
spec/18_recovery.md R401, spec/20_host.md R421). The spec gives the order of the parts, not their widths: every item is a run of 8-byte
words, a list its length first (log 45). -/

namespace Sys2Proof.Machine

/-! Words. -/

/-- A number as `k` words, the low one first. -/
def wordsOf (k n : Nat) : List Nat := (upto k).map fun i => nbits n (64 * i) 64
/-- An integer as a word. -/
def intWord (i : Int) : List Nat := [(wordOfInt i).toNat]
/-- A truth value as a word. -/
def boolWord (b : Bool) : List Nat := [b.toNat]
/-- A list: its length, its items. -/
def listWords {α : Type} (f : α → List Nat) (l : List α) : List Nat := l.length :: (l.map f).flatten

/-- Reading words: what has been read, and the words that follow. -/
abbrev Rd (α : Type) := StateM (List Nat) α

/-- The next word. -/
def rdWord : Rd Nat := fun l => (l.headD 0, l.tail)
/-- A number of `k` words. -/
def rdWords (k : Nat) : Rd Nat := fun l => ((zipFrom 0 (l.take k)).foldl (fun n e => n + e.2 * 2^(64 * e.1)) 0, l.drop k)
/-- An integer. -/
def rdInt : Rd Int := do
  let n ← rdWord
  pure (wd n).toInt
/-- A truth value. -/
def rdBool : Rd Bool := do
  let n ← rdWord
  pure (n % 2 = 1)

/-- `n` items. -/
def rdTimes {α : Type} (n : Nat) (f : Rd α) : Rd (List α) :=
  match n with
  | 0 => pure []
  | n + 1 => do
    let x ← f
    let r ← rdTimes n f
    pure (x :: r)

/-- A list, of at most `most` items. -/
def rdList {α : Type} (most : Nat) (f : Rd α) : Rd (List α) := do
  let n ← rdWord
  rdTimes (min n most) f

/-! Contexts (spec/05_registers.md R132). -/

/-- A result in flight that awaits no answer: its register, value, and what is left of its latency at `t`. -/
def pendWords (t : Nat) (p : Pend) : List Nat := [p.dst, p.val.toNat, p.due - t, p.lock.toNat + 2 * p.q.toNat]
/-- The same, read. -/
def rdPend (t : Nat) : Rd Pend := do
  let d ← rdWord
  let v ← rdWord
  let n ← rdWord
  let f ← rdWord
  pure { dst := d, val := wd v, due := t + n, lock := f % 2 = 1, q := f / 2 % 2 = 1 }

/-- A pending user interrupt. -/
def uiWords (r : UiRec) : List Nat := [r.va.toNat, r.kind.toNat, r.status.toNat]
/-- The same, read. -/
def rdUi : Rd UiRec := do
  let v ← rdWord
  let k ← rdWord
  let n ← rdWord
  pure { va := wd v, kind := BitVec.ofNat _ k, status := BitVec.ofNat _ n }

/-- A context: both banks, predicates and latch, CTXST, UVEC, tokens, address and mark index, the pending user interrupts, the results in
flight. -/
def ctxWords (t : Nat) (x : Ctx) : List Nat :=
  (upto 31).map (fun i => (tget x.g (i + 1) 0).toNat) ++ (upto 8).map (fun i => (tget x.g (56 + i) 0).toNat) ++
    [x.p.toNat + 256 * x.latch.toNat, ctxst x, x.uvec.toNat, x.tokens.toNat, x.pc.toNat, x.markIdx.toNat, x.live.toNat] ++
    listWords uiWords x.uq ++ listWords (pendWords t) (x.pend.filter fun p => p.await.isNone)

/-- The same, read. Fields that no register has are ignored (spec/00_scope.md R3); results that a peer still owes stay awaited. -/
def rdCtx (t : Nat) (x : Ctx) : Rd Ctx := do
  let g ← rdTimes 31 rdWord
  let h ← rdTimes 8 rdWord
  let p ← rdWord
  let st ← rdWord
  let uvec ← rdWord
  let tokens ← rdWord
  let pc ← rdWord
  let mi ← rdWord
  let live ← rdBool
  let uq ← rdList 16 rdUi
  let pend ← rdList 64 (rdPend t)
  pure { x with
    g := (zipFrom 1 g).map (fun e => (e.1, wd e.2)) ++ (zipFrom 56 h).map (fun e => (e.1, wd e.2))
    p := BitVec.ofNat 8 p ||| 1, latch := nbits p 8 1 = 1
    priv := nbits st 0 1 = 1, ppriv := nbits st 1 1 = 1, uie := nbits st 2 1 = 1, uiact := nbits st 3 1 = 1
    uvec := wd uvec, tokens := BitVec.ofNat _ tokens, pc := wd pc, markIdx := BitVec.ofNat 32 mi, live := live, uq := uq
    pend := pend ++ x.pend.filter fun p => p.await.isSome }

/-! Engines (spec/05_registers.md R131). -/

/-- A vector register and its tag. -/
def regWords (r : VReg) : List Nat := wordsOf 64 r.bits.toNat ++ [r.tag.toNat]
/-- The same, read; bits [7:0] of a tag are reserved (spec/02_numbers.md R34). -/
def rdReg : Rd VReg := do
  let n ← rdWords 64
  let t ← rdWord
  pure ⟨BitVec.ofNat 4096 n, BitVec.ofNat 16 (t / 256 * 256)⟩

/-- A numbered item. -/
def keyWords {α : Type} (f : α → List Nat) (e : Nat × α) : List Nat := e.1 :: f e.2
/-- The same, read. -/
def rdKey {α : Type} (f : Rd α) : Rd (Nat × α) := do
  let k ← rdWord
  let x ← f
  pure (k, x)

/-- A user table. -/
def tabWords (t : TiuTab) : List Nat :=
  [t.x0.toNat] ++ intWord t.lsp ++ [t.mode, t.low, t.high] ++ boolWord t.poisoned ++ listWords (fun x => [x.1.toNat, x.2.toNat]) t.segs
/-- The same, read. -/
def rdTab : Rd TiuTab := do
  let x0 ← rdWord
  let lsp ← rdInt
  let mode ← rdWord
  let low ← rdWord
  let high ← rdWord
  let bad ← rdBool
  let segs ← rdList 4096 (do
    let a ← rdWord
    let b ← rdWord
    pure (BitVec.ofNat 32 a, BitVec.ofNat 32 b))
  pure ⟨BitVec.ofNat 32 x0, lsp, mode, low, high, segs, bad⟩

/-- An optional number: 0, or one more than it. -/
def optWord (o : Option Nat) : List Nat := [match o with
  | some n => n + 1
  | none => 0]
/-- The same, read. -/
def rdOpt : Rd (Option Nat) := do
  let n ← rdWord
  pure (if n = 0 then none else some (n - 1))

/-- A result of the VE in flight. -/
def vpendWords (t : Nat) (p : VPend) : List Nat :=
  optWord p.reg ++ optWord p.hpos ++ optWord p.msk ++ optWord p.mbx ++ wordsOf 64 p.bits.toNat ++ wordsOf 64 p.wm.toNat ++
    [p.tag.toNat, p.due - t] ++ boolWord p.lock ++ boolWord p.q
/-- The same, read. -/
def rdVpend (t : Nat) : Rd VPend := do
  let reg ← rdOpt
  let hpos ← rdOpt
  let msk ← rdOpt
  let mbx ← rdOpt
  let b ← rdWords 64
  let w ← rdWords 64
  let tag ← rdWord
  let n ← rdWord
  let lock ← rdBool
  let q ← rdBool
  pure ⟨reg, hpos, msk, mbx, BitVec.ofNat 4096 b, BitVec.ofNat 4096 w, BitVec.ofNat 16 (tag / 256 * 256), t + n, lock, q⟩

/-- Where a sequencer stands in its launch (spec/08_sequencer.md R194); its words and template come from the image again. -/
def seqWords (t : Nat) (q : Seqr) : List Nat :=
  [q.head, q.count, q.ticket.toNat, q.running.toNat, q.nbv, q.check.toNat, q.accp.toNat, q.lvl, q.pc,
    (match q.phase with
      | .entry => 0
      | .body => 1
      | .mark => 2
      | .finish => 3), q.ready - t, q.markIdx.toNat, q.ordinal, q.emask.toNat] ++ q.idx ++ q.trip
/-- The same, read. -/
def rdSeqr (t : Nat) (q : Seqr) : Rd Seqr := do
  let head ← rdWord
  let count ← rdWord
  let ticket ← rdWord
  let running ← rdBool
  let nbv ← rdWord
  let check ← rdBool
  let accp ← rdBool
  let lvl ← rdWord
  let pc ← rdWord
  let ph ← rdWord
  let n ← rdWord
  let mi ← rdWord
  let ord ← rdWord
  let em ← rdWord
  let idx ← rdTimes 6 rdWord
  let trip ← rdTimes 6 rdWord
  pure { q with
    head := head % 16, count := min count 16, ticket := BitVec.ofNat 16 ticket, running := running, nbv := nbv % 256, check := check,
    accp := accp, lvl := lvl % 8, pc := pc
    phase := (match ph % 4 with
      | 0 => .entry
      | 1 => .body
      | 2 => .mark
      | _ => .finish)
    ready := t + n, markIdx := BitVec.ofNat 32 mi, ordinal := ord, emask := BitVec.ofNat 8 em, idx := idx, trip := trip }

/-- v0 to v63 and w0 to w15, h0 to h3 with their positions, m1 to m7, the tables. -/
def veWords (v : Ve) : List Nat :=
  ((upto 80).map fun r => regWords (tget v.regs r {})).flatten ++ listWords (fun i => i :: regWords (tget v.hval i {})) (v.hids.take 4) ++
    ((upto 7).map fun i => wordsOf 8 (tget v.masks (i + 1) 0).toNat).flatten ++ listWords (keyWords tabWords) v.tabs
/-- The same, read. -/
def rdVe (v : Ve) : Rd Ve := do
  let regs ← rdTimes 80 rdReg
  let h ← rdList 4 (rdKey rdReg)
  let m ← rdTimes 7 (rdWords 8)
  let tabs ← rdList 12 (rdKey rdTab)
  pure { v with
    regs := zipFrom 0 regs, hids := h.map (·.1), hval := h, masks := (zipFrom 1 m).map fun e => (e.1, BitVec.ofNat 512 e.2), tabs := tabs }

/-- The banks with their poison maps and W, the coma. -/
def bankWords (m : Me) : List Nat :=
  listWords (keyWords fun b : Bank => listWords intWord b.lanes ++ listWords boolWord b.poison ++ intWord b.w) m.banks ++
    listWords (fun e : ComaE => [e.bank, e.pos] ++ intWord e.count) m.coma ++ [m.high]
/-- The same, read. -/
def rdBanks (m : Me) : Rd Me := do
  let banks ← rdList 4 (rdKey do
    let lanes ← rdList 4096 rdInt
    let bad ← rdList 4096 rdBool
    let w ← rdInt
    pure ({ lanes := lanes, poison := bad, w := w } : Bank))
  let coma ← rdList 4096 (do
    let b ← rdWord
    let p ← rdWord
    let n ← rdInt
    pure (⟨b, p, n⟩ : ComaE))
  let high ← rdWord
  pure { m with
    banks := banks.map fun e => (e.1, { e.2 with due := ((tget? m.banks e.1).map (·.due)).getD 0 }), coma := coma, high := high }

/-- An MMA in progress. -/
def mmaWords (t : Nat) (j : MmaJob) : List Nat :=
  [j.bank, j.qa, j.qb, j.sa, j.sb, j.fa, j.fb, j.stopFull.toNat, j.t, j.due - t, j.issueNo, j.pc, j.pos]
/-- The same, read. -/
def rdMma (t : Nat) : Rd MmaJob := do
  let bank ← rdWord
  let qa ← rdWord
  let qb ← rdWord
  let sa ← rdWord
  let sb ← rdWord
  let fa ← rdWord
  let fb ← rdWord
  let stop ← rdBool
  let k ← rdWord
  let n ← rdWord
  let no ← rdWord
  let pc ← rdWord
  let pos ← rdWord
  pure ⟨bank, qa, qb, sa, sb, fa, fb, stop, k, t + n, no, pc, pos⟩

/-- A drain in progress: its rows and its start; what its rows have folded stays with the core. -/
def drainWords (t : Nat) (j : DrainJob) : List Nat := [j.bank, j.out, j.row, t - j.start, j.issueNo, j.pc, j.nth, j.step]
/-- The same, read into the drain that the core has. -/
def rdDrain (t : Nat) (old : DrainJob) : Rd DrainJob := do
  let bank ← rdWord
  let out ← rdWord
  let row ← rdWord
  let n ← rdWord
  let no ← rdWord
  let pc ← rdWord
  let nth ← rdWord
  let step ← rdWord
  pure { old with bank := bank, out := out, row := row, start := t - n, issueNo := no, pc := pc, nth := nth, step := step }

/-- A MACLD in progress. -/
def loadWords (t : Nat) (j : LoadJob) : List Nat := [j.bank, j.src, j.swz, j.stopFull.toNat, j.row, t - j.start, j.issueNo, j.pc, j.pos]
/-- The same, read. -/
def rdLoad (t : Nat) : Rd LoadJob := do
  let bank ← rdWord
  let src ← rdWord
  let swz ← rdWord
  let stop ← rdBool
  let row ← rdWord
  let n ← rdWord
  let no ← rdWord
  let pc ← rdWord
  let pos ← rdWord
  pure ⟨bank, src, swz, stop, row, t - n, no, pc, pos⟩

/-- The engines' state in flight and their mailboxes. -/
def flightWords (t : Nat) (m : Me) (v : Ve) : List Nat :=
  seqWords t m.q ++ listWords (mmaWords t) m.mma ++ listWords (drainWords t) m.drain.toList ++ listWords (loadWords t) m.load.toList ++
    listWords (fun e => [e.1, e.2.1, e.2.2]) m.popped ++ [m.issueNo, m.drains] ++ listWords (fun e => [e.1, e.2.1.toNat, e.2.2 - t]) m.mbxPend ++
    listWords (fun e => [e.1, e.2 - t]) m.closing ++ (upto 16).map (fun i => (tget m.mbx i 0).toNat) ++
    seqWords t v.q ++ listWords (vpendWords t) v.pend ++ listWords (fun e => [e.1, e.2.toNat]) v.ptag ++ (upto 16).map fun i => (tget v.mbx i 0).toNat
/-- The same, read. -/
def rdFlight (t : Nat) (m : Me) (v : Ve) : Rd (Me × Ve) := do
  let mq ← rdSeqr t m.q
  let mma ← rdList 16 (rdMma t)
  let nd ← rdWord
  let drain ← (match nd, m.drain with
    | n + 1, some j => do
      let l ← rdTimes (min 1 (n + 1)) (rdDrain t j)
      pure l.head?
    | _, _ => pure none)
  let load ← rdList 1 (rdLoad t)
  let popped ← rdList 4096 (do
    let a ← rdWord
    let b ← rdWord
    let c ← rdWord
    pure (a, b, c))
  let no ← rdWord
  let drains ← rdWord
  let mp ← rdList 16 (do
    let a ← rdWord
    let b ← rdWord
    let c ← rdWord
    pure (a, BitVec.ofNat 32 b, t + c))
  let closing ← rdList 4 (do
    let a ← rdWord
    let b ← rdWord
    pure (a, t + b))
  let mm ← rdTimes 16 rdWord
  let vq ← rdSeqr t v.q
  let vp ← rdList 512 (rdVpend t)
  let ptag ← rdList 3072 (do
    let a ← rdWord
    let b ← rdWord
    pure (a, BitVec.ofNat 16 b))
  let vm ← rdTimes 16 rdWord
  let box (l : List Nat) : Tab Word32 := (zipFrom 0 l).map fun e => (e.1, BitVec.ofNat 32 e.2)
  pure ({ m with q := mq, mma := mma, drain := drain, load := load.head?, popped := popped, issueNo := no, drains := drains, mbxPend := mp,
                 closing := closing, mbx := box mm }, { v with q := vq, pend := vp, ptag := ptag, mbx := box vm })

/-! The image. -/

/-- Cycle at which a stopped core stands: what is left of a latency counts from it. -/
def dumpTime (s : State) (c : Nat) : Nat := if (coreOf s c).stopped then (coreOf s c).scyFrom else s.now

/-- What an image holds beside its header and the scratchpad, in the order of R401. -/
def coreWords (s : State) (c : Nat) : List Nat :=
  let k := coreOf s c
  let t := dumpTime s c
  ctxWords t k.l ++ ctxWords t k.c ++ ctxWords t k.s ++ veWords k.ve ++ bankWords k.me ++ flightWords t k.me k.ve

/-- The same, put into the core; what follows it. -/
def rdCore (s : State) (c : Nat) : Rd State := do
  let k := coreOf s c
  let t := dumpTime s c
  let l ← rdCtx t k.l
  let m ← rdCtx t k.c
  let x ← rdCtx t k.s
  let ve ← rdVe k.ve
  let me ← rdBanks k.me
  let e ← rdFlight t me ve
  pure (modCore s c fun k => { k with l := l, c := m, s := x, me := e.1, ve := e.2 })

/-- A debug dump of a core: the 64-byte header with the used length, the parts of R401. -/
def dumpCore (s : State) (c : Nat) : List Byte :=
  let (sl, cr, t) := match (coreOf s c).team with
    | some t => (t.slice, t.crew, t.team)
    | none => (0, 0, 0)
  let body := ((coreWords s c).map (natBytes 8)).flatten ++ ((imageRanges s c).map fun r => rdBytes s.mem r.1 (r.2 - r.1)).flatten
  natBytes 8 c ++ natBytes 8 sl ++ natBytes 8 cr ++ natBytes 8 t ++ natBytes 8 (scyOf s c) ++ natBytes 8 (64 + body.length) ++ natBytes 16 0 ++ body

/-- The bits of a byte of the system area that are no reserved field: of descriptors and headers (spec/06_scratchpad.md R138, R140, R142),
and none of the parts that are reserved as a whole. -/
def sysKeep (o : Nat) : Nat :=
  let desc (b : Nat) : Nat := match b with
    | 2 => 0x3F
    | 3 => 0
    | 9 => 3
    | 0xB => 0
    | b => if b < 0xE then 255 else 0
  let header (b : Nat) : Nat := match b with
    | 0 => 3
    | 1 => 0
    | 2 => 0
    | 9 => 7
    | 10 => 15
    | 11 => 0
    | _ => 255
  if 0x2F4000 ≤ o && o < 0x2F4400 then desc (o % 64)
  else if 0x2F4400 ≤ o && o < 0x2F4600 then (if 0xC ≤ o % 16 then 0 else desc (o % 16))
  else if (0x2F4600 ≤ o && o < 0x2F4800) || (0x2F8000 ≤ o && o < 0x2FC000) then header (o % 16)
  else if (0x2F7040 ≤ o && o < 0x2F8000) || (0x2FC000 ≤ o && o < 0x300000) then 0
  else 255

/-- Bytes put into a core's scratchpad from a key on, reserved fields zero. -/
def putKept (c k : Nat) (l : List Byte) (s : State) : State :=
  storeBytes s k ((zipFrom 0 l).map fun e => e.2 &&& BitVec.ofNat 8 (sysKeep (k + e.1 - scrKey c 0)))

/-- The bytes of an image put into the ranges it holds. -/
def putRanges (c : Nat) (rs : List (Nat × Nat)) (l : List Byte) (s : State) : State :=
  match rs with
  | [] => s
  | r :: t => putRanges c t (l.drop (r.2 - r.1)) (putKept c r.1 (l.take (r.2 - r.1)) s)

/-- The words of bytes, and the bytes behind them are left to the reader of the ranges. -/
def bytesWords (l : List Byte) : List Nat := (upto (l.length / 8)).map fun i => bytesNat ((l.drop (8 * i)).take 8)

/-- Put an image's bytes into a core: the header is not written. -/
def dumpPut (c : Nat) (l : List Byte) (s : State) : State :=
  let rs := imageRanges s c
  let r := rdCore s c (bytesWords (l.drop 64))
  putRanges c rs ((r.2.map (natBytes 8)).flatten) r.1

end Sys2Proof.Machine
end

