-- ==== Sys2Proof/Machine/HostLink.lean ====
section
/-! DEFINITION. The host link: requests to device memory, event queues, the registers of BAR0, TDISP, the management interface and
what the root of trust does for it (spec/20_host.md R416 to R421, spec/10_pages.md R236 to R239, spec/19_observation.md R413 to R415). -/

namespace Sys2Proof.Machine

open Host (Outcome)

/-! Host requests (R416, R417, spec/10_pages.md R237). -/

/-- Complete a host request: whether it succeeded, its bytes. -/
def hostReply (ok : Bool) (l : List Byte) (s : State) : State := { s with host := { s.host with replies := (ok, l) :: s.host.replies } }

/-- The bit of OWNERS that a function's requests need. -/
def fnClass (fn : Nat) : Nat := if fn = 0 then 9 else fn - 1

/-- The event queue of the owner of a PA: its range's lowest partition, else the function's own queue. -/
def ownerQueue (s : State) (fn pa : Nat) : Nat :=
  match s.ranges.find? fun g => decide (g.base ≤ pa / 2^16) && decide (pa / 2^16 ≤ g.limit) with
  | some g => match (upto 8).find? fun p => g.owners.getLsbD p with
    | some p => p + 1
    | none => fn
  | none => fn

/-- A refused request: an error with all ones, and HOSTREFUSED where the access was refused to the function. -/
def hostRefuse (w : HostReq) (event : Bool) (s : State) : State :=
  let t := hostReply false (if w.write then [] else List.replicate w.len 255) s
  if event then sendEvent (ownerQueue s w.fn.toNat w.pa.toNat) 0x21 [] t else t

/-- A TDI in LOCKED or RUN admits only requests protected by IDE. -/
def tdiShut (s : State) (w : HostReq) : Bool :=
  fnShut s w.fn.toNat w.ide

/-- A host access of a class to device DRAM: every granule that it touches is checked (R237). The knock words take only aligned 8-byte
stores; any other access that touches the page reads zero and is discarded (spec/16_launch.md R344). -/
def hostAccess (w : HostReq) (cls : Nat) (s : State) : State :=
  let pa := w.pa.toNat
  let last := pa + (w.len - 1)
  let refused := (rangeCheckAll s pa w.len ⟨cls, true⟩).isSome || !isDram pa || !isDram last
  match (knockAt s pa).orElse fun _ => knockAt s last with
  | some (d, q) =>
    if w.write && w.len = 8 && pa % 8 = 0 then
      let v := bytesNat w.data
      let k : KnockStore := ⟨BitVec.ofNat 2 d, BitVec.ofNat 12 q, BitVec.ofNat 32 v, BitVec.ofNat 32 (v / 2^32), .host w.fn w.ide⟩
      hostReply true [] { s with events := s.events ++ [⟨.cp (BitVec.ofNat 2 d), some (.knock k)⟩] }
    else hostReply true (if w.write then [] else List.replicate w.len 0) s
  | none =>
    if refused then hostRefuse w true s
    else if w.write then hostReply true [] (storeBytes s pa (w.data.take w.len))
    else if hasBad s pa w.len then
      hostReply false ((upto w.len).map fun i => Config.freeByte (s.free + i)) { s with free := s.free + w.len }
    else hostReply true (rdBytes s.mem pa w.len) s

/-! The firmware's accesses (R237). -/

/-- What a read of the firmware gets. -/
def fwReply (d : Nat) (l : List Byte) (s : State) : State := modDie s d fun x => { x with fwGot := l :: x.fwGot }

/-- An access of a management core to device DRAM: a refused read gets all ones, a refused write is discarded, with a fault logged. -/
def fwAccess (d : Nat) (w : HostReq) (s : State) : State :=
  let pa := w.pa.toNat
  if !fwMay s pa w.len then
    let t := fwRefused d pa s
    if w.write then t else fwReply d (List.replicate w.len 255) t
  else if w.write then fwStore pa (w.data.take w.len) s
  else if hasBad s pa w.len then fwReply d ((upto w.len).map fun i => Config.freeByte (s.free + i)) { s with free := s.free + w.len }
  else fwReply d (rdBytes s.mem pa w.len) s

/-! Reads of BAR0 (R418, R419, R421, R423, spec/15_fabric.md R336). -/

/-- PSTAT of a port. -/
def pstat (p : Port) : Nat :=
  p.inService.toNat + 2 * (decide (2 ≤ portRow p.slots)).toNat + 4 * (portRow p.slots != 0).toNat + 2^3 * (p.conj % 64) +
    2^9 * onesOf p.live + 2^17 * p.slots

/-- MBSTAT. -/
def mbstat (m : Mbox) : Nat := m.done.toNat + 2 * m.busy.toNat + 4 * m.ovr.toNat + 2^8 * m.stat.toNat

/-- EQCTL as it reads. -/
def eqctl (q : EvQueue) : Nat := q.log + 2^5 * q.en.toNat + 2^6 * q.vec + 2^17 * q.mod

/-- The port of a fibre: 0 to 63 transmit, 64 to 127 receive (log 91); the key of a wavelength's register of it; its SAT. -/
def fibrePort (f : BitVec 7) : BitVec 6 := f.setWidth 6
def fibreKey (f w : BitVec 7) : Nat := w.toNat + f.toNat / 64 * 128
def fibreSat (p : Port) (f : BitVec 7) : BitVec 128 := if f.toNat < 64 then p.sat else p.satRx

/-- What a read of a register of function `fn` gets; none where the function does not have it. Reserved fields read zero
(spec/00_scope.md R3). -/
def bar0Get (s : State) (fn : Nat) (r : Bar0View) : Option Nat :=
  let pf (n : Nat) : Option Nat := if fn = 0 then some n else none
  let port (f : BitVec 6) (g : Port → Nat) : Option Nat := pf (g (portOf s f.toNat) % 2^64)
  let q := evqOf s fn
  let m := tget s.host.mbox fn {}
  match r with
  | .lqbase d => pf (dieOf s d.toNat).cp.lqbase
  | .fqbase d => pf (dieOf s d.toNat).fqbase
  | .sltbase d => pf (dieOf s d.toNat).disp.sltbase
  | .enbase d => pf (((dieOf s d.toNat).enbase / 2^16 + Config.baselineNj d.toNat s.now) % 2^64)
  | .trstat d => pf ((dieOf s d.toNat).drop.toNat + 2^24 * (dieOf s d.toNat).wrap.toNat)
  | .pstat f => port f pstat
  | .live f h => port f fun p => nbits p.live.toNat (if h then 64 else 0) 64
  | .flitTx f => port f (·.flitTx)
  | .flitRx f => port f (·.flitRx)
  | .replay f => port f (·.replays)
  | .crcErr f => port f (·.crcErr)
  | .losCnt f => port f (·.losCnt)
  | .eqbase => some q.base
  | .eqhead => some q.head
  | .eqtail => some q.tail
  | .eqdrop => some (min (2^32 - 1) q.drop)
  | .eqctl => some (eqctl q)
  | .mbRequest off => if off + 8 ≤ 4096 then some (recF m.req off 8) else none
  | .mbResponse off => if off + 8 ≤ 4096 then some (recF m.resp off 8) else none
  | .mbstat => some (mbstat m)
  | .fqMirror d off =>
    let e := tget (dieOf s d.toNat).fq (off / 32) {}
    if 8192 ≤ off || (fn != 0 && e.part.toNat != fn - 1) then none
    else some (if off % 32 = 0 then e.va.toNat else rdN s.mem ((dieOf s d.toNat).fqbase + off / 8 * 8) 8)
  | .p2psel => pf s.host.p2psel.toNat
  | .pwrcap => pf (s.power.capw + 2^12 * s.power.thr.toNat)
  | .htr f w => port (fibrePort f) fun p => (tget p.htr (fibreKey f w) 0).toNat
  | .mpd f w => port (fibrePort f) fun p => (tget p.mpd (fibreKey f w) 0).toNat
  | .rmap f w => port (fibrePort f) fun p => (tget p.rmap (fibreKey f w) 0).toNat
  | .sat f h => port (fibrePort f) fun p => nbits (fibreSat p f).toNat (if h then 64 else 0) 64

/-- A host read of a register of BAR0: one that the function does not have is not supported (R416). -/
def bar0Read (w : HostReq) (r : Bar0View) (s : State) : State :=
  match bar0Get s w.fn.toNat r with
  | some v => hostReply true (natBytes 8 v) s
  | none => hostReply false (List.replicate 8 255) s

/-- A management core writes an optics register (R424); it writes no other of these. -/
def fwTune (r : Bar0View) (v : Nat) (s : State) : State :=
  match r with
  | .htr f w => modPort s (fibrePort f).toNat fun p => { p with htr := tput p.htr (fibreKey f w) (BitVec.ofNat 12 v) }
  | .mpd f w => modPort s (fibrePort f).toNat fun p => { p with mpd := tput p.mpd (fibreKey f w) (BitVec.ofNat 16 v) }
  | .rmap f w => modPort s (fibrePort f).toNat fun p => { p with rmap := tput p.rmap (fibreKey f w) (BitVec.ofNat 8 v) }
  | .sat f h => modPort s (fibrePort f).toNat fun p =>
      let n := (fibreSat p f).toNat
      let x := BitVec.ofNat 128 (if h then v % 2^64 * 2^64 + n % 2^64 else n / 2^64 * 2^64 + v % 2^64)
      if f.toNat < 64 then { p with sat := x } else { p with satRx := x }
  | _ => s

/-- A management core's access: a register of BAR0, or memory. -/
def fwRequest (d : Nat) (w : HostReq) (s : State) : State :=
  match w.reg with
  | none => fwAccess d w s
  | some r =>
    if w.write then fwTune r (bytesNat w.data) s
    else
      match bar0Get s 0 r with
      | some v => fwReply d (natBytes 8 v) s
      | none => s

/-- The access that a request through BAR4 makes: the device PA at its offset in the window that P2PSEL selects (R418). -/
def bar4Req (s : State) (w : HostReq) : HostReq :=
  if w.bar4 then { w with pa := BitVec.ofNat 52 (w.pa.toNat % 2^36 + 2^36 * s.host.p2psel.toNat) } else w

/-- HOST_REQUEST (R416): a VF whose partition does not exist is not supported, nor is BAR4 of a VF (R418). From a management core it is the
firmware's access. -/
def execHostRequest (w : HostReq) (s : State) : Outcome State Fault Refusal :=
  let fn := w.fn.toNat
  match s.cur with
  | .mgmt d => .next (fwRequest d.toNat w s)
  | _ =>
    if fn != 0 && (!(partOf s (fn - 1)).valid || w.bar4) then .next (hostRefuse w false s)
    else if tdiShut s w then .next (hostRefuse w true s)
    else
      match w.reg with
      | some r => .next (bar0Read w r s)
      | none => .next (hostAccess (bar4Req s w) (fnClass fn) s)

/-- CXL_MEM_ACCESS (R417): through the HDM decoder, as the host PF. -/
def execCxlMemAccess (w : HostReq) (s : State) : Outcome State Fault Refusal := .next (hostAccess { w with fn := 0 } 9 s)

/-! Event queues (R419, R420). -/

/-- Set EQHEAD: with space again, records that were lost are told first. -/
def setHead (fn head : Nat) (s : State) : State := tellLost fn (modEvq s fn fun q => { q with head := head % q.size })

/-- A write to BAR0 by a function: not supported where a VF's partition does not exist, an error with HOSTREFUSED where a TDI is locked and
the request not its own by IDE (R416); it wakes the package (R423). -/
def bar0Guard (fn : Nat) (ide : Bool) (f : State → State) (s : State) : State :=
  if fn != 0 && !(partOf s (fn - 1)).valid then hostReply false [] s
  else if fnShut s fn ide then sendEvent fn 0x21 [] (hostReply false [] s)
  else wake (f s)

/-- EQHEAD. -/
def execEqhead (w : EqWrite) (s : State) : Outcome State Fault Refusal := .next (bar0Guard w.fn.toNat w.ide (setHead w.fn.toNat w.head.toNat) s)

/-- MSIX_MODERATION (R420): the end of an interval in which records were written and no message was sent. -/
def execMsixModeration (w : HostFn) (s : State) : Outcome State Fault Refusal :=
  let fn := w.toNat
  let q := evqOf s fn
  if q.en && q.unsent && q.mod != 0 then .next (sendMsix (modEvq s fn fun q => { q with unsent := false }) fn q.vec)
  else .next s

/-! TDISP (R416). -/

/-- TDISP_REQUEST: the steps of a TDI are UNLOCKED to LOCKED, LOCKED to RUN, and back to UNLOCKED (log 40); only a VF of a sealed
partition is one. -/
def execTdispRequest (w : TdispRequest) (s : State) : Outcome State Fault Refusal :=
  let n := w.vf.toNat
  let p := partOf s n
  let old := tget s.host.tdi n .unlocked
  let ok := p.valid && p.isSealed && (match old, w.to_ with
    | _, .unlocked => true
    | .unlocked, .locked => true
    | .locked, .run => true
    | _, _ => false)
  .next (if ok then { s with host := { s.host with tdi := tput s.host.tdi n w.to_ } } else s)

/-! Mailboxes (R421). -/

/-- A function's mailbox. -/
def mboxOf (s : State) (fn : Nat) : Mbox := tget s.host.mbox fn {}
/-- Change a mailbox. -/
def modMbox (s : State) (fn : Nat) (f : Mbox → Mbox) : State := { s with host := { s.host with mbox := tput s.host.mbox fn (f (mboxOf s fn)) } }
/-- Replace bytes of a buffer from `off`; bytes never written are zero. -/
def putBuf (off : Nat) (b l : List Byte) : List Byte :=
  (l.take off) ++ List.replicate (off - l.length) 0 ++ b ++ l.drop (off + b.length)

/-- A doorbell: while BUSY it only sets OVR. -/
def doorbell (fn : Nat) (s : State) : State :=
  if (mboxOf s fn).busy then modMbox s fn fun m => { m with ovr := true }
  else
    let t := modMbox s fn fun m => { m with done := false, ovr := false, busy := true }
    { t with host := { t.host with doorbells := t.host.doorbells ++ [fn] } }

/-- MBDOOR. -/
def execMbdoor (w : DoorWrite) (s : State) : Outcome State Fault Refusal := .next (bar0Guard w.fn.toNat w.ide (doorbell w.fn.toNat) s)

/-! BAR0 (R418, R423). -/

/-- EQCTL as written: another LOG than 6 to 16 is 6. -/
def writeEqctl (fn : Nat) (v : Word) (s : State) : State :=
  let l := fieldOf v 0 5
  modEvq s fn fun q => { q with log := if 6 ≤ l && l ≤ 16 then l else 6, en := fieldOf v 5 1 = 1, vec := fieldOf v 6 11, mod := fieldOf v 17 16 }

/-- A host write of a register that the function has; any other write changes nothing. -/
def bar0Set (fn : Nat) (r : Bar0Reg) (v : Word) (s : State) : State :=
  let pf (t : State) : State := if fn = 0 then t else s
  match r with
  | .lqbase d => pf (modCp s d.toNat fun c => { c with lqbase := v.toNat % 2^52 / 4096 * 4096 })
  | .fqbase d => pf (modDie s d.toNat fun x => { x with fqbase := v.toNat % 2^52 })
  | .fqret d => pf (fqRetire d.toNat (fieldOf v 0 8) (fieldOf v 8 1 = 1) s)
  | .sltbase d => pf (modDisp s d.toNat fun x => { x with sltbase := v.toNat % 2^52 })
  | .eqbase => modEvq s fn fun q => { q with base := v.toNat % 2^51 / 4096 * 4096 }
  | .eqhead => setHead fn (v.toNat % 2^32) s
  | .eqctl => writeEqctl fn v s
  | .mbRequest off => if off + 8 ≤ 4096 then modMbox s fn fun m => { m with req := putBuf off (natBytes 8 v.toNat) m.req } else s
  | .mbdoor => doorbell fn s
  | .p2psel => pf { s with host := { s.host with p2psel := v.setWidth 2 } }
  | .pwrcap => pf (writeCap v s)
  | .other => s

/-- BAR0_WRITE: the register, and the exit from SLEEP. -/
def execBar0Write (w : Bar0Write) (s : State) : Outcome State Fault Refusal :=
  .next (bar0Guard w.fn.toNat w.ide (bar0Set w.fn.toNat w.reg w.value) s)

/-! Serving a request (R421). -/

/-- The command and the body of a function's request. -/
def reqCommand (s : State) (fn : Nat) : Nat := recF (mboxOf s fn).req 0 2
def reqBody (s : State) (fn : Nat) : List Byte := ((mboxOf s fn).req.drop 8).take (recF (mboxOf s fn).req 4 2)

/-- The row of the request that the root of trust serves next. -/
def rotRow (s : State) : Option Instr :=
  match s.host.doorbells with
  | [] => none
  | fn :: _ =>
    some (match reqCommand s fn with
      | 1 => .pcreate
      | 2 => .pdestroy
      | 3 => .importBlob
      | 4 => .attest
      | 5 => .manifest
      | 6 => .progreg
      | 7 => .debugCmd
      | 8 => .hssread
      | 9 => .fwload
      | 10 => .recover
      | _ => .unknownCommand)

/-- A response: its status and body in the buffer, DONE, the message. -/
def respond (fn stat : Nat) (body : List Byte) (s : State) : State :=
  let t := modMbox s fn fun m =>
    { m with resp := putBuf 0 (natBytes 8 stat ++ body) m.resp, done := true, busy := false, stat := BitVec.ofNat 8 stat }
  let u := { t with host := { t.host with doorbells := t.host.doorbells.tail }, rot := { t.rot with ready := s.now + 1 } }
  if (evqOf s fn).en then sendMsix u fn (evqOf s fn).vec else u

/-- Serve the request at the head if its command is `cmd`: a VF may not give a command of the PF (STAT 2). -/
def serveCmd (cmd : Nat) (pfOnly : Bool) (f : Nat → List Byte → State → State) (s : State) : Outcome State Fault Refusal :=
  match s.host.doorbells with
  | [] => .next s
  | fn :: _ =>
    if reqCommand s fn != cmd then .next s
    else if pfOnly && fn != 0 then .next (respond fn 2 [] s)
    else .next (f fn (reqBody s fn) s)

/-- The partition that a request concerns: that of the VF, or the one that a PF's body names. -/
def reqPart (fn : Nat) (b : List Byte) : Nat := if fn = 0 then Config.bodyNat b 0 % 8 else fn - 1

/-- Items `k`, `k + 1`, … of a body. -/
def bodyList (b : List Byte) (k n : Nat) : List Nat := (upto n).map fun i => Config.bodyNat b (k + i)

/-! Partitions (spec/10_pages.md R236 to R240). The layout of the body is not given: its items are free values (log 1). -/

/-- The ranges that a body gives, at most 16. -/
def bodyRanges (b : List Byte) (p : Nat) : List Range :=
  (upto (Config.bodyNat b 100 % 17)).map fun i =>
    ⟨Config.bodyNat b (101 + 4 * i) % 2^22, Config.bodyNat b (102 + 4 * i) % 2^22, BitVec.ofNat 10 (Config.bodyNat b (103 + 4 * i)) ||| BitVec.ofNat 10 (2^p),
      Config.bodyNat b (104 + 4 * i) % 2 = 1⟩

/-- Ranges that the root of trust refuses (R236). -/
def badRanges (old new : List Range) : Bool :=
  let meet (a b : Range) : Bool := decide (a.base ≤ b.limit) && decide (b.base ≤ a.limit)
  new.any (fun g => decide (g.limit < g.base) || (g.isSealed && decide (1 < ((upto 8).filter fun i => g.owners.getLsbD i).length)) ||
    (g.isSealed && (g.owners.getLsbD 8 || g.owners.getLsbD 9)) || old.any (meet g)) ||
    (upto new.length).any (fun i => (upto i).any fun j =>
      match new[i]?, new[j]? with
      | some a, some c => meet a c
      | _, _ => false)

/-- Two HSS ranges share an index (spec/12_semaphores.md R265). -/
def hssMeets (s : State) (base count : Nat) : Bool :=
  (upto 8).any fun p =>
    let q := partOf s p
    q.valid && decide (base < q.hssBase + q.hssCount) && decide (q.hssBase < base + count)

/-- The resources whose slots a partition is given (spec/17_scheduling.md R376); those of scrub are the device's. -/
def slotResources : List Resource :=
  ((upto 4).map fun d =>
    let b := BitVec.ofNat 2 d
    ((upto Config.dramChannels).map fun c => Resource.dram b c) ++ ((upto 32).map fun n => Resource.l2 b (BitVec.ofNat 5 n)) ++
      ((upto d).map fun e => Resource.bridge (BitVec.ofNat 2 e) b) ++ [.halo b, .collective b, .hss b, .trace b, .scrub b]).flatten ++
    (upto 64).map fun f => Resource.port (BitVec.ofNat 6 f)

/-- The slots of R255 and R376 that a body gives a partition, by resource and class. What they bound but for trace and scrub is timing
(log 58). -/
def bodySlots (b : List Byte) (p : Nat) : Tab Nat :=
  (slotResources.map fun r => (upto (resClasses r)).map fun c =>
    let own : Nat := match r with
      | .scrub _ => 0
      | _ => p
    (slotKey r own c, Config.bodyNat b (100000 + 8 * resNum r + c) % 4097)).flatten

/-- A partition's slots of a resource, of all classes. -/
def slotsOf (q : Part) (k : Nat) : Nat := (q.slots.filter fun x => slotRes x.1 = k).foldl (fun n x => n + x.2) 0

/-- The slots of some resource that all partitions hold exceed its period of 4,096 cycles, or the partition has fewer of a DRAM channel than
cores (spec/17_scheduling.md R376). -/
def overGranted (s : State) (q : Part) : Bool :=
  q.slots.any (fun e =>
    decide (4096 < slotsOf q (slotRes e.1) + ((upto 8).map fun p =>
      if (partOf s p).valid then slotsOf (partOf s p) (slotRes e.1) else 0).foldl (· + ·) 0)) ||
    ((upto 4).any fun d => (upto Config.dramChannels).any fun c =>
      decide (slotsOf q (resNum (.dram (BitVec.ofNat 2 d) c)) < onesOf q.cores))

/-- The partition that a body describes (R421). -/
def bodyPart (s : State) (b : List Byte) (p : Nat) : Part :=
  { valid := true, isSealed := Config.bodyNat b 1 % 2 = 1, cores := BitVec.ofNat 128 (Config.bodyNat b 2)
    peers := (upto 4096).filterMap fun i =>
      let v := Config.bodyNat b (1000 + i) % 32
      if v = 0 then none else some (i, BitVec.ofNat 8 v)
    hssBase := Config.bodyNat b 3 % 2^16, hssCount := min (Config.bodyNat b 4) (2^16 - Config.bodyNat b 3 % 2^16)
    bcap := Config.bodyNat b 5, tokCap := Config.bodyNat b 6 % 256, trSmp := BitVec.ofNat 3 (Config.bodyNat b 7)
    trBrlog := Config.bodyNat b 8 % 32, frames := Config.bodyNat b 9
    trCls := BitVec.ofNat 2 (Config.bodyNat b 10), slots := bodySlots b p
    serial := s.rot.created + 1 }

/-- PCREATE: the lowest id that is free; STAT 5 with none, 3 for ranges that R236 or R265 refuses or slots that exceed a period. The trace
regions are placed; a key pair is made and held (R238). -/
def execPcreate (s : State) : Outcome State Fault Refusal :=
  serveCmd 1 true (fun fn b s =>
    match (upto 8).find? fun p => !(partOf s p).valid with
    | none => respond fn 5 [] s
    | some p =>
      let q := bodyPart s b p
      let rg := bodyRanges b p
      if badRanges s.ranges rg || hssMeets s q.hssBase q.hssCount || overGranted s q then respond fn 3 [] s
      else
        let t := (upto 4).foldl (fun t d => modDie t d fun x =>
          let n := Config.bodyNat b (31 + 2 * d) % 2^38
          { x with trBase := Config.bodyNat b (30 + 2 * d) % 2^38, trSize := if n = 0 then 2^28 else n, trPos := 0, trCount := 0 }) s
        respond fn 0 (natBytes 8 p) { t with
          parts := tput t.parts p q, ranges := t.ranges ++ rg, rot := { t.rot with created := t.rot.created + 1, keys := tput t.rot.keys p q.serial } }) s

/-- A slice of a partition is bound on some die. -/
def partBusy (s : State) (p : Nat) : Bool :=
  (upto 4).any fun d => (dispOf s d).rmu.any fun e => e.2.part = p && e.2.crews.any fun k => k.2.st = .bound

/-- The sealed ranges of a partition. -/
def sealedOf (s : State) (p : Nat) : List Range := s.ranges.filter fun g => g.isSealed && g.owners.getLsbD p

/-- With its key gone a sealed range holds no data any more: every byte is a free value, no cache keeps a copy (R238). -/
def loseRange (s : State) (g : Range) : State :=
  let lo := g.base * 2^16
  let n := (g.limit + 1 - g.base) * 2^16
  let hit (line : Nat) : Bool := decide (lo ≤ 128 * line) && decide (128 * line < lo + n)
  { s with
    mem := wrBytes s.mem lo ((upto n).map fun i => Config.freeByte (s.free + i))
    free := s.free + n
    dies := s.dies.map fun e => (e.1, { e.2 with l2 := e.2.l2.filter fun l => !hit l.1 })
    cores := s.cores.map fun e =>
      (e.1, { e.2 with l1 := e.2.l1.filter (fun l => !hit l.1), icache := e.2.icache.filter fun b => !hit (b.1 / 2) }) }

/-- A partition's queues, and its packets in saved images or waiting behind a restore, leave its engines. -/
def forgetQueues (p : Nat) (s : State) : State :=
  { s with
    cores := s.cores.map fun e => (e.1, { e.2 with ce := { e.2.ce with
      slots := e.2.ce.slots.filter (fun q => q.2.part.toNat != p), parked := e.2.ce.parked.filter fun j => j.part.toNat != p } })
    dies := s.dies.map fun e => (e.1, { e.2 with xe := { e.2.xe with slots := e.2.xe.slots.filter fun q => q.2.part.toNat != p } }) }

/-- A partition's grids, steps and strips leave the halo engines: a descriptor is cached until the partition is destroyed
(spec/14_grids.md R302). -/
def forgetGrids (p : Nat) (s : State) : State :=
  let of (o : HeOp) : Bool := o.names.1 = p
  { s with
    dies := s.dies.map fun e =>
      (e.1, { e.2 with he := { e.2.he with
        grids := e.2.he.grids.filter fun g => g.part.toNat != p
        stages := e.2.he.stages.filter fun t => t.part.toNat != p
        strips := e.2.he.strips.filter fun x => x.part.toNat != p
        held := e.2.he.held.filter fun x => !of x.2
        full := e.2.he.full.filter fun x => !of x } }) }

/-- PDESTROY: refused while a slice is bound; the partition, its ranges, its keys and with them its sealed data are gone. -/
def execPdestroy (s : State) : Outcome State Fault Refusal :=
  serveCmd 2 true (fun fn b s =>
    let p := reqPart fn b
    if !(partOf s p).valid || partBusy s p then respond fn 3 [] s
    else
      let t := forgetQueues p (forgetGrids p ((sealedOf s p).foldl loseRange s))
      let rg := (t.ranges.map fun g => { g with owners := g.owners &&& ~~~(BitVec.ofNat 10 (2^p)) }).filter fun g => g.owners != 0
      respond fn 0 [] { t with
        parts := tdel t.parts p, ranges := rg, rot := { t.rot with keys := tdel t.rot.keys p }
        host := { t.host with tdi := tdel t.host.tdi p } }) s

/-! Imports (spec/10_pages.md R239). -/

/-- A PA lies in a sealed range. -/
def inSealed (s : State) (pa : Nat) : Bool :=
  s.ranges.any fun g => g.isSealed && decide (g.base ≤ pa / 2^16) && decide (pa / 2^16 ≤ g.limit)

/-- Every 64-byte run from `va` may be written by the partition and lies in a sealed range. DESIGN CHOICE (log 84): "writable by the
partition" is tested as an access at user level, so that a page with U = 0 is refused. -/
def destOk (s : State) (p va len : Nat) : Bool :=
  (upto (len / 64 + 2)).all fun i =>
    let a := if i = 0 then va else va / 64 * 64 + 64 * i
    if va + len ≤ a then true
    else
      match (dieTgt s 0 p ⟨false, true, false, false⟩ a (min (64 - a % 64) (va + len - a))).1 with
      | .ok (.phys pa _) => inSealed s pa
      | _ => false

/-- A PA lies in a range of the partition that is not sealed. -/
def inOwnOpen (s : State) (p pa : Nat) : Bool :=
  s.ranges.any fun g => !g.isSealed && g.owners.getLsbD p && decide (g.base ≤ pa / 2^16) && decide (pa / 2^16 ≤ g.limit)

/-- The blob at a VA lies in ranges of the partition that are not sealed. -/
def blobOk (s : State) (p va len : Nat) : Bool :=
  (upto (len / 64 + 2)).all fun i =>
    let a := if i = 0 then va else va / 64 * 64 + 64 * i
    if va + len ≤ a then true
    else
      match (dieTgt s 0 p ⟨true, false, false, false⟩ a (min (64 - a % 64) (va + len - a))).1 with
      | .ok (.phys pa _) => inOwnOpen s p pa
      | _ => false

/-- A header that an import refuses. -/
def badBlob (h : List Byte) : Bool :=
  recF h 0 4 != 1 || recF h 4 4 != 0 || recF h 8 8 % 16 != 0 || recF h 0x10 8 % 16 != 0 || recF h 0x1C 4 != 0 || recF h 0x3C 4 != 0

/-- IMPORT: STAT 3 for a check, 4 for the tag; it writes nothing then. -/
def execImportBlob (s : State) : Outcome State Fault Refusal :=
  serveCmd 3 false (fun fn b s =>
    let p := reqPart fn b
    let q := partOf s p
    let va := Config.bodyNat b 1
    match (dieRead s 0 p va 64).1 with
    | .error _ => respond fn 3 [] s
    | .ok h =>
      let dst := recF h 8 8
      let len := recF h 0x10 8
      let ses := recF h 0x18 4
      if !q.valid || badBlob h || !blobOk s p va (64 + len) || !destOk s p dst len || q.sessions.contains (BitVec.ofNat 32 ses) then
        respond fn 3 [] s
      else
        match (dieRead s 0 p (va + 64) len).1 with
        | .error _ => respond fn 3 [] s
        | .ok c =>
          if !Config.gcmOk q.serial ses (h ++ c) then respond fn 4 [] s
          else
            let t := (dieWrite s 0 p dst ((upto len).map fun i => Config.gcmByte q.serial ses (h ++ c) i)).2
            respond fn 0 [] (modPart t p fun q => { q with sessions := q.sessions ++ [BitVec.ofNat 32 ses] })) s

/-! Attestation (spec/19_observation.md R413, R414). -/

/-- The configuration that CFGM measures, as numbers. -/
def cfgNumbers (s : State) (p : Nat) : List Nat :=
  let q := partOf s p
  [q.cores.toNat, q.bcap, q.tokCap, q.hssBase, q.hssCount, s.rot.svrot.toNat, q.trEn.toNat, q.trSmp.toNat, q.trBrlog, q.trCls.toNat,
    q.frames] ++ ((s.ranges.filter fun g => g.owners.getLsbD p).map fun g => [g.base, g.limit, g.owners.toNat, g.isSealed.toNat]).flatten ++
    (q.peers.map fun e => [e.1, e.2.toNat]).flatten ++ (q.slots.map fun e => [e.1, e.2]).flatten

/-- Bytes 0x000 to 0x0FF of a report. -/
def reportBytes (s : State) (p kind : Nat) (nonce : List Byte) (outd : Nat) : List Byte :=
  let q := partOf s p
  natBytes 4 1 ++ natBytes 4 kind ++ nonce ++ natBytes 32 (Config.sm3 s.rot.fw).toNat ++ natBytes 32 (Config.cfgDigest (cfgNumbers s p)).toNat ++
    natBytes 32 (Config.sm3 (q.progs.map fun d => natBytes 32 d.toNat).flatten).toNat ++
    [q.nbv, BitVec.ofNat 8 p, BitVec.ofNat 8 q.isSealed.toNat, 0, 0, 0, 0, 0] ++ (upto 64).map (Config.epkByte q.serial) ++ natBytes 32 outd ++
    List.replicate 16 0

/-- Answer with a signed report. -/
def sendReport (fn p kind : Nat) (nonce : List Byte) (outd : Nat) (s : State) : State :=
  let l := reportBytes s p kind nonce outd
  respond fn 0 (l ++ (upto 64).map (Config.sm2Byte s.free l)) { s with free := s.free + 1 }

/-- The nonce of a request's body. -/
def reqNonce (b : List Byte) : List Byte := (upto 32).map fun i => BitVec.ofNat 8 (Config.bodyNat b (50 + i))

/-- ATTEST. -/
def execAttest (s : State) : Outcome State Fault Refusal :=
  serveCmd 4 false (fun fn b s =>
    let p := reqPart fn b
    if (partOf s p).valid then sendReport fn p 1 (reqNonce b) 0 s else respond fn 3 [] s) s

/-- The bytes of a list of (VA, length) pairs, as the partition reads them. -/
def declared (s : State) (p : Nat) (l : List (Nat × Nat)) : Option (List Byte) :=
  match l with
  | [] => some []
  | (va, n) :: r =>
    match (dieRead s 0 p va n).1, declared s p r with
    | .ok a, some b => some (a ++ b)
    | _, _ => none

/-- The records in a die's region since it was placed, the oldest first: after a wrap from the one that is overwritten next. -/
def regionRecords (s : State) (d : Nat) : List (List Byte) :=
  let x := dieOf s d
  let size := max 1 (x.trSize / 64)
  let n := min x.trCount size
  (upto n).map fun i => rdBytes s.mem (x.trBase + 64 * ((x.trPos / 64 + size - n + i) % size)) 64

/-- The program-class records of a partition in a die's region from cycle `since` on, CYC, SCY and SEQ zero (R413). -/
def programRecords (s : State) (d p since : Nat) : List (List Byte) :=
  (regionRecords s d).filter (fun r => recF r 1 1 = 0 && recF r 2 1 % 8 = p && decide (since + (dieOf s d).cycAdd ≤ recF r 8 8)) |>.map fun r =>
    r.take 8 ++ List.replicate 16 0 ++ ((r.drop 24).take 32) ++ List.replicate 4 0 ++ r.drop 60

/-- The first cycle of a run: the handover of the first of the slices named; the whole of the record where none is (log 93). -/
def runStart (s : State) (p : Nat) (ids : List Nat) : Nat := (leastOf ((partOf s p).began.filterMap fun e => if ids.contains e.1 then some e.2 else none)).getD 0

/-- The same, stream by stream: units of a core in order. -/
def streamRecords (s : State) (p since : Nat) : List Byte :=
  let all := ((upto 4).map fun d => programRecords s d p since).flatten
  ((upto 128).map fun c => (((upto 11).map fun u => ((upto 4).map fun x =>
    (all.filter fun r => recF r 4 2 = c && recF r 3 1 = u && recF r 6 1 = x).flatten).flatten)).flatten).flatten

/-- The slices that a request names have completed. -/
def slicesDone (s : State) (ids : List Nat) : Bool :=
  (upto 4).all fun d => (dispOf s d).rmu.all fun e => !ids.contains e.2.slid

/-- MANIFEST: up to 256 pairs (STAT 3 beyond); the report once the slices named have completed. -/
def execManifest (s : State) : Outcome State Fault Refusal :=
  serveCmd 5 false (fun fn b s =>
    let p := reqPart fn b
    let n := Config.bodyNat b 1
    let ids := bodyList b 3000 (Config.bodyNat b 2 % 1024)
    if !(partOf s p).valid || 256 < n then respond fn 3 [] s
    else if !slicesDone s ids then
      { s with host := { s.host with doorbells := s.host.doorbells.tail ++ [fn] }, rot := { s.rot with ready := s.now + 4096 } }
    else
      match declared s p ((upto n).map fun i => (Config.bodyNat b (200 + 2 * i), Config.bodyNat b (201 + 2 * i))) with
      | none => respond fn 3 [] s
      | some l =>
        let recs := if Config.bodyNat b 3 % 2 = 1 then streamRecords s p (runStart s p ids) else []
        sendReport fn p 2 (reqNonce b) (Config.sm3 (l ++ recs)).toNat s) s

/-- PROGREG: a team code range is measured. -/
def execProgreg (s : State) : Outcome State Fault Refusal :=
  serveCmd 6 false (fun fn b s =>
    let p := reqPart fn b
    let va := Config.bodyNat b 1
    let n := Config.bodyNat b 2
    match (dieRead s 0 p va n).1 with
    | .error _ => respond fn 3 [] s
    | .ok l =>
      if !(partOf s p).valid then respond fn 3 [] s
      else respond fn 0 [] (modPart (measureImage p l s) p fun q => { q with codeRanges := q.codeRanges ++ [(wd va, wd n)] })) s

/-! Debug, counters, firmware, recovery. -/

/-- A core of a sealed partition: of its core set, or by the bound team (spec/01_device.md R18). -/
def sealedCore (s : State) (c : Nat) : Bool :=
  ((coreOf s c).team.isSome && (partOf s (corePart s c)).isSealed) ||
    (upto 8).any fun p => (partOf s p).valid && (partOf s p).isSealed && (partOf s p).cores.getLsbD c

/-- DEBUG: 0 stop, 1 resume, 2 read, 3 write. State is served only of a stopped core, and of a sealed partition's core not at all. A
read answers a buffer's worth of the dump, from item 3 on; a write puts the bytes of items 5000 and on, as many as item 4 says, at that offset
of it. -/
def execDebugCmd (s : State) : Outcome State Fault Refusal :=
  serveCmd 7 true (fun fn b s =>
    let c := Config.bodyNat b 1 % 128
    let k := coreOf s c
    let shut := sealedCore s c || !k.stopped
    match Config.bodyNat b 2 % 4 with
    | 0 => respond fn 0 [] (if k.stopped then s else debugStop c 1 s)
    | 1 => respond fn 0 [] (debugResume c s)
    | 2 => if shut then respond fn 3 [] s else respond fn 0 (((dumpCore s c).drop (Config.bodyNat b 3)).take 4088) s
    | _ =>
      if shut then respond fn 3 [] s
      else
        respond fn 0 [] (dumpPut c (putBuf (Config.bodyNat b 3)
          ((upto (Config.bodyNat b 4 % 4096)).map fun i => BitVec.ofNat 8 (Config.bodyNat b (5000 + i))) (dumpCore s c)) s)) s

/-- HSSREAD: the value and LAST of a counter in the partition's range. -/
def execHssread (s : State) : Outcome State Fault Refusal :=
  serveCmd 8 false (fun fn b s =>
    let p := reqPart fn b
    let i := Config.bodyNat b 1 % 2^16
    let d := Config.bodyNat b 2 % 4
    if !(partOf s p).valid || !hssInRange s p i then respond fn 3 [] s
    else
      let v := if hssPoisoned s d i then Config.freeWord s.free else i64 (hssGet s d i)
      respond fn 0 (natBytes 8 v.toNat ++ natBytes 4 (tget (dieOf s d).hssLast i 0).toNat) { s with free := s.free + 1 }) s

/-- FWLOAD: the image is in force if its signature verifies. -/
def execFwload (s : State) : Outcome State Fault Refusal :=
  serveCmd 9 true (fun fn b s =>
    if Config.fwOk b then respond fn 0 [] { s with rot := { s.rot with fw := b } } else respond fn 4 [] s) s

/-- RECOVER. -/
def execRecover (s : State) : Outcome State Fault Refusal := serveCmd 10 true (fun fn _ s => respond fn 0 [] (askRecovery s)) s

/-- UNKNOWN_COMMAND: STAT 1 and no effect. -/
def execUnknownCommand (s : State) : Outcome State Fault Refusal :=
  match s.host.doorbells with
  | [] => .next s
  | fn :: _ => .next (if rotRow s = some .unknownCommand then respond fn 1 [] s else s)

end Sys2Proof.Machine
end

