-- ==== Sys2Proof/Machine/Dispatch.lean ====
section
/-! DEFINITION. The dispatch from an instruction, engine word, Grailo op or event to its meaning. -/

namespace Sys2Proof.Machine

open Host (Outcome)

def exec (i : Instr) (s : State) : Host.Outcome State Fault Refusal :=
  match i with
  | .add w => Sys2Proof.Machine.execAdd w s
  | .sub w => Sys2Proof.Machine.execSub w s
  | .and w => Sys2Proof.Machine.execAnd w s
  | .or w => Sys2Proof.Machine.execOr w s
  | .xor w => Sys2Proof.Machine.execXor w s
  | .andn w => Sys2Proof.Machine.execAndn w s
  | .shl w => Sys2Proof.Machine.execShl w s
  | .shr w => Sys2Proof.Machine.execShr w s
  | .sra w => Sys2Proof.Machine.execSra w s
  | .rol w => Sys2Proof.Machine.execRol w s
  | .mul w => Sys2Proof.Machine.execMul w s
  | .mulh w => Sys2Proof.Machine.execMulh w s
  | .mulhu w => Sys2Proof.Machine.execMulhu w s
  | .madd w => Sys2Proof.Machine.execMadd w s
  | .div w => Sys2Proof.Machine.execDiv w s
  | .divu w => Sys2Proof.Machine.execDivu w s
  | .rem w => Sys2Proof.Machine.execRem w s
  | .remu w => Sys2Proof.Machine.execRemu w s
  | .min w => Sys2Proof.Machine.execMin w s
  | .max w => Sys2Proof.Machine.execMax w s
  | .minu w => Sys2Proof.Machine.execMinu w s
  | .maxu w => Sys2Proof.Machine.execMaxu w s
  | .clz w => Sys2Proof.Machine.execClz w s
  | .ctz w => Sys2Proof.Machine.execCtz w s
  | .popc w => Sys2Proof.Machine.execPopc w s
  | .sext w => Sys2Proof.Machine.execSext w s
  | .zext w => Sys2Proof.Machine.execZext w s
  | .bswap w => Sys2Proof.Machine.execBswap w s
  | .addi w => Sys2Proof.Machine.execAddi w s
  | .andi w => Sys2Proof.Machine.execAndi w s
  | .ori w => Sys2Proof.Machine.execOri w s
  | .xori w => Sys2Proof.Machine.execXori w s
  | .shli w => Sys2Proof.Machine.execShli w s
  | .shri w => Sys2Proof.Machine.execShri w s
  | .srai w => Sys2Proof.Machine.execSrai w s
  | .roli w => Sys2Proof.Machine.execRoli w s
  | .muli w => Sys2Proof.Machine.execMuli w s
  | .ldi w => Sys2Proof.Machine.execLdi w s
  | .ldhi w => Sys2Proof.Machine.execLdhi w s
  | .cmp w => Sys2Proof.Machine.execCmp w s
  | .cmpi w => Sys2Proof.Machine.execCmpi w s
  | .plogAnd w => Sys2Proof.Machine.execPlogAnd w s
  | .plogOr w => Sys2Proof.Machine.execPlogOr w s
  | .plogXor w => Sys2Proof.Machine.execPlogXor w s
  | .plogAndn w => Sys2Proof.Machine.execPlogAndn w s
  | .plogOrn w => Sys2Proof.Machine.execPlogOrn w s
  | .plogNand w => Sys2Proof.Machine.execPlogNand w s
  | .plogNor w => Sys2Proof.Machine.execPlogNor w s
  | .plogXnor w => Sys2Proof.Machine.execPlogXnor w s
  | .pset w => Sys2Proof.Machine.execPset w s
  | .pget w => Sys2Proof.Machine.execPget w s
  | .sel w => Sys2Proof.Machine.execSel w s
  | .mfc w => Sys2Proof.Machine.execMfc w s
  | .mtc w => Sys2Proof.Machine.execMtc w s
  | .ld w => Sys2Proof.Machine.execLd w s
  | .st w => Sys2Proof.Machine.execSt w s
  | .ldx w => Sys2Proof.Machine.execLdx w s
  | .stx w => Sys2Proof.Machine.execStx w s
  | .ldg w => Sys2Proof.Machine.execLdg w s
  | .atomAdd w => Sys2Proof.Machine.execAtomAdd w s
  | .atomAnd w => Sys2Proof.Machine.execAtomAnd w s
  | .atomOr w => Sys2Proof.Machine.execAtomOr w s
  | .atomXor w => Sys2Proof.Machine.execAtomXor w s
  | .atomMin w => Sys2Proof.Machine.execAtomMin w s
  | .atomMax w => Sys2Proof.Machine.execAtomMax w s
  | .atomMinu w => Sys2Proof.Machine.execAtomMinu w s
  | .atomMaxu w => Sys2Proof.Machine.execAtomMaxu w s
  | .atomSwap w => Sys2Proof.Machine.execAtomSwap w s
  | .atomCas w => Sys2Proof.Machine.execAtomCas w s
  | .pref w => Sys2Proof.Machine.execPref w s
  | .bpref w => Sys2Proof.Machine.execBpref w s
  | .br w => Sys2Proof.Machine.execBr w s
  | .jmp w => Sys2Proof.Machine.execJmp w s
  | .call w => Sys2Proof.Machine.execCall w s
  | .jmpr w => Sys2Proof.Machine.execJmpr w s
  | .callr w => Sys2Proof.Machine.execCallr w s
  | .semAdd w => Sys2Proof.Machine.execSemAdd w s
  | .semWait w => Sys2Proof.Machine.execSemWait w s
  | .semTry w => Sys2Proof.Machine.execSemTry w s
  | .semRd w => Sys2Proof.Machine.execSemRd w s
  | .semSet w => Sys2Proof.Machine.execSemSet w s
  | .sig w => Sys2Proof.Machine.execSig w s
  | .barArr w => Sys2Proof.Machine.execBarArr w s
  | .barWait w => Sys2Proof.Machine.execBarWait w s
  | .tbarArr w => Sys2Proof.Machine.execTbarArr w s
  | .tbarExp w => Sys2Proof.Machine.execTbarExp w s
  | .tbarWait w => Sys2Proof.Machine.execTbarWait w s
  | .twaitf w => Sys2Proof.Machine.execTwaitf w s
  | .twaite w => Sys2Proof.Machine.execTwaite w s
  | .tsetf w => Sys2Proof.Machine.execTsetf w s
  | .tsete w => Sys2Proof.Machine.execTsete w s
  | .qwaitf w => Sys2Proof.Machine.execQwaitf w s
  | .qwaite w => Sys2Proof.Machine.execQwaite w s
  | .qpush w => Sys2Proof.Machine.execQpush w s
  | .qpop w => Sys2Proof.Machine.execQpop w s
  | .qcfg w => Sys2Proof.Machine.execQcfg w s
  | .lnchMe w => Sys2Proof.Machine.execLnchMe w s
  | .lnchVe w => Sys2Proof.Machine.execLnchVe w s
  | .cpy w => Sys2Proof.Machine.execCpy w s
  | .spawn w => Sys2Proof.Machine.execSpawn w s
  | .spawnTake w => Sys2Proof.Machine.execSpawnTake w s
  | .hstep w => Sys2Proof.Machine.execHstep w s
  | .hwait w => Sys2Proof.Machine.execHwait w s
  | .hqry w => Sys2Proof.Machine.execHqry w s
  | .nop w => Sys2Proof.Machine.execNop w s
  | .exit w => Sys2Proof.Machine.execExit w s
  | .yield w => Sys2Proof.Machine.execYield w s
  | .mark w => Sys2Proof.Machine.execMark w s
  | .wfe w => Sys2Proof.Machine.execWfe w s
  | .sev w => Sys2Proof.Machine.execSev w s
  | .trapWord w => Sys2Proof.Machine.execTrapWord w s
  | .eret w => Sys2Proof.Machine.execEret w s
  | .uiret w => Sys2Proof.Machine.execUiret w s
  | .ret w => Sys2Proof.Machine.execRet w s
  | .fenceFull w => Sys2Proof.Machine.execFenceFull w s
  | .fenceAcq w => Sys2Proof.Machine.execFenceAcq w s
  | .fenceRel w => Sys2Proof.Machine.execFenceRel w s
  | .fenceEng w => Sys2Proof.Machine.execFenceEng w s
  | .bkpt w => Sys2Proof.Machine.execBkpt w s
  | .tlbinv w => Sys2Proof.Machine.execTlbinv w s
  | .cacheInv w => Sys2Proof.Machine.execCacheInv w s
  | .cacheClean w => Sys2Proof.Machine.execCacheClean w s
  | .cacheFlush w => Sys2Proof.Machine.execCacheFlush w s
  | .cacheInvall w => Sys2Proof.Machine.execCacheInvall w s
  | .cacheCleanall w => Sys2Proof.Machine.execCacheCleanall w s
  | .enop w => Sys2Proof.Machine.execEnop w s
  | .eend w => Sys2Proof.Machine.execEend w s
  | .emark w => Sys2Proof.Machine.execEmark w s
  | .waitf w => Sys2Proof.Machine.execWaitf w s
  | .waite w => Sys2Proof.Machine.execWaite w s
  | .setf w => Sys2Proof.Machine.execSetf w s
  | .sete w => Sys2Proof.Machine.execSete w s
  | .qpope w => Sys2Proof.Machine.execQpope w s
  | .qpushe w => Sys2Proof.Machine.execQpushe w s
  | .esem w => Sys2Proof.Machine.execEsem w s
  | .tpld w => Sys2Proof.Machine.execTpld w s
  | .lexit w => Sys2Proof.Machine.execLexit w s
  | .efence w => Sys2Proof.Machine.execEfence w s
  | .vadd w => Sys2Proof.Machine.execVadd w s
  | .vsub w => Sys2Proof.Machine.execVsub w s
  | .vmul w => Sys2Proof.Machine.execVmul w s
  | .vfma w => Sys2Proof.Machine.execVfma w s
  | .vfms w => Sys2Proof.Machine.execVfms w s
  | .vfnma w => Sys2Proof.Machine.execVfnma w s
  | .vmin w => Sys2Proof.Machine.execVmin w s
  | .vmax w => Sys2Proof.Machine.execVmax w s
  | .vabs w => Sys2Proof.Machine.execVabs w s
  | .vneg w => Sys2Proof.Machine.execVneg w s
  | .vdiv w => Sys2Proof.Machine.execVdiv w s
  | .vsqrt w => Sys2Proof.Machine.execVsqrt w s
  | .vrcp w => Sys2Proof.Machine.execVrcp w s
  | .vrsq w => Sys2Proof.Machine.execVrsq w s
  | .vand w => Sys2Proof.Machine.execVand w s
  | .vor w => Sys2Proof.Machine.execVor w s
  | .vxor w => Sys2Proof.Machine.execVxor w s
  | .vshl w => Sys2Proof.Machine.execVshl w s
  | .vshr w => Sys2Proof.Machine.execVshr w s
  | .vsra w => Sys2Proof.Machine.execVsra w s
  | .vmulh w => Sys2Proof.Machine.execVmulh w s
  | .vcmp w => Sys2Proof.Machine.execVcmp w s
  | .vsel w => Sys2Proof.Machine.execVsel w s
  | .vclass w => Sys2Proof.Machine.execVclass w s
  | .vcvt w => Sys2Proof.Machine.execVcvt w s
  | .vqmx w => Sys2Proof.Machine.execVqmx w s
  | .vdqmx w => Sys2Proof.Machine.execVdqmx w s
  | .vpack w => Sys2Proof.Machine.execVpack w s
  | .vunpk w => Sys2Proof.Machine.execVunpk w s
  | .vrsum w => Sys2Proof.Machine.execVrsum w s
  | .vrmax w => Sys2Proof.Machine.execVrmax w s
  | .vrmin w => Sys2Proof.Machine.execVrmin w s
  | .vscan w => Sys2Proof.Machine.execVscan w s
  | .vperm w => Sys2Proof.Machine.execVperm w s
  | .vbcast w => Sys2Proof.Machine.execVbcast w s
  | .vslide w => Sys2Proof.Machine.execVslide w s
  | .vmov w => Sys2Proof.Machine.execVmov w s
  | .vldi w => Sys2Proof.Machine.execVldi w s
  | .vtint w => Sys2Proof.Machine.execVtint w s
  | .vtld w => Sys2Proof.Machine.execVtld w s
  | .vld w => Sys2Proof.Machine.execVld w s
  | .vst w => Sys2Proof.Machine.execVst w s
  | .vlds w => Sys2Proof.Machine.execVlds w s
  | .vsts w => Sys2Proof.Machine.execVsts w s
  | .vgath w => Sys2Proof.Machine.execVgath w s
  | .vscat w => Sys2Proof.Machine.execVscat w s
  | .vldt w => Sys2Proof.Machine.execVldt w s
  | .vstt w => Sys2Proof.Machine.execVstt w s
  | .vldg w => Sys2Proof.Machine.execVldg w s
  | .vstg w => Sys2Proof.Machine.execVstg w s
  | .vdefer w => Sys2Proof.Machine.execVdefer w s
  | .vdrain w => Sys2Proof.Machine.execVdrain w s
  | .vtqry w => Sys2Proof.Machine.execVtqry w s
  | .mand w => Sys2Proof.Machine.execMand w s
  | .mor w => Sys2Proof.Machine.execMor w s
  | .mxor w => Sys2Proof.Machine.execMxor w s
  | .mnot w => Sys2Proof.Machine.execMnot w s
  | .mpopc w => Sys2Proof.Machine.execMpopc w s
  | .vmbxRead w => Sys2Proof.Machine.execVmbxRead w s
  | .vmbxWrite w => Sys2Proof.Machine.execVmbxWrite w s
  | .mma w => Sys2Proof.Machine.execMma w s
  | .mdrn w => Sys2Proof.Machine.execMdrn w s
  | .mdrnp w => Sys2Proof.Machine.execMdrnp w s
  | .macld w => Sys2Proof.Machine.execMacld w s
  | .mclr w => Sys2Proof.Machine.execMclr w s
  | .mcoma w => Sys2Proof.Machine.execMcoma w s
  | .grailoEnd => Sys2Proof.Machine.execGrailoEnd s
  | .grailoAdd w => Sys2Proof.Machine.execGrailoAdd w s
  | .grailoSub w => Sys2Proof.Machine.execGrailoSub w s
  | .grailoAnd w => Sys2Proof.Machine.execGrailoAnd w s
  | .grailoOr w => Sys2Proof.Machine.execGrailoOr w s
  | .grailoXor w => Sys2Proof.Machine.execGrailoXor w s
  | .grailoAddi w => Sys2Proof.Machine.execGrailoAddi w s
  | .grailoShli w => Sys2Proof.Machine.execGrailoShli w s
  | .grailoShri w => Sys2Proof.Machine.execGrailoShri w s
  | .grLdk w => Sys2Proof.Machine.execGrLdk w s
  | .grLdm w => Sys2Proof.Machine.execGrLdm w s
  | .grStm w => Sys2Proof.Machine.execGrStm w s
  | .grBrz w => Sys2Proof.Machine.execGrBrz w s
  | .grBrnz w => Sys2Proof.Machine.execGrBrnz w s
  | .grLoop w => Sys2Proof.Machine.execGrLoop w s
  | .grEmit w => Sys2Proof.Machine.execGrEmit w s
  | .grFault w => Sys2Proof.Machine.execGrFault w s
  | .landing w => Sys2Proof.Machine.execLanding w s
  | .shutterPublish w => Sys2Proof.Machine.execShutterPublish w s
  | .selChange w => Sys2Proof.Machine.execSelChange w s
  | .publishAck w => Sys2Proof.Machine.execPublishAck w s
  | .logResponse w => Sys2Proof.Machine.execLogResponse w s
  | .bprefComplete w => Sys2Proof.Machine.execBprefComplete w s
  | .sigApply w => Sys2Proof.Machine.execSigApply w s
  | .hssEngineUpdate w => Sys2Proof.Machine.execHssEngineUpdate w s
  | .knock w => Sys2Proof.Machine.execKnock w s
  | .packageRecovery w => Sys2Proof.Machine.execPackageRecovery w s
  | .flitTransmit w => Sys2Proof.Machine.execFlitTransmit w s
  | .relayForward w => Sys2Proof.Machine.execRelayForward w s
  | .msixModeration w => Sys2Proof.Machine.execMsixModeration w s
  | .budgetPeriodEnd w => Sys2Proof.Machine.execBudgetPeriodEnd w s
  | .remoteRequest w => Sys2Proof.Machine.execRemoteRequest w s
  | .remoteResponse w => Sys2Proof.Machine.execRemoteResponse w s
  | .endToEndArrival w => Sys2Proof.Machine.execEndToEndArrival w s
  | .mbdoor w => Sys2Proof.Machine.execMbdoor w s
  | .resultWritten => Sys2Proof.Machine.execResultWritten s
  | .kStep => Sys2Proof.Machine.execKStep s
  | .rowFold => Sys2Proof.Machine.execRowFold s
  | .commit => Sys2Proof.Machine.execCommit s
  | .macldRow => Sys2Proof.Machine.execMacldRow s
  | .launchStart => Sys2Proof.Machine.execLaunchStart s
  | .levelEntry => Sys2Proof.Machine.execLevelEntry s
  | .iterationMark => Sys2Proof.Machine.execIterationMark s
  | .launchEnd => Sys2Proof.Machine.execLaunchEnd s
  | .engf => Sys2Proof.Machine.execEngf s
  | .acceptance => Sys2Proof.Machine.execAcceptance s
  | .automaticMark => Sys2Proof.Machine.execAutomaticMark s
  | .budgetTrap => Sys2Proof.Machine.execBudgetTrap s
  | .scyStopat => Sys2Proof.Machine.execScyStopat s
  | .watchdog => Sys2Proof.Machine.execWatchdog s
  | .parityAlarm => Sys2Proof.Machine.execParityAlarm s
  | .protocolAlarm => Sys2Proof.Machine.execProtocolAlarm s
  | .eclipse => Sys2Proof.Machine.execEclipse s
  | .rotationEclipse => Sys2Proof.Machine.execRotationEclipse s
  | .coreReset => Sys2Proof.Machine.execCoreReset s
  | .dieReset => Sys2Proof.Machine.execDieReset s
  | .powerOnReset => Sys2Proof.Machine.execPowerOnReset s
  | .ceLin => Sys2Proof.Machine.execCeLin s
  | .ceBox => Sys2Proof.Machine.execCeBox s
  | .ceCvt => Sys2Proof.Machine.execCeCvt s
  | .ceWin => Sys2Proof.Machine.execCeWin s
  | .ceFill => Sys2Proof.Machine.execCeFill s
  | .cePublish => Sys2Proof.Machine.execCePublish s
  | .pfonly => Sys2Proof.Machine.execPfonly s
  | .sectorGroupMark => Sys2Proof.Machine.execSectorGroupMark s
  | .packetCompletion => Sys2Proof.Machine.execPacketCompletion s
  | .slotWaitTimeout => Sys2Proof.Machine.execSlotWaitTimeout s
  | .queueScan => Sys2Proof.Machine.execQueueScan s
  | .allred => Sys2Proof.Machine.execAllred s
  | .redscat => Sys2Proof.Machine.execRedscat s
  | .allgath => Sys2Proof.Machine.execAllgath s
  | .bcast => Sys2Proof.Machine.execBcast s
  | .all2all => Sys2Proof.Machine.execAll2all s
  | .partialArrival => Sys2Proof.Machine.execPartialArrival s
  | .collectiveCompletion => Sys2Proof.Machine.execCollectiveCompletion s
  | .faceFill => Sys2Proof.Machine.execFaceFill s
  | .stripLanding => Sys2Proof.Machine.execStripLanding s
  | .gridLoadTimeout => Sys2Proof.Machine.execGridLoadTimeout s
  | .knockScan => Sys2Proof.Machine.execKnockScan s
  | .reconcilePass => Sys2Proof.Machine.execReconcilePass s
  | .cpSlice => Sys2Proof.Machine.execCpSlice s
  | .cpGraph => Sys2Proof.Machine.execCpGraph s
  | .waitHss => Sys2Proof.Machine.execWaitHss s
  | .waitMemory => Sys2Proof.Machine.execWaitMemory s
  | .signalHss => Sys2Proof.Machine.execSignalHss s
  | .signalMemory => Sys2Proof.Machine.execSignalMemory s
  | .cpChain => Sys2Proof.Machine.execCpChain s
  | .launchNop => Sys2Proof.Machine.execLaunchNop s
  | .cpCustom => Sys2Proof.Machine.execCpCustom s
  | .memoryWaitReread => Sys2Proof.Machine.execMemoryWaitReread s
  | .sliceHandover => Sys2Proof.Machine.execSliceHandover s
  | .crewBind => Sys2Proof.Machine.execCrewBind s
  | .quantumExpiry => Sys2Proof.Machine.execQuantumExpiry s
  | .budgetExhausted => Sys2Proof.Machine.execBudgetExhausted s
  | .sliceComplete => Sys2Proof.Machine.execSliceComplete s
  | .pcreate => Sys2Proof.Machine.execPcreate s
  | .pdestroy => Sys2Proof.Machine.execPdestroy s
  | .importBlob => Sys2Proof.Machine.execImportBlob s
  | .attest => Sys2Proof.Machine.execAttest s
  | .manifest => Sys2Proof.Machine.execManifest s
  | .progreg => Sys2Proof.Machine.execProgreg s
  | .debugCmd => Sys2Proof.Machine.execDebugCmd s
  | .hssread => Sys2Proof.Machine.execHssread s
  | .fwload => Sys2Proof.Machine.execFwload s
  | .recover => Sys2Proof.Machine.execRecover s
  | .unknownCommand => Sys2Proof.Machine.execUnknownCommand s
  | .traceRecordWrite => Sys2Proof.Machine.execTraceRecordWrite s
  | .requestAcknowledged => Sys2Proof.Machine.execRequestAcknowledged s
  | .pageWalk w => Sys2Proof.Machine.execPageWalk w s
  | .fqretRetire w => Sys2Proof.Machine.execFqretRetire w s
  | .fqretFail w => Sys2Proof.Machine.execFqretFail w s
  | .hostRequest w => Sys2Proof.Machine.execHostRequest w s
  | .cxlMemAccess w => Sys2Proof.Machine.execCxlMemAccess w s
  | .hssScrub w => Sys2Proof.Machine.execHssScrub w s
  | .spScrub w => Sys2Proof.Machine.execSpScrub w s
  | .conjunctionBoundary w => Sys2Proof.Machine.execConjunctionBoundary w s
  | .conjunctionHeader w => Sys2Proof.Machine.execConjunctionHeader w s
  | .flitReceive w => Sys2Proof.Machine.execFlitReceive w s
  | .linkNak w => Sys2Proof.Machine.execLinkNak w s
  | .lossOfLight w => Sys2Proof.Machine.execLossOfLight w s
  | .restripeMarker w => Sys2Proof.Machine.execRestripeMarker w s
  | .bankRetired w => Sys2Proof.Machine.execBankRetired w s
  | .portLive w => Sys2Proof.Machine.execPortLive w s
  | .bindRecord w => Sys2Proof.Machine.execBindRecord w s
  | .bindExtend w => Sys2Proof.Machine.execBindExtend w s
  | .bindCancel w => Sys2Proof.Machine.execBindCancel w s
  | .eqhead w => Sys2Proof.Machine.execEqhead w s
  | .powerCompare w => Sys2Proof.Machine.execPowerCompare w s
  | .pwrcap w => Sys2Proof.Machine.execPwrcap w s
  | .i3cRequest w => Sys2Proof.Machine.execI3cRequest w s
  | .fetchBlockFill w => Sys2Proof.Machine.execFetchBlockFill w s
  | .peeridWrite w => Sys2Proof.Machine.execPeeridWrite w s
  | .shutterEntryWrite w => Sys2Proof.Machine.execShutterEntryWrite w s
  | .queueRegistration w => Sys2Proof.Machine.execQueueRegistration w s
  | .hostSnoop w => Sys2Proof.Machine.execHostSnoop w s
  | .tdispRequest w => Sys2Proof.Machine.execTdispRequest w s
  | .bar0Write w => Sys2Proof.Machine.execBar0Write w s

end Sys2Proof.Machine
end

