-- ==== Sys2Proof/Machine/Agenda.lean ====
section
/-! DEFINITION. What the machine does next: which unit acts in which cycle (spec/01_device.md R9 to R14), and what its own next action
is. One step takes an input, a consequence of the last action, or the action that is due first (log 2). -/

namespace Sys2Proof.Machine

open Host (Outcome)

/-- An action that is due in a cycle; `rank` orders the actions of one cycle (R14). -/
structure Due where
  at_ : Nat
  rank : Nat
  ev : Sched

/-- Kinds in the order of R14; landings and period ends come before every request of their cycle. -/
def rankOf (a : Agent) : Nat :=
  match a with
  | .ctx c x => 1000 + 200 * ctxNum x + c.toNat
  | .me c => 1600 + c.toNat
  | .ve c => 1800 + c.toNat
  | .ce c => 2000 + c.toNat
  | .he d => 2200 + d.toNat
  | .xe d => 2300 + d.toNat
  | .cp d => 2400 + d.toNat
  | .mgmt d => 2450 + d.toNat
  | .hss d => 2480 + d.toNat
  | .dispatch d => 2500 + d.toNat
  | .l2dir d => 2600 + d.toNat
  | .rot => 2700
  | .bridge => 2800
  | .ports => 2900
  | .alwaysOn => 8000

/-- A row of an agent, before the requests of its cycle. -/
def landing (t : Nat) (a : Agent) (i : Instr) : Due := ⟨t, 0, ⟨a, some i⟩⟩
/-- A row of an agent. -/
def dueRow (t : Nat) (a : Agent) (i : Instr) : Due := ⟨t, rankOf a, ⟨a, some i⟩⟩
/-- An agent's own next action. -/
def dueOwn (t : Nat) (a : Agent) : Due := ⟨t, rankOf a, ⟨a, none⟩⟩

/-- The earlier of two: what is overdue is due now. -/
def earlier (now : Nat) (x y : Due) : Due :=
  let a := max now x.at_
  let b := max now y.at_
  if b < a || (a = b && decide (y.rank < x.rank)) then y else x

/-- The first of a list. -/
def firstDue (now : Nat) (l : List Due) : Option Due :=
  match l with
  | [] => none
  | x :: r =>
    match firstDue now r with
    | none => some x
    | some y => some (earlier now x y)

/-- The cycle, if any, as an action. -/
def whenSome (t : Option Nat) (f : Nat → Due) : List Due :=
  match t with
  | some n => [f n]
  | none => []

/-! Contexts. -/

/-- Cycles of the results that no earlier result of the same register keeps from being written (spec/03_encoding.md R58). -/
def pendTimes (l : List Pend) (seen : List Nat) : List Nat :=
  match l with
  | [] => []
  | p :: r =>
    if seen.contains p.dst then pendTimes r seen
    else if p.await.isSome then pendTimes r (p.dst :: seen) else p.due :: pendTimes r (p.dst :: seen)

/-- What a context has due: results, acknowledgements, its next word unless the core is `held`. -/
def ctxDue (s : State) (held : Bool) (c : Nat) (x : CtxSel) : List Due :=
  let y := ctxOf s c x
  let a : Agent := .ctx (BitVec.ofNat 7 c) x
  whenSome (leastOf (pendTimes y.pend [])) (fun t => landing t a .resultWritten) ++
    whenSome (y.accept.map (·.at_)) (fun t => landing t a .resultWritten) ++
    whenSome (leastOf (y.reqs.filterMap fun r => r.due)) (fun t => landing t a .requestAcknowledged) ++
    whenSome (limitAt { s with cur := a } (corePart s c) y) (fun t => ⟨t, 8500, ⟨a, some .budgetTrap⟩⟩) ++
    (if y.live && !held then [dueOwn (if y.rests && (boundaryRow { s with cur := a }).isSome then s.now else y.ready) a] else [])

/-- The trap at a word that its peer, or the store of another die, refused (spec/15_fabric.md R331, spec/12_semaphores.md R263). -/
def refusedTrap (pc va : Word) (code : Nat) (s : State) : State :=
  takeTrap code va (modCur (endWait s) fun x => { x with pc := pc, refused := none })

/-- A context that acts goes on: its handler's wait for earlier results and its rest are over, and so is, in a later cycle, its team's
YIELD (spec/04_contexts.md R100). -/
def goOn (s : State) : State :=
  let t := match (coreOf s (curCore s)).yieldAt with
    | some n => if n < s.now then modCore s (curCore s) fun k => { k with yieldAt := none } else s
    | none => s
  if (curCtx s).drain || (curCtx s).rests then modCur t fun x => { x with drain := false, rests := false } else t

/-- The context's next action: the trap of a refused load, the wait of a handler for earlier results (spec/03_encoding.md R60), an event at
its boundary, else the word at its pc (R46, R53, spec/04_contexts.md R106). -/
def ctxAct (ex : Instr → State → Outcome State Fault Refusal) (s0 : State) : Outcome State Fault Refusal :=
  let x := curCtx s0
  match x.refused with
  | some (pc, va, code) => .next (refusedTrap pc va code s0)
  | none =>
    if x.drain && x.pend.any (fun p => p.await.isSome) then .next (modCur s0 fun y => { y with ready := s0.now + 1 })
    else
      let s := goOn s0
      match boundaryRow s with
      | some i => ex i s
      | none =>
        match fetchWord s with
        | .error e => .next (stopped e s)
        | .ok (w, t) =>
          match decodeD w with
          | some i => ex i t
          | none => .next (takeTrap tILLOP (wd w) t)

/-! Engines. -/

/-- Cycles of the vector engine's results that no earlier result of the same place keeps from being written. -/
def vpendTimes (l : List VPend) (seen : List VPend) : List Nat :=
  match l with
  | [] => []
  | p :: r => if seen.any (fun e => sameDst e p) then vpendTimes r seen else p.due :: vpendTimes r (p :: seen)

/-- The watchdog of a launch engine: a mark of its cycle comes first (spec/18_recovery.md R383, R384). -/
def engWatch (s : State) (c : Nat) (e : EngSel) : List Due :=
  let q := seqrOf s c e
  if q.running && !q.heldImage && !q.waiting.any idleWait then [dueRow (q.wdFrom + q.wdIdle + 131072) (engAgent c e) .watchdog] else []

/-- What an engine's sequencer has due: the start of a launch, or its next word, entry, mark or end. -/
def seqDue (s : State) (c : Nat) (e : EngSel) : List Due :=
  let q := seqrOf s c e
  let a := engAgent c e
  if q.heldImage then []
  else if q.running || !q.puts.isEmpty then [dueOwn q.ready a]
  else if q.count = 0 || engfPending s c e then []
  else [dueOwn q.ready a]

/-- What a matrix engine has due besides. -/
def meDue (s : State) (c : Nat) : List Due :=
  let m := (coreOf s c).me
  let a : Agent := .me (BitVec.ofNat 7 c)
  whenSome (leastOf (m.mbxPend.map fun p => p.2.2)) (fun t => landing t a .resultWritten) ++
    whenSome (leastOf (m.closing.map fun e => e.2)) (fun t => landing t a .resultWritten) ++
    whenSome (m.mma.head?.map (·.due)) (fun t => dueRow t a .kStep) ++
    whenSome (m.drain.map fun j => if j.row < 64 then j.start + 4 + j.row else j.start + 72)
      (fun t => dueRow t a (match m.drain with
        | some j => if j.row < 64 then .rowFold else .commit
        | none => .rowFold)) ++
    whenSome (m.load.map fun j => j.start + 4 + j.row) (fun t => dueRow t a .macldRow)

/-- What a vector engine has due besides. -/
def veDue (s : State) (c : Nat) : List Due :=
  whenSome (leastOf (vpendTimes (coreOf s c).ve.pend [])) fun t => landing t (.ve (BitVec.ofNat 7 c)) .resultWritten

/-- An engine's next action: a word follows the F and L flags (spec/03_encoding.md R71); one that does not decode is a fault. -/
def engAct (ex : Instr → State → Outcome State Fault Refusal) (c : Nat) (e : EngSel) (s : State) : Outcome State Fault Refusal :=
  let t := if (seqrOf s c e).running && (seqrOf s c e).phase == .body then seek c e s else s
  if (seqrOf t c e).running && passing (lvlsOf t c e) (seqrOf t c e) then .next t
  else
  match engRow t c e with
  | some i => ex i t
  | none => .next (engIllop c e t)

/-! Copy engines. -/

/-- The row of a kind of packet: 1 to 7 (spec/13_copy.md R284). -/
def ceKindRow (k : Nat) : Instr :=
  match k with
  | 1 => .ceLin
  | 2 => .ceBox
  | 3 => .ceCvt
  | 4 => .ceWin
  | 5 => .ceFill
  | 6 => .cePublish
  | 7 => .pfonly
  | _ => .queueScan

/-- What a copy engine does next; none while it waits for an answer or a retirement. -/
def ceNextRow (s : State) (c : Nat) : Option Instr :=
  match (ceOf s c).job with
  | some j =>
    let kind := ceKindRow (rowOfKind j.kind (j.f 1 1))
    let quiet := j.outs.isEmpty && j.rd.isNone
    if j.held then none
    else if j.fin.isSome then some .packetCompletion
    else if j.start then some kind
    else if j.reload then some (if j.stage = 0 then kind else .packetCompletion)
    else if j.stage != 0 then (if j.stage = 2 && j.flag 1 && (j.asked || cePublishing s c j) then none else some .packetCompletion)
    else if j.refused.isSome then (if quiet then some .sectorGroupMark else none)
    else if j.flag 4 && j.slot.isNone then
      some (if j.limit != 0 && decide (j.limit < s.now - j.since) then .slotWaitTimeout else kind)
    else if j.rd.isSome then none
    else if (j.kind = 6 && j.shut.isNone) || j.moving j.groupEnd then some kind
    else if j.outs.isEmpty then some .sectorGroupMark
    else none
  | none =>
    match nextReady s c !(ceOf s c).fresh with
    | some (_, q, d) => some (ceKindRow (readyRow s c q d))
    | none => if (ceOf s c).fresh then some .queueScan else none

/-- What a copy engine has due: its next action, a scan of its queues (spec/13_copy.md R281), the watchdog. -/
def ceDue (s : State) (c : Nat) : List Due :=
  let e := ceOf s c
  let a : Agent := .ce (BitVec.ofNat 7 c)
  (if e.slots.isEmpty then [] else
    (match ceNextRow s c with
      | some i => [dueRow e.ready a i]
      | none => []) ++ [dueRow (e.scan + 2^16) a .queueScan]) ++
    (if e.wd.hold.isNone && watchCounts s a then [dueRow (e.wd.since + 131072) a .watchdog] else [])

/-- A core has no clock: in SLEEP every one, in IDLE one without a team (spec/20_host.md R423). -/
def gatedCore (s : State) (k : CoreSt) : Bool := s.power.mode = 2 || (s.power.mode = 1 && k.team.isNone)

/-- A core's next actions: none of its streams acts while it is stopped (spec/19_observation.md R409), and none issues while its crew
is about to be saved (spec/03_encoding.md R60, spec/04_contexts.md R100). -/
def coreDue (s : State) (c : Nat) : List Due :=
  let k := coreOf s c
  if k.stopped || gatedCore s k then []
  else
    (if k.team.isNone then [] else
      let held := leaving s c
      ctxDue s held c .L ++ ctxDue s held c .C ++ ctxDue s held c .S ++ (if held then [] else seqDue s c .me ++ seqDue s c .ve) ++
        meDue s c ++ veDue s c ++ (if held then [] else engWatch s c .me ++ engWatch s c .ve) ++
        (if k.dbg.getLsbD 2 && decide (k.scyBase < k.stopat.toNat) && decide (scyOf s c ≤ k.stopat.toNat) then
          [landing (s.now + (k.stopat.toNat - scyOf s c)) (.ctx (BitVec.ofNat 7 c) .L) .scyStopat] else [])) ++
      ceDue s c

/-! The units of a die. -/

/-- What a halo engine has due (spec/14_grids.md R309, R310): its open steps and strips, and one that met a full fault queue. -/
def heDue (s : State) (d : Nat) : List Due :=
  let h := (dieOf s d).he
  let a : Agent := .he (BitVec.ofNat 2 d)
  if h.stages.isEmpty && h.strips.isEmpty then []
  else
    (match nextStage s d h.openStages with
      | .ok none => []
      | _ => [dueRow h.ready a .faceFill]) ++
    (match nextStrip s d h.openStrips with
      | .ok none => []
      | _ => [dueRow h.ready a .stripLanding]) ++
    whenSome (leastOf ((h.openStrips.map (·.due)).filter fun t => decide (s.now < t))) (fun t => dueRow (max t h.ready) a .stripLanding) ++
    (if h.full.isEmpty then [] else [dueRow h.ready a .faceFill]) ++
    (if h.wd.hold.isNone then [dueRow (h.wd.since + 131072) a .watchdog] else [])

/-- The row of a kind of collective packet (spec/15_fabric.md R338). -/
def xeKindRow (k : Nat) : Instr :=
  match k with
  | 1 => .allred
  | 2 => .redscat
  | 3 => .allgath
  | 4 => .bcast
  | 5 => .all2all
  | _ => .queueScan

/-- What a collective engine has due. -/
def xeDue (s : State) (d : Nat) : List Due :=
  let e := xeOf s d
  let a : Agent := .xe (BitVec.ofNat 2 d)
  if e.slots.isEmpty && e.jobs.isEmpty then []
  else
    (if (xeReady s d).isSome then [dueRow e.ready a .collectiveCompletion]
      else
        match xeUnsent s d with
        | some j => [dueRow e.ready a (xeKindRow (j.f 0 1))]
        | none =>
          match xeNext s d true with
          | some r => [dueRow e.ready a (xeKindRow (xeKind s d r))]
          | none =>
            match xeStuck s d with
            | some j => [dueRow e.ready a (if j.late then .collectiveCompletion else xeKindRow (j.f 0 1))]
            | none => []) ++
      [dueRow (e.scan + 2^16) a .queueScan] ++
      (if e.wd.hold.isNone && watchCounts s a then [dueRow (e.wd.since + 131072) a .watchdog] else [])

/-- The row of a kind of packet that a command processor decodes: 1 to 9 (spec/16_launch.md R350). -/
def cpKindRow (k : Nat) : Instr :=
  match k with
  | 1 => .cpSlice
  | 2 => .cpGraph
  | 3 => .waitHss
  | 4 => .waitMemory
  | 5 => .signalHss
  | 6 => .signalMemory
  | 7 => .cpChain
  | 8 => .launchNop
  | _ => .cpCustom

/-- The first queue that has something to do: a packet's row, or its program's next op. -/
def cpNextRow (s : State) (d : Nat) : Option Instr :=
  (cpOrder (cpOf s d)).findSome? fun e =>
    match lqRow s d e with
    | some 0 => grNext e.2
    | some k => some (cpKindRow k)
    | none => none

/-- Cycles of the next reads of signals in memory. -/
def rereadTimes (s : State) (d : Nat) : List Nat :=
  (cpOf s d).q.filterMap fun e =>
    match e.2.wait with
    | some (.mem _ _ t) => if e.2.held then none else some t
    | _ => none

/-- What a command processor has due (spec/16_launch.md R347, R350). -/
def cpDue (s : State) (d : Nat) : List Due :=
  let c := cpOf s d
  let a : Agent := .cp (BitVec.ofNat 2 d)
  if s.power.mode = 2 then [] else
  (if c.kvec.isEmpty then [] else [dueRow c.scanReady a .knockScan]) ++
    (match cpNextRow s d with
      | some i => [dueRow c.ready a i]
      | none => []) ++
    (if c.graphs.any (fun g => g.again && !g.held) || (nextLate c).isSome then [dueOwn c.ready a] else []) ++
    whenSome (leastOf (rereadTimes s d)) (fun t => dueRow (max t c.ready) a .memoryWaitReread) ++
    (if c.lqbase = 0 then [] else [dueRow (c.recon + 2^20) a .reconcilePass])

/-- What dispatch has to do now. -/
def dispRow (s : State) (d : Nat) : Option Instr :=
  if !(dispOf s d).pending.isEmpty && (freeEntry s d).isSome then some .sliceHandover
  else if (doneSlice s d).isSome then some .sliceComplete
  else if (budgetOut s d).isSome then some .budgetExhausted
  else if bindDue s d then some .crewBind
  else if (swapDue s d).isSome then some .quantumExpiry
  else none

/-- Teams of a slice whose SCY counts. -/
def sliceRate (s : State) (sl : Slice) : Nat :=
  ((sl.crews.filter fun k => k.2.st = .bound).map fun k => (k.2.cores.filter fun c => !(coreOf s c).stopped).length).foldl (· + ·) 0

/-- When a slice's budget will have been used up, and when a crew's quantum or its team's YIELD ends its turn
(spec/17_scheduling.md R369, R370): the save comes before every word of its cycle. -/
def sliceTimes (s : State) (d : Nat) (sl : Slice) : List Due :=
  let a : Agent := .dispatch (BitVec.ofNat 2 d)
  let n := sliceRate s sl
  let bound := sl.crews.filter fun k => k.2.st = .bound
  (if sl.parked || sl.bstop || n = 0 || decide (sl.eff ≤ usedNow s sl) then []
    else [dueRow (s.now + (sl.eff - usedNow s sl + n - 1) / n) a .budgetExhausted]) ++
    ((bound.filter fun k => decide (heldFor s k.2 < sl.quantum)).map fun k =>
      landing (s.now + (sl.quantum - heldFor s k.2)) a .quantumExpiry) ++
    (if bound.any (fun k => k.2.cores.any fun c => (coreOf s c).yieldAt = some s.now) then [landing (s.now + 1) a .quantumExpiry] else [])

/-- What dispatch has due. -/
def dispDue (s : State) (d : Nat) : List Due :=
  let x := dispOf s d
  let a : Agent := .dispatch (BitVec.ofNat 2 d)
  (if x.puts.isEmpty || x.held then [] else [dueOwn x.ready a]) ++
  if x.rmu.isEmpty && x.pending.isEmpty then []
  else
    match dispRow s d with
    | some .quantumExpiry => [landing s.now a .quantumExpiry]
    | some i => [dueRow s.now a i]
    | none => (x.rmu.map fun e => sliceTimes s d e.2).flatten

/-- What trace has due: the oldest staged record, when a slot may be free for it; the end of a period in which slots were used
(spec/01_device.md R13, spec/19_observation.md R405). -/
def traceDue (s : State) (d : Nat) : List Due :=
  let a : Agent := .l2dir (BitVec.ofNat 2 d)
  (if traceReady s d then [dueRow s.now a .traceRecordWrite]
    else if (dieOf s d).staging.isEmpty || s.now % 4096 = 4095 then [] else [dueRow (s.now / 4096 * 4096 + 4095) a .traceRecordWrite]) ++
    ([Resource.trace (BitVec.ofNat 2 d), .scrub (BitVec.ofNat 2 d)].filterMap fun r =>
      if s.slotsUsed.any fun e => slotRes e.1 = resNum r then some (landing ((s.now / 4096 + 1) * 4096) a (.budgetPeriodEnd ⟨r⟩)) else none)

/-- What the units of a die have due. -/
def dieDue (s : State) (d : Nat) : List Due := heDue s d ++ xeDue s d ++ cpDue s d ++ dispDue s d ++ traceDue s d

/-! Ports and the host link. -/

/-- What a port has to send now (spec/15_fabric.md R322 to R330). -/
def portDue (s : State) (f : Nat) : List Due :=
  let p := portOf s f
  if !portLit s f then []
  else
    let sends : Bool := p.time = 0 || p.marker || p.nak || p.ackOwed || p.ret.any (fun e => e.2 != 0) ||
      (usable p && (decide (0 < p.replay) || (decide (p.retry.length < 1024) && (pickTx s f).isSome)))
    let dest := partner s f p.conj
    let relays := usable p && p.replay = 0 && decide (p.retry.length < 1024) &&
      s.fab.relay.any fun e => e.1.dest == dest && decide (0 < tget p.credit e.2.toNat 0)
    (if sends then [dueRow s.now .ports (.flitTransmit (BitVec.ofNat 6 f))] else []) ++
      (if relays then [dueRow s.now .ports (.relayForward ⟨BitVec.ofNat 6 f, dest⟩)] else [])

/-- The end of the interval in which a queue's records wait for their message (spec/20_host.md R420). -/
def msixDue (s : State) (e : Nat × EvQueue) : List Due :=
  let n := 850 * e.2.mod
  if e.2.en && e.2.unsent && n != 0 then [landing ((s.now / n + 1) * n) .bridge (.msixModeration (BitVec.ofNat 4 e.1))] else []

/-- The arrival of requests at the store of another die, in the place of their issuer among those of its cycle (R14). -/
def farDue (s : State) : List Due := s.farSems.map fun f =>
  ⟨f.due, match f.cp with
    | some (d, _, _) => rankOf (.cp (BitVec.ofNat 2 d))
    | none => rankOf (.ctx (BitVec.ofNat 7 f.core) f.sel), ⟨.hss (BitVec.ofNat 2 f.die), none⟩⟩

/-- Everything that is due. -/
def allDue (s : State) : List Due :=
  farDue s ++ (s.cores.map fun e => coreDue s e.1).flatten ++ (s.dies.map fun e => dieDue s e.1).flatten ++
    (s.fab.ports.map fun e => portDue s e.1).flatten ++ (s.host.evq.map (msixDue s)).flatten ++
    (match rotRow s with
      | some i => [dueRow s.rot.ready .rot i]
      | none => [])

/-- The action that is due first. -/
def nextDue (s : State) : Option Due := firstDue s.now (allDue s)

/-! One step. -/

/-- The answers to the reads that units made of other packages for themselves: what was held for them is tried again (spec/10_pages.md
R241). -/
def farRetry (s : State) : State :=
  let come (e : FarRead) : Bool := e.data.isSome || e.bad
  (s.farReads.filter come).foldl (fun t e => e.held.foldl (freeHeld (BitVec.ofNat 3 e.part) e.va false) t)
    { s with farReads := s.farReads.map fun e => if come e then { e with held := [] } else e }

/-- An agent has acted: the answers that it has used go, unless it still waits for one. -/
def farDone (a : Agent) (s : State) : State :=
  if s.farReads.isEmpty || s.farReads.any (fun e => e.who == a && e.data.isNone && !e.bad) then s
  else { s with farReads := s.farReads.filter fun e => !(e.who == a && e.used) }

/-- An agent's own next action: contexts, launch engines, the store and the
command processor have one that is not a row of the list. -/
def ownAct (s : State) : Outcome State Fault Refusal :=
  match s.cur with
  | .ctx _ _ => ctxAct exec s
  | .me c => engAct exec c.toNat .me s
  | .ve c => engAct exec c.toNat .ve s
  | .hss d => .next (match farFirst d.toNat s with
      | some f => if f.cp.isSome then farSignal f s else hssAct d.toNat s
      | none => s)
  | .ports => .next (farRetry s)
  | .dispatch d => .next (dispPuts d.toNat 64 s)
  | .cp d => .next (cpAgain d.toNat (modCp s d.toNat fun c => { c with ready := s.now + 1 }))
  | _ => .next s

/-- An action of a unit, and what the supervisor notes of it (spec/18_recovery.md R384, R387). -/
def act (e : Sched) (s : State) : Outcome State Fault Refusal :=
  let s1 := { s with cur := e.who }
  match (match e.what with
    | some i => exec i s1
    | none => ownAct s1) with
  | .next t => .next (farDone e.who (superviseAfter e.who s1 t))
  | .fault r => .fault r
  | .refused r => .refused r

/-- The place of an input among the actions of its cycle: a request of the host or of a peer comes after every local one, the host's
first, peers by number, a management core's before them (R14); a write of EQHEAD is applied before its cycle's records are written
(spec/20_host.md R420); an alarm or a reset lands after the marks of its cycle (spec/18_recovery.md R383); any other input is a chosen
interleaving and comes first. -/
def inputRank (e : Sched) : Nat :=
  match e.who, e.what with
  | _, some .parityAlarm => 7000
  | _, some .protocolAlarm => 7000
  | _, some .eclipse => 7000
  | _, some .coreReset => 7000
  | _, some .dieReset => 7000
  | .mgmt d, some _ => rankOf (.mgmt d)
  | .bridge, some (.eqhead _) => 0
  | .bridge, some (.bar0Write w) => if w.reg == .eqhead then 0 else rankOf .bridge
  | .bridge, some _ => rankOf .bridge
  | .ports, some (.flitReceive w) => rankOf .ports + w.flit.tx.src.toNat
  | .ports, some _ => rankOf .ports
  | _, _ => 0

/-- Of the inputs of the first's cycle, the one to be taken, and the others. -/
def pickInput (x : Input) (r : List Input) : Input × List Input :=
  let y := r.foldl (fun y z => if z.time = x.time && decide (inputRank z.ev < inputRank y.ev) then z else y) x
  (y, (x :: r).erase y)

/-- What happens in a state without consequences of the last action: the next input, or what is due first. -/
def actDue (s : State) : Outcome State Fault Refusal :=
  match nextDue s, s.agenda with
  | none, [] => .next { s with now := s.now + 1 }
  | none, x :: r =>
    let p := pickInput x r
    act p.1.ev { s with agenda := p.2, now := max s.now p.1.time }
  | some y, [] => act y.ev { s with now := max s.now y.at_ }
  | some y, x :: r =>
    let p := pickInput x r
    let t := max s.now p.1.time
    let u := max s.now y.at_
    if t < u || (t = u && inputRank p.1.ev ≤ y.rank) then act p.1.ev { s with agenda := p.2, now := t }
    else act y.ev { s with now := u }

/-- One step: a chosen interleaving whose cycle has come, else a consequence of the last action, else what comes first. -/
def stepOnce (s : State) : Outcome State Fault Refusal :=
  match s.agenda with
  | x :: r =>
    let p := pickInput x r
    if p.1.time ≤ s.now && inputRank p.1.ev = 0 then act p.1.ev { s with agenda := p.2 }
    else
      match s.events with
      | e :: t => act e { s with events := t }
      | [] => actDue s
  | [] =>
    match s.events with
    | e :: t => act e { s with events := t }
    | [] => actDue s

end Sys2Proof.Machine
end

