-- ==== Sys2Proof/Machine/Place.lean ====
section
/-! DEFINITION. The state in which the next step fetches and runs a given word: a control context's, an engine's control word, a
launch program's op, an engine's template behind a P-word of zeros (log 10). -/

namespace Sys2Proof.Machine

/-- Partition 0 owns the first 64 KiB of device memory and core 0, whose team is bound and not stopped. -/
def placeTeam (s : State) : State :=
  let t := modPart s 0 fun p => { p with valid := true, isSealed := false, cores := p.cores ||| 1 }
  let u := { t with
    ranges := if (s.ranges.find? fun g => g.base = 0) == some ⟨0, 0, 1, false⟩ then s.ranges else ⟨0, 0, 1, false⟩ :: s.ranges
    power := { s.power with mode := 0 } }
  modCore u 0 fun k =>
    { k with team := some ⟨0, 0, 0, 0⟩, stopped := false, scyBase := 0, scyFrom := s.now, dbg := 0,
             l := { k.l with markScy := 0, engfMe := none, engfVe := none, uirq := none, remote := .idle, got := [], waiting := none } }

/-- A context's word at VA 0, behind a page of partition 0 that user programs may read, write and execute. -/
def placeCtx (w : Nat) (s : State) : State :=
  let t := placeTeam { s with mem := wrBytes s.mem 0 (natBytes 4 w) }
  modCore t 0 fun k =>
    { k with utlb := ⟨0, 4, 0, 0x3D⟩ :: k.utlb, icache := tput k.icache 0 (BitVec.ofNat 512 (rdN t.mem 0 64))
             l := { k.l with live := true, pc := 0, uiact := false, uq := [], ready := s.now } }

/-- The sequencer of a launch of one word at that word. -/
def placeSeqr (now w : Nat) (tpl : Tab Nat) (q : Seqr) : Seqr :=
  { q with head := 0, count := 1, running := true, heldImage := false, words := [w], tpl := tpl, part := 0, issuer := .L,
           idx := [0, 0, 0, 0, 0, 0], trip := [1, 0, 0, 0, 0, 0], lvl := 0, pc := 0, phase := .body, ready := now, waiting := none,
           wdFrom := now, wdIdle := 0 }

/-- An engine's launch of one word on core 0. -/
def placeEng (e : EngSel) (w : Nat) (tpl : Tab Nat) (s : State) : State :=
  let t := placeTeam s
  let u := modSeqr t 0 e (placeSeqr s.now w tpl)
  { u with mem := wrN u.mem (scrKey 0 (qOff e 0 + 0x20)) 4 (2^24) }

/-- A program of one op that queue 0 of die 0 runs. -/
def placeOp (w : Nat) (s : State) : State :=
  modDie { s with power := { s.power with mode := 0 } } 0 fun x =>
    { x with cp := { x.cp with last := 4095, ready := s.now, q := tput x.cp.q 0 { limit := 1, prog := some [w], run := some {} } } }

/-- An action that the next step takes first: by the schedule itself if it would, else as an input. -/
def chosen (e : Sched) (s : State) : State :=
  let natural : Bool := s.agenda.isEmpty && s.events.isEmpty && (match nextDue s with
    | some x => x.ev == e
    | none => false)
  if natural then { s with cur := e.who } else { s with cur := e.who, agenda := ⟨s.now, e⟩ :: s.agenda }

/-- The word where the next step fetches it. -/
def placeWord (nbits w : Nat) (s : State) : State :=
  if 32 < nbits then
    match decodeVe w ⟨false, 0, false, false⟩ with
    | some _ => chosen ⟨.ve 0, none⟩ (placeEng .ve 0 [(0, w)] s)
    | none => chosen ⟨.me 0, none⟩ (placeEng .me 0 [(0, w)] s)
  else
    match decodeD w, decodeEc w, decodeGr w with
    | none, some _, _ => chosen ⟨.ve 0, none⟩ (placeEng .ve w [] s)
    | none, none, some i => chosen ⟨.cp 0, some i⟩ (placeOp w s)
    | _, _, _ => chosen ⟨.ctx 0 .L, none⟩ (placeCtx w s)

end Sys2Proof.Machine
end

