-- ==== Sys2Proof/Safety.lean ====
section
/-! DEFINITION. The vocabulary of the statements: what a word needs to issue, what it changes, and what it leaves alone. -/

namespace Sys2Proof.Machine

/-! What a context's word needs. -/

/-- The register that every later word is meant to read: the value once each result in flight is written (spec/03_encoding.md R58). -/
def reg (s : State) (r : Nat) : Word := gFinal (curCtx s) r

/-- Nothing in flight keeps the issuing context from reading a register: g0, or a register whose latest result has been written. -/
def FreeToRead (s : State) (r : Nat) : Prop := r = 0 ∨ dueOf (curCtx s).pend (physReg (curCtx s) r) ≤ s.now

/-- No answer from another package or die is outstanding for a register that a word names, no interlock holds one, and no source is read
early (R56, R57, spec/15_fabric.md R331). -/
def Readable (s : State) (srcs dsts : List Nat) : Prop :=
  awaited (curCtx s) (srcs.filter (· != 0) ++ dsts) = none ∧ lockAll (curCtx s) (srcs.filter (· != 0) ++ dsts) ≤ s.now ∧
    ∀ r ∈ srcs, FreeToRead s r

/-! What a context's word changes. -/

/-- The byte of device DRAM, host memory or a scratchpad at a key. -/
def byteAt (s : State) (k : Nat) : Byte := bget s.mem k

/-- A context without its general registers, predicates, program counter, results in flight and the marks of the word at pc: what is
left is its special registers, latches, queues and requests. -/
def Ctx.special (x : Ctx) : Ctx :=
  { x with pc := 0, g := [], p := 1, pend := [], ready := 0, rests := false, waiting := none, passAt := none, remote := .idle,
           got := [], used := 0,
           branches := 0 }

/-- A die without its trace staging. -/
def Die.untraced (x : Die) : Die := { x with drop := 0, dropped := 0, dropPart := 0, staging := [], trSeq := 0 }

/-- Everything but the issuing context and the trace staging of the dies is as before: every byte of memory, every other context, every
engine, every unit, the package. -/
def Kept (s t : State) : Prop :=
  { t with cores := [], dies := [] } = { s with cores := [], dies := [] } ∧
  (∀ c, coreOf t c = if c = curCore s then (coreOf s c).setCtx (curSel s) (curCtx t) else coreOf s c) ∧
  (∀ d, (dieOf t d).untraced = (dieOf s d).untraced) ∧
  ∀ k, byteAt t k = byteAt s k

/-- A core without its contexts, caches and notes on slots and unspecified bytes: its engines, its team, its debug and supervisor registers. -/
def CoreSt.units (k : CoreSt) : CoreSt :=
  { k with l := {}, c := {}, s := {}, icache := [], utlb := [], l1 := [], spoiled := [], ghostStale := [], slotOld := [] }

/-- A die without its caches and trace staging: its HSS, its engines, its processors, its registers. -/
def Die.units (x : Die) : Die := { x.untraced with l2 := [], tlb := [] }

/-- Everything but memory, caches, the issuing context and trace staging is as before: every other context, every engine, every unit, the
package. The counter of the free values may advance, and an answer of another package may be noted as used. -/
def KeptElse (s t : State) : Prop :=
  { t with cores := [], dies := [], mem := [], bad := [], free := 0, farReads := [] } =
    { s with cores := [], dies := [], mem := [], bad := [], free := 0, farReads := [] } ∧
  (∀ c x, (c ≠ curCore s ∨ x ≠ curSel s) → ctxOf t c x = ctxOf s c x) ∧
  (∀ c, (coreOf t c).units = (coreOf s c).units) ∧ ∀ d, (dieOf t d).units = (dieOf s d).units

/-- No byte of memory changes. -/
def SameMem (s t : State) : Prop := ∀ k, byteAt t k = byteAt s k

/-- Of memory, the `n` bytes from a key alone change: they take the low bytes of `v`, little-endian. -/
def Stored (s t : State) (key n v : Nat) : Prop :=
  ∀ k, byteAt t k = if key ≤ k ∧ k < key + n then BitVec.ofNat 8 (v / 256^(k - key)) else byteAt s k

/-- The word retires: the program counter moves past it, and the next issues STALL + 1 cycles later at the earliest (R55). -/
def Retired (s t : State) (st : BitVec 3) : Prop :=
  (curCtx t).pc = (curCtx s).pc + 4 ∧ (curCtx t).ready = s.now + 1 + st.toNat

/-- A taken branch: the program counter is the target, and the first word there issues three cycles later at the earliest
(spec/04_contexts.md R88). -/
def Branched (s t : State) (st : BitVec 3) (tgt : Word) : Prop :=
  (curCtx t).pc = tgt ∧ (curCtx t).ready = s.now + max 3 (1 + st.toNat)

/-- Of the general registers, `d` alone takes the value; a write to g0 is discarded (spec/05_registers.md R110). -/
def Wrote (s t : State) (d : Nat) (v : Word) : Prop := ∀ r, r < 32 → reg t r = if r = d ∧ d ≠ 0 then v else reg s r

/-- No general register changes. -/
def SameRegs (s t : State) : Prop := ∀ r, r < 32 → reg t r = reg s r

/-- Every result in flight that no answer brings is written, and no general register changes that waits for none (R60). -/
def Landed (s t : State) : Prop :=
  (curCtx t).pend = (curCtx s).pend.filter (fun p => p.await.isSome) ∧ ∀ r, r < 32 → awaited (curCtx s) [r] = none → reg t r = reg s r

/-- The context as a taken branch leaves it: the squashable words whose results are in flight are killed (spec/03_encoding.md R59). -/
def squashed (s : State) : Ctx :=
  { curCtx s with pend := (curCtx s).pend.filter fun p => !(p.q && (p.await.isSome || decide (s.now < p.due))) }

/-- No predicate changes. -/
def SamePreds (s t : State) : Prop := (curCtx t).p = (curCtx s).p

/-- No special register, latch, queue or request of the issuing context changes. -/
def SameSpecial (s t : State) : Prop := (curCtx t).special = (curCtx s).special

/-- A word whose one effect is a register: it retires, `d` takes `v` within `lat` cycles, and all else is as before. -/
def Computes (i : Instr) (s : State) (st : BitVec 3) (d : BitVec 5) (v : Word) (lat : Nat) : Prop :=
  ∃ t, exec i s = .next t ∧ Retired s t st ∧ Wrote s t d.toNat v ∧
    (d ≠ 0 → dueOf (curCtx t).pend (physReg (curCtx t) d.toNat) ≤ s.now + lat) ∧ SamePreds s t ∧ SameSpecial s t ∧ Kept s t

/-- A word whose one effect is a predicate: `p` takes `b`, and a write to p0 is discarded (spec/04_contexts.md R90). -/
def SetsPred (i : Instr) (s : State) (st : BitVec 3) (p : BitVec 3) (b : Bool) : Prop :=
  ∃ t, exec i s = .next t ∧ Retired s t st ∧
    (∀ k, k < 8 → prd (curCtx t) k = if k = p.toNat ∧ k ≠ 0 then b else prd (curCtx s) k) ∧ SameRegs s t ∧ SameSpecial s t ∧ Kept s t

/-- A trap at the word: TCAUSE, TPC, TVAL and PPRIV are written, the context runs privileged from TVEC, every result in flight is
written (one that another package or die answers when the answer comes, and the handler waits for it), and nothing else changes
(spec/18_recovery.md R397, spec/03_encoding.md R60). -/
def TrapTaken (s t : State) (code : Nat) (val : Word) : Prop :=
  (curCtx t).special = { (curCtx s).special with
    tcause := BitVec.ofNat 8 code, tpc := (curCtx s).pc, tval := val, ppriv := (curCtx s).priv, priv := true
    drain := (curCtx s).drain || (curCtx s).pend.any fun p => p.await.isSome } ∧
  (curCtx t).pc = (curCtx s).tvec ∧ (curCtx t).ready = s.now + 3 ∧ Landed s t ∧ SamePreds s t ∧ Kept s t

/-- The word takes a trap. -/
def Traps (i : Instr) (s : State) (code : Nat) (val : Word) : Prop := ∃ t, exec i s = .next t ∧ TrapTaken s t code val

/-- A taken branch to `tgt` that may write g31: squashable words in flight are killed (spec/03_encoding.md R59), g31 takes the link, and
nothing else changes. -/
def Jumps (i : Instr) (s : State) (st : BitVec 3) (tgt : Word) (link : Option Word) : Prop :=
  ∃ t, exec i s = .next t ∧ Branched s t st tgt ∧
    (∀ r, r < 32 → reg t r = match link with
      | some v => if r = 31 then v else gFinal (squashed s) r
      | none => gFinal (squashed s) r) ∧
    SamePreds s t ∧ SameSpecial s t ∧ Kept s t

/-- The word waits: it has no effect, and is evaluated again in the next cycle (spec/04_contexts.md R84). -/
def Waits (i : Instr) (s : State) (kind : Nat) : Prop :=
  ∃ t, exec i s = .next t ∧ (curCtx t).pc = (curCtx s).pc ∧ (curCtx t).ready = s.now + 1 ∧ (curCtx t).waiting.map (·.kind) = some kind ∧
    SameRegs s t ∧ SamePreds s t ∧ SameSpecial s t ∧ SameMem s t

/-- The block of fetch that holds an address (spec/03_encoding.md R47). -/
def blockStart (pc : Word) : Word := pc &&& 0xFFFFFFFFFFFFFFC0

/-- A CSR as the issuing context reads it one cycle later. -/
def readNext (t : State) (n : Nat) : Word := csrRead { t with now := t.now + 1 } n

/-- Every earlier word of the issuing context has completed (spec/04_contexts.md R99). -/
def Quiet (s : State) : Prop := ∃ q, quietAt (curCtx s) = some q ∧ q ≤ s.now

/-- The condition of CMP and CMPI with a code (spec/03_encoding.md R54, spec/04_contexts.md R90). -/
def Condition (n : BitVec 3) (x y : Word) : Prop :=
  (n = 0 → x = y) ∧ (n = 1 → x ≠ y) ∧ (n = 2 → x.toInt < y.toInt) ∧ (n = 3 → x.toInt ≤ y.toInt) ∧ (n = 4 → x.toNat < y.toNat) ∧
    (n = 5 → x.toNat ≤ y.toNat) ∧ (n = 6 → x &&& y ≠ 0) ∧ (n = 7 → x &&& y = 0)

/-- The combination of a predicate's old value with the condition, by code (R90). -/
def combined (c : BitVec 2) (old t : Bool) : Bool :=
  if c = 0 then t else if c = 1 then old && t else if c = 2 then old || t else xor old t

/-- The bits of a control word that every format shares: MAJ, Q and STALL (spec/03_encoding.md R49). -/
def wordHead (maj : Nat) (q : Bool) (st : BitVec 3) : Nat := maj * 2^26 + q.toNat * 2^25 + st.toNat * 2^22

/-! Accesses. -/

/-- A request entry is free for the issuing context (spec/04_contexts.md R85), and no acquiring access of it is outstanding
(spec/11_ordering.md R252). -/
def EntryFree (s : State) : Prop :=
  (curCtx s).acq = [] ∧ entryFree (heldBy s.now (curCtx s)) (othersHold s).1 (othersHold s).2 = true

/-- The context watches no address (spec/19_observation.md R410). -/
def NoWatch (s : State) : Prop := (curCtx s).wpt.getLsbD 0 = false ∧ (curCtx s).wpt.getLsbD 1 = false

/-- The place that an access of the issuing context reaches, where it is aligned, translated and allowed. -/
def accessPlace (s : State) (va : Word) (n : Nat) (need : Need) : Option Tgt :=
  match resolve va n need s with
  | .ok (t, _) => some t
  | .error _ => none

/-- A word that writes no register completes; `P` is what else it does. -/
def Completes (i : Instr) (s : State) (st : BitVec 3) (P : State → Prop) : Prop :=
  ∃ t, exec i s = .next t ∧ Retired s t st ∧ SameRegs s t ∧ SamePreds s t ∧ P t

/-- The request entry that a word holds until its access is acknowledged. -/
def HeldEntry (s t : State) : Prop :=
  ∃ lat, (curCtx t).special = { (curCtx s).special with reqs := (curCtx s).reqs ++ [⟨0, some (s.now + lat)⟩] }

/-- The value that a plain read of `n` bytes at a place obtains, and memory after it: a scratchpad's bytes; those of a physical address at its
home, or, where the core's die keeps copies of the line, of the core's L1 copy, else of the die's L2 copy, else of the home; for a strong
access to such a line the bytes of its home once the die's copy is written back; 0 from a knock word (spec/11_ordering.md R247 to R251,
spec/16_launch.md R344). None of them holds an uncorrectable error. -/
def PlaceReads (s : State) (t : Tgt) (n v : Nat) (m : List Host.Cell) : Prop :=
  let die := dieOfCore (curCore s)
  match t with
  | .scr c off => hasBad s (scrKey c off) n = false ∧ (∀ j, j < n → openByte s c (off + j) = false) ∧ m = s.mem ∧ v = rdN m (scrKey c off) n
  | .phys pa pte =>
    if copyable die pa pte = false then hasBad s pa n = false ∧ m = s.mem ∧ v = rdN m pa n
    else if pteOrd pte = 0 then hasBad s pa n = false ∧ m = (writeBack s die (pa / 128)).mem ∧ v = rdN m pa n
    else copyErr s (curCore s) pa n = false ∧
      m = (if (tget? (coreOf s (curCore s)).l1 (pa / 128)).isSome then s.mem else (roomL2 s die (pa / 128)).mem) ∧
      v = (match tget? (coreOf s (curCore s)).l1 (pa / 128) with
        | some c => c.data
        | none => match tget? (dieOf s die).l2 (pa / 128) with
          | some c => c.data
          | none => BitVec.ofNat 1024 (rdN m (128 * (pa / 128)) 128)).toNat / 2^(8 * (pa % 128)) % 2^(8 * n)
  | .knock _ _ _ => v = 0 ∧ m = s.mem
  | .remote _ _ => False
  | .far _ _ => False

/-- The place inside the package that an access reaches: its own place, or, through the package's own peer number, the one that the export
window names in `s'`, the state after the access's release (spec/10_pages.md R241, R242). -/
def ownPlace (s s' : State) (va : Word) (n : Nat) (need : Need) : Option Tgt :=
  match accessPlace s va n need with
  | some (.remote peer off) => if peer = s.peer.toNat then exportTgt s' (curPart s) off n need.w need.atomic else none
  | x => x

/-- No strong access of the context to another package is outstanding that its access to this place has to follow (spec/11_ordering.md
R251, log 77). -/
def StrongFree (s : State) (t : Tgt) : Prop :=
  match t with
  | .phys _ pte => pteOrd pte = 0 → openPeers s = []
  | .remote peer _ => ∀ q ∈ openPeers s, q = peer
  | _ => True

/-- No line has a copy in the core's L1 or its die's L2: every later load of it is served by its home (spec/11_ordering.md R249). -/
def Acquired (t : State) : Prop := (coreOf t (curCore t)).l1 = [] ∧ (dieOf t (dieOfCore (curCore t))).l2 = []

/-- No line is dirty for the core (spec/11_ordering.md R249). -/
def Released (t : State) : Prop :=
  ∀ line c, tget? (dieOf t (dieOfCore (curCore t))).l2 line = some c → curCore t ∈ c.writers → c.dirty = 0

/-- A load with value `v`, memory `m` after its read, completes: d takes the 2^size bytes, sign- or zero-extended, one request entry is held,
and nothing else changes; an acquiring one (ord 01) leaves no copy behind. -/
def Loads (i : Instr) (s : State) (st : BitVec 3) (d : BitVec 5) (z : BitVec 2) (sx : Bool) (o : BitVec 2) (v : Nat)
    (m : List Host.Cell) : Prop :=
  ∃ t, exec i s = .next t ∧ Retired s t st ∧
    Wrote s t d.toNat (if sx then (BitVec.ofNat (8 * 2^z.toNat) v).signExtend 64 else (BitVec.ofNat (8 * 2^z.toNat) v).setWidth 64) ∧
    SamePreds s t ∧ HeldEntry s t ∧ KeptElse s t ∧ (o ≠ 1 → ∀ k, byteAt t k = bget m k) ∧ (o = 1 → Acquired t)

/-- A request of `kind` for `n` bytes leaves for a peer: it is queued with the place it names and with `q`, and an entry is
held until the answer. -/
def Sends (s t : State) (kind : TxKind) (peer off n : Nat) (q : Tx → Prop) : Prop :=
  ∃ x, t.fab.sendq = s.fab.sendq ++ [x] ∧ x.kind = kind ∧ x.dest = BitVec.ofNat 12 peer ∧ x.off = BitVec.ofNat 36 off ∧ x.len = n ∧
    q x ∧ (curCtx t).reqs = (curCtx s).reqs ++ [⟨s.reqId, none⟩]

/-- The word issues and retires; its register takes its value with the answer to request `s.reqId`, and no other register changes. -/
def Awaits (s t : State) (st : BitVec 3) (d : BitVec 5) : Prop :=
  Retired s t st ∧ (∀ r, r < 32 → (r = d.toNat → r = 0) → reg t r = reg s r) ∧ SamePreds s t ∧
    (awaited (curCtx t) [d.toNat]).map (·.id) = some s.reqId

/-- What a load at `va` does: at a place inside the package it completes with the bytes there; to another package its request leaves, and the
answer brings them. -/
def LoadAt (i : Instr) (s : State) (st : BitVec 3) (d : BitVec 5) (z : BitVec 2) (sx : Bool) (o : BitVec 2) (va : Word) : Prop :=
  let n := 2^z.toNat
  let need : Need := ⟨true, false, false, false⟩
  (∀ place v m, ownPlace s s va n need = some place → StrongFree s place → PlaceReads s place n v m → Loads i s st d z sx o v m) ∧
  (∀ peer off, accessPlace s va n need = some (.remote peer off) → peer ≠ s.peer.toNat → StrongFree s (.remote peer off) →
    ∃ t, exec i s = .next t ∧ Awaits s t st d ∧ Sends s t .read peer off n (fun x => x.data = []) ∧ SameMem s t)

/-- What a store of the low 2^size bytes of `v` at `va` does, at each kind of place inside the package: a scratchpad or a physical address at
its home, one of host space whose hierarchy refuses the store (spec/20_host.md R422), a line that the core's die copies (the bytes go to the die's L2, and with release order on to the home), a knock word; and to
another package. -/
def StoreAt (i : Instr) (s : State) (st : BitVec 3) (z : BitVec 2) (o : BitVec 2) (v va : Word) : Prop :=
  let n := 2^z.toNat
  let need : Need := ⟨false, true, false, false⟩
  let die := dieOfCore (curCore s)
  let own := ownPlace s (if o = 1 then releaseLines s (curCore s) else s) va n need
  let posted : Prop := ∃ peer off, accessPlace s va n need = some (.remote peer off)
  let entry (t : State) : Prop := (posted → SameSpecial s t) ∧ (¬ posted → HeldEntry s t)
  (o = 1 → posted → ∀ r ∈ (curCtx s).reqs, r.due ≠ none) →
  (∀ place, own = some place → StrongFree s place) →
  (∀ c off, own = some (.scr c off) → badEdge s (scrKey c off) n = false →
    Completes i s st fun t => entry t ∧ KeptElse s t ∧ (∀ j, j < n → byteAt t (scrKey c off + j) = BitVec.ofNat 8 (v.toNat / 256^j)) ∧
      (o ≠ 1 → Stored s t (scrKey c off) n v.toNat) ∧ (o = 1 → Released t)) ∧
  (∀ pa pte, own = some (.phys pa pte) → hostDrops s (.phys pa pte) = true →
    Completes i s st fun t => (∃ r, (curCtx t).reqs = (curCtx s).reqs ++ [⟨0, some r⟩]) ∧ KeptElse s t ∧ (o ≠ 1 → SameMem s t) ∧
      (curCtx t).rerrValid = true ∧ (curCtx t).rerrVa = if (curCtx s).rerrValid then (curCtx s).rerrVa else va.setWidth 56) ∧
  (∀ pa pte, own = some (.phys pa pte) → copied die pa pte = false → hostDrops s (.phys pa pte) = false →
    Completes i s st fun t => entry t ∧ KeptElse s t ∧ (∀ j, j < n → byteAt t (pa + j) = BitVec.ofNat 8 (v.toNat / 256^j)) ∧
      (o ≠ 1 → Stored (if copyable die pa pte then writeBack s die (pa / 128) else s) t pa n v.toNat) ∧ (o = 1 → Released t)) ∧
  (∀ pa pte, own = some (.phys pa pte) → copied die pa pte = true →
    Completes i s st fun t => entry t ∧ KeptElse s t ∧
      (o ≠ 1 → SameMem (roomL2 s die (pa / 128)) t ∧ ∃ c, tget? (dieOf t die).l2 (pa / 128) = some c ∧
        c.data = spliceLine (l2Copy s die (pa / 128)).data (pa % 128) n v.toNat ∧ curCore s ∈ c.writers) ∧
      (o = 1 → Released t ∧ ∀ j, j < n → byteAt t (pa + j) = BitVec.ofNat 8 (v.toNat / 256^j))) ∧
  (∀ d q st8, own = some (.knock d q st8) →
    Completes i s st fun t => entry t ∧ (o ≠ 1 → SameMem s t) ∧ t.events = s.events ++ if st8 then
      [⟨.cp (BitVec.ofNat 2 d), some (.knock ⟨BitVec.ofNat 2 d, BitVec.ofNat 12 q, BitVec.ofNat 32 v.toNat,
        BitVec.ofNat 32 (v.toNat / 2^32), .context (BitVec.ofNat 3 (curPart s))⟩)⟩] else []) ∧
  (own = none → ∀ peer off, accessPlace s va n need = some (.remote peer off) →
    (peer ≠ s.peer.toNat → StrongFree s (.remote peer off) → Completes i s st fun t => (o ≠ 1 → SameMem s t) ∧ Sends s t .write peer off n (fun x => x.data = natBytes n v.toNat)) ∧
    (peer = s.peer.toNat → Completes i s st fun t => (o ≠ 1 → SameMem s t) ∧ (curCtx t).rerrValid = true ∧
      (curCtx t).rerrVa = if (curCtx s).rerrValid then (curCtx s).rerrVa else va.setWidth 56))

/-- A word that the replay log records is performed: no earlier run of it has left its entry, and the log has room
(spec/18_recovery.md R391). -/
def Performed (s : State) : Prop := (curCtx s).replayTo ≤ (curCtx s).ord ∧ (curCtx s).ord < 24 ∧ logCrowded (curCtx s) = false

/-- The words that the replay log records, with STALL and the register that takes the logged value (R391; of SPAWN.TAKE log 74). -/
def LoggedRow (i : Instr) (st : BitVec 3) (d : Option (BitVec 5)) : Prop :=
  (∃ w : AtomW, st = w.st ∧ d = some w.d ∧ (i = .atomAdd w ∨ i = .atomAnd w ∨ i = .atomOr w ∨ i = .atomXor w ∨ i = .atomMin w ∨ i = .atomMax w ∨
      i = .atomMinu w ∨ i = .atomMaxu w ∨ i = .atomSwap w ∨ i = .atomCas w)) ∨
    (∃ w : D3W, st = w.st ∧ d = some w.d ∧ (i = .semTry w ∨ i = .barArr w ∨ i = .tbarWait w ∨ i = .cpy w ∨ i = .spawn w)) ∨
    (∃ w : D2W, st = w.st ∧ d = some w.d ∧ (i = .semRd w ∨ i = .tbarArr w)) ∨
    (∃ w : TakeW, st = w.st ∧ d = some w.d ∧ i = .spawnTake w) ∨
    (∃ w : TileDW, st = w.st ∧ d = some w.d ∧ (i = .twaite w ∨ i = .qwaite w)) ∨
    (∃ w : A2W, st = w.st ∧ d = none ∧ (i = .semAdd w ∨ i = .semWait w ∨ i = .semSet w ∨ i = .sig w ∨ i = .barWait w ∨ i = .tbarExp w ∨
      i = .hstep w)) ∨
    (∃ w : A1W, st = w.st ∧ d = none ∧ (i = .lnchMe w ∨ i = .lnchVe w)) ∨
    (∃ w : TileFW, st = w.st ∧ d = none ∧ (i = .tsetf w ∨ i = .qpush w)) ∨
    (∃ w : QcfgW, st = w.st ∧ d = none ∧ i = .qcfg w) ∨ ∃ w : SevW, st = w.st ∧ d = none ∧ i = .sev w

/-- The key of the log entry that the word appends: 16 bytes. -/
def logKey (s : State) : Nat := scrKey (curCore s) (logOff (curSel s) (curCtx s).ord)

/-- A key outside that entry. -/
def OffLog (s : State) (k : Nat) : Prop := k < logKey s ∨ logKey s + 16 ≤ k

/-- The entry is appended: the ordinal and the log's length advance. Of the other special registers only the requests, the acquires, the
entries and the engines' work that are outstanding may change. -/
def Logged (s t : State) : Prop :=
  (curCtx t).ord = (curCtx s).ord + 1 ∧ (curCtx t).logN = (curCtx s).ord + 1 ∧
    { (curCtx t).special with reqs := [], acq := [], owed := [], engOut := [], ord := 0, logN := 0 } =
      { (curCtx s).special with reqs := [], acq := [], owed := [], engOut := [], ord := 0, logN := 0 }

/-- A performed atomic: d takes the old value, the eight bytes at the home take the new one once the die's copy of the line is written back,
at a scope below package no other byte of memory changes but the log entry, and at a wider one release and acquire act besides. At a knock
word it obtains 0 and changes nothing. To another package the request leaves once every earlier remote access is acknowledged, the log entry
stands without DONE, and d takes the old value with the answer. -/
def AtomDone (i : Instr) (s : State) (aop : Nat) (w : AtomW) (srcs : List Nat) (new : Word → Word → Word) : Prop :=
  Performed s → EntryFree s → NoWatch s → Readable s srcs [w.d.toNat] →
    let va := reg s w.a.toNat
    let need : Need := ⟨true, true, false, true⟩
    let posted : Prop := ∃ peer off, accessPlace s va 8 need = some (.remote peer off)
    (posted ∨ w.e = 5 → ∀ r ∈ (curCtx s).reqs, r.due ≠ none) →
    (∀ pa pte, ownPlace s (releaseLines s (curCore s)) va 8 need = some (.phys pa pte) → StrongFree s (.phys pa pte) → (isHost pa && cohAt pa pte == 2) = false →
      let h := writeBack s (dieOfCore (curCore s)) (pa / 128)
      let old : Word := BitVec.ofNat 64 (rdN h.mem pa 8)
      hasBad h pa 8 = false →
      ∃ t, exec i s = .next t ∧ Retired s t w.st ∧ Wrote s t w.d.toNat old ∧ SamePreds s t ∧ Logged s t ∧ KeptElse s t ∧
        (w.e.toNat < 3 → ¬ posted → ∀ k, OffLog s k →
          byteAt t k = if pa ≤ k ∧ k < pa + 8 then BitVec.ofNat 8 ((new old (reg s w.b.toNat)).toNat / 256^(k - pa)) else byteAt h k) ∧
        ((3 ≤ w.e.toNat ∨ posted) → Acquired t ∧ ∀ j, j < 8 → OffLog s (pa + j) →
          byteAt t (pa + j) = BitVec.ofNat 8 ((new old (reg s w.b.toNat)).toNat / 256^j))) ∧
    (∀ d q b, ownPlace s (releaseLines s (curCore s)) va 8 need = some (.knock d q b) →
      ∃ t, exec i s = .next t ∧ Retired s t w.st ∧ Wrote s t w.d.toNat 0 ∧ SamePreds s t ∧ Logged s t ∧ KeptElse s t ∧
        (w.e.toNat < 3 → ¬ posted → ∀ k, OffLog s k → byteAt t k = byteAt s k)) ∧
    (∀ peer off, accessPlace s va 8 need = some (.remote peer off) → peer ≠ s.peer.toNat → StrongFree s (.remote peer off) →
      ∃ t, exec i s = .next t ∧ Awaits s t w.st w.d ∧ Logged s t ∧ Released t ∧
        Sends s t .atomic peer off 8 (fun x => x.aop = BitVec.ofNat 4 aop ∧ x.operand = reg s w.b.toNat ∧
          (aop = 9 → x.expect = reg s w.d.toNat)) ∧
        (curCtx t).owed = (curCtx s).owed ++ [(s.reqId, (curCtx s).ord)])

/-! Synchronisation. -/

/-- No copy of a line on the issuing core's die is dirty. -/
def NoDirty (s : State) : Prop := ∀ e ∈ (dieOf s (dieOfCore (curCore s))).l2, e.2.dirty = 0

/-- Every context but the issuing one keeps its registers, its place and its special registers; what it waits for may have come. -/
def OthersKept (s t : State) : Prop :=
  ∀ c x, (c ≠ curCore s ∨ x ≠ curSel s) → (ctxOf t c x).g = (ctxOf s c x).g ∧ (ctxOf t c x).p = (ctxOf s c x).p ∧
    (ctxOf t c x).pc = (ctxOf s c x).pc ∧ (ctxOf t c x).pend = (ctxOf s c x).pend ∧ (ctxOf t c x).special = (ctxOf s c x).special

/-- A sum within the signed 64-bit range (spec/12_semaphores.md R270). -/
def clamp64 (x : Int) : Int := max (-(2^63)) (min (2^63 - 1) x)

/-- Counter `idx` of a die takes `v`; every other counter keeps its value. -/
def CounterSet (s t : State) (die idx : Nat) (v : Int) : Prop :=
  ∀ d i, hssGet t d i = if d = die ∧ i = idx then v else hssGet s d i

/-- A word performed once completes: d, if it has one, takes its value, its log entry is appended, other contexts keep their state, and of
memory only the log entry and the bytes that `own` names change where no copy on the die is dirty. -/
def PerformedOnce (i : Instr) (s : State) (st : BitVec 3) (res : Option (BitVec 5 × Word)) (own : Nat → Prop) (P : State → Prop) : Prop :=
  ∃ t, exec i s = .next t ∧ Retired s t st ∧
    (match res with
      | some (d, v) => Wrote s t d.toNat v
      | none => SameRegs s t) ∧
    SamePreds s t ∧ Logged s t ∧ OthersKept s t ∧ (NoDirty s → ∀ k, OffLog s k → ¬ own k → byteAt t k = byteAt s k) ∧ P t

/-- A request of the issuing word on its way to the store of another die (R266). -/
def farReq (s : State) (die idx : Nat) (op : FarOp) : FarSem :=
  ⟨s.now + Config.latHssFar, die, idx, op, curCore s, curSel s, curPart s, (curCtx s).pc, s.reqId, none⟩

/-- A word performed once that asks the store of another die completes: its request is on its way, its result comes with the answer, its log
entry is appended, and nothing else changes as with PerformedOnce. -/
def AskedOnce (i : Instr) (s : State) (st : BitVec 3) (d : BitVec 5) (die idx : Nat) (op : FarOp) : Prop :=
  ∃ t, exec i s = .next t ∧ Awaits s t st d ∧ Logged s t ∧ OthersKept s t ∧ (NoDirty s → ∀ k, OffLog s k → byteAt t k = byteAt s k) ∧
    t.farSems = s.farSems ++ [farReq s die idx op] ∧ ∀ a b, hssGet t a b = hssGet s a b

/-- The counter id in a register: index, die, in the issuing partition's range. -/
def CounterId (s : State) (v : Word) (die idx : Nat) : Prop :=
  v.toNat = idx + 2^16 * die ∧ idx < 2^16 ∧ die < 4 ∧ hssInRange s (curPart s) idx = true

/-- A key in the system area of a core. -/
def InSystem (core k : Nat) : Prop := scrKey core 0x2F0000 ≤ k ∧ k < scrKey core 0x300000

/-- No slot of a ring or tile changes in this cycle before the word: it finds the slots as they stand (spec/06_scratchpad.md R145). -/
def SlotsSettled (s : State) (core id : Nat) : Prop := ∀ e ∈ (coreOf s core).slotOld, e.cycle = s.now → e.id ≠ id

/-- No byte of a scratchpad range is uncorrectable or unspecified. -/
def Defined (s : State) (core off n : Nat) : Prop :=
  hasBad s (scrKey core off) n = false ∧ ∀ j, j < n → openByte s core (off + j) = false

/-! Engines. -/

/-- Everything but engine `e` of core `c`, memory, the events to come and trace staging is as before: every context, every other core, the
core's other engine but for the pending tags of slots that are filled, every unit of a die, the package. The counter of the free values and
the notes of R117 may change. -/
def EngKept (s t : State) (c : Nat) (e : EngSel) : Prop :=
  { t with cores := [], dies := [], mem := [], bad := [], free := 0, csrOld := [], events := [] } =
    { s with cores := [], dies := [], mem := [], bad := [], free := 0, csrOld := [], events := [] } ∧
  (∀ d, (dieOf t d).untraced = (dieOf s d).untraced) ∧ (∀ k, k ≠ c → coreOf t k = coreOf s k) ∧ (∀ x, ctxOf t c x = ctxOf s c x) ∧
  { (coreOf t c).units with me := {}, ve := {}, meMarked := false, veMarked := false } =
    { (coreOf s c).units with me := {}, ve := {}, meMarked := false, veMarked := false } ∧
  match e with
  | .me => { (coreOf t c).ve with ptag := [] } = { (coreOf s c).ve with ptag := [] }
  | .ve => (coreOf t c).me = (coreOf s c).me

/-- No earlier job of the matrix engine reads or fills the ring or tile that a word of the engine names (spec/06_scratchpad.md R144). -/
def JobsApart (s : State) (c : Nat) (e : EngSel) (id : Nat) : Prop :=
  e = .me → ringBusy (coreOf s c).me id = false ∧ ∀ j, (coreOf s c).me.drain = some j → j.out ≠ id

/-- The engine's own registers and jobs are as before, but for results that are due, which are written; the sequencer and the marks of
slots are left out. -/
def SameEngine (s t : State) (c : Nat) (e : EngSel) : Prop :=
  match e with
  | .me => { (coreOf t c).me with q := {}, popped := [] } = { (coreOf (settleEng c e s) c).me with q := {}, popped := [] }
  | .ve => { (coreOf t c).ve with q := {}, ptag := [] } = { (coreOf (settleEng c e s) c).ve with q := {}, ptag := [] }

/-- A sequencer whose word has issued: past the word, the next one STALL + 1 and `extra` cycles later at the earliest, its issues counted,
no longer waiting (spec/03_encoding.md R71, spec/08_sequencer.md R194). -/
def wordIssued (now : Nat) (st : BitVec 3) (extra : Nat) (q : Seqr) : Seqr :=
  { q with
    waiting := none
    wdIdle := match q.waiting with
      | some w => q.wdIdle + if idleWait w then now - w.since else 0
      | none => q.wdIdle
    pc := q.pc + 1, ready := now + 1 + st.toNat + extra, endMarked := false
    issued := tput q.issued q.pc (tget q.issued q.pc 0 + 1) }

/-- The sequencer has gone from `q` to the next thing that the loop rules give (R194). -/
def SeqGoes (q : Seqr) (t : State) (c : Nat) (e : EngSel) : Prop := seqrOf t c e = seekGo (e == .ve) (lvlsOf t c e) 70000 q

/-- A word of engine `e` of core `c` issues: the sequencer goes on from `q`, and `P` is what else it does; all else is kept. -/
def EngIssues (i : Instr) (s : State) (c : Nat) (e : EngSel) (fl : EFlags) (extra : Nat) (q : Seqr) (P : State → Prop) : Prop :=
  ∃ t, exec i s = .next t ∧ EngKept s t c e ∧ SeqGoes (wordIssued s.now fl.st extra q) t c e ∧ P t

/-- A control word of an engine issues: no register or job of the engine changes. -/
def EcIssues (i : Instr) (s : State) (c : Nat) (e : EngSel) (fl : EFlags) (q : Seqr) (P : State → Prop) : Prop :=
  EngIssues i s c e fl 0 q fun t => SameEngine s t c e ∧ P t

/-- A word of an engine waits: the sequencer stays, and looks again in the next cycle. -/
def EngWaits (i : Instr) (s : State) (c : Nat) (e : EngSel) : Prop :=
  ∃ t, exec i s = .next t ∧ (seqrOf t c e).pc = (seqrOf s c e).pc ∧ (seqrOf t c e).ready = s.now + 1 ∧ (seqrOf t c e).waiting ≠ none ∧
    SameMem s t ∧ EngKept s t c e ∧ SameEngine s t c e

/-- The results of a vector engine that are due are written. -/
def veNow (s : State) (c : Nat) : Ve := (coreOf (settleVe c s) c).ve

/-- A result in flight names a vector specifier. -/
def vNames (v : Ve) (n : Nat) (p : VPend) : Bool :=
  if n < 0x50 then p.reg == some n
  else
    match v.hids[n - 0x50]? with
    | some id => p.hpos == some id
    | none => false

/-- A vector register or last-result entry (spec/05_registers.md R125). -/
def vReg (v : Ve) (n : Nat) : VReg :=
  if n < 0x50 then tget v.regs n {}
  else
    match v.hids[n - 0x50]? with
    | some id => tget v.hval id {}
    | none => {}

/-- A source of a vector word as format `f` (spec/03_encoding.md R63, spec/02_numbers.md R38). -/
def vSource (v : Ve) (f : Nat) (x : BitVec 8) : VBits :=
  if x.toNat < 0x54 then (vReg v x.toNat).bits else if x.toNat = 0x54 then 0 else if x.toNat = 0x55 then laneBits f
  else broadcast f (tget v.k (x.toNat - 0x80) 0).toNat

/-- A source can be read: nothing in flight names it, and its tag passes, or the word is raw (R37). The lane-index vector needs an
integer format, or, raw, one whose elements it fills. -/
def VReady (v : Ve) (f : Nat) (accept : List Nat) (raw : Bool) (x : BitVec 8) : Prop :=
  if x.toNat < 0x54 then
    v.pend.filter (vNames v x.toNat) = [] ∧ tagCode (vReg v x.toNat).tag ≠ 15 ∧ (raw = true ∨ tagCode (vReg v x.toNat).tag ∈ accept)
  else if x.toNat = 0x55 then f = 5 ∨ f = 6 ∨ f = 7 ∨ f = 12 ∨ (raw = true ∧ (fpCode f = true ∨ f = 0 ∨ f = 11))
  else True

/-- A mask register; m0 is all ones (spec/05_registers.md R128). -/
def vMask (v : Ve) (m : Nat) : MBits := if m = 0 then BitVec.allOnes 512 else tget v.masks m 0

/-- Nothing in flight names a mask. -/
def MaskReady (v : Ve) (m : Nat) : Prop := m = 0 ∨ v.pend.filter (fun p => p.msk == some m) = []

/-- The elements that a word's mask includes, of `n`. -/
def vIncluded (v : Ve) (w : EngW) (n : Nat) : List Bool := (unpackN 1 n (vMask v w.m.toNat).toNat).map fun b => (b == 1) != w.neg

/-- Cretus-1 has the formats and the rounding of the word (spec/02_numbers.md R44). -/
def VersionOk (v : Ve) (w : EngW) (fmts : List Nat) : Prop := v.q.nbv = 1 → w.rnd ≠ 5 ∧ ∀ f ∈ fmts, f ≠ 3 ∧ f ≠ 4 ∧ f ≠ 9

/-- A word of the vector engine delivers a vector: it is in flight until `lat` cycles from now, for register D unless D is none, and takes
the newest place of the last-result file; no register, mask, constant, table, mailbox or byte of memory changes. -/
def VDelivers (i : Instr) (w : EngW) (s : State) (c fmt lat extra : Nat) (lock : Bool) (bits wm : VBits) : Prop :=
  EngIssues i s c .ve w.fl extra (seqrOf s c .ve) fun t => t.events = s.events ∧ SameMem s t ∧
    let v := veNow s c
    { (coreOf t c).ve with q := {} } =
      { v with
        q := {}
        pend := v.pend ++ [{ reg := if w.d = 0xFF then none else some w.d.toNat, hpos := some v.hnext, bits := bits, wm := wm,
                             tag := BitVec.ofNat 16 (fmt * 2^12), due := s.now + lat, lock := lock, q := w.fl.q }]
        hids := (v.hnext :: v.hids).take 4, hnext := v.hnext + 1 }

/-- A word of the vector engine delivers bits of a mask. -/
def VMasks (i : Instr) (w : EngW) (s : State) (c n lat extra : Nat) (bits inc : Nat) : Prop :=
  EngIssues i s c .ve w.fl extra (seqrOf s c .ve) fun t => t.events = s.events ∧ SameMem s t ∧
    let v := veNow s c
    { (coreOf t c).ve with q := {} } =
      { v with
        q := {}
        pend := v.pend ++ [{ msk := some (w.d.toNat - 0x60), bits := BitVec.ofNat 4096 (bits % 2^n),
                             wm := BitVec.ofNat 4096 (inc % 2^n + (2^512 - 2^n)), due := s.now + lat, q := w.fl.q }] }

/-- The sources and the mask of a word under its FMT can be read, and the launch's version has the word. -/
def VReads (s : State) (c : Nat) (w : EngW) (srcs : List (BitVec 8)) : Prop :=
  s.cur = .ve (BitVec.ofNat 7 c) ∧ c < 128 ∧ VersionOk (veNow s c) w [w.fmt.toNat] ∧ MaskReady (veNow s c) w.m.toNat ∧
    ∀ x ∈ srcs, VReady (veNow s c) w.fmt.toNat [w.fmt.toNat] (isRaw w) x

/-- Element `e` of source `k` under the word's FMT. -/
def vElem (v : Ve) (w : EngW) (srcs : List (BitVec 8)) (k e : Nat) : Nat :=
  match srcs[k]? with
  | some x => nth (elemsOf w.fmt.toNat (vSource v w.fmt.toNat x)) e 0
  | none => nth (elemsOf w.fmt.toNat 0) e 0

/-- An elementwise word: where each included element has a result `r`, D takes them under the mask (spec/07_vector.md R155). -/
def VElems (i : Instr) (w : EngW) (lat : Nat) (srcs : List (BitVec 8)) (res : Ve → Nat → Nat → Nat → Nat → Nat → Prop) : Prop :=
  ∀ (s : State) (c : Nat) (r : List Nat), VReads s c w srcs →
    let v := veNow s c
    let n := countOf w.fmt.toNat
    let inc := vIncluded v w n
    r.length = n →
    (∀ e, e < n → if inc.getD e false then res v e (vElem v w srcs 0 e) (vElem v w srcs 1 e) (vElem v w srcs 2 e) (nth r e 0)
      else nth r e 0 = 0) →
    VDelivers i w s c w.fmt.toNat (lat + extraRead srcs) (extraRead srcs) false (BitVec.ofNat 4096 (packN (widthOf w.fmt.toNat) r))
      (writeMask (widthOf w.fmt.toNat) 0 inc)

/-- An arithmetic word: the exact value `f` rounded once under a floating-point FMT, no FPX condition met; the exact integer `g`, clamped
or modulo 2^w, under an integer one (R155, R156, R159, R160). -/
def VArith (i : Instr) (w : EngW) (latFp : Nat) (srcs : List (BitVec 8)) (f : Val → Val → Val → Val) (g : Int → Int → Int → Int) :
    Prop :=
  VElems i w (if fpCode w.fmt.toNat then latFp else 2) srcs fun v e a b c x =>
    let fm := w.fmt.toNat
    let val (y : Nat) : Val := valOf (v.q.nbv = 1) fm y
    if fpCode fm then
      fpRoundTo fm (rndOf w v e) (f (val a) (val b) (val c)) = some x ∧
        (fpxOn w = true → newNan ([val a, val b, val c].take srcs.length) (f (val a) (val b) (val c)) = false)
    else
      x = wrapInt (widthOf fm) (if w.mod.getLsbD 0 then clampInt fm (g (intOf fm a) (intOf fm b) (intOf fm c))
        else g (intOf fm a) (intOf fm b) (intOf fm c))

/-! Memory words of the vector engine (spec/07_vector.md R175 to R177). -/

/-- The elements that a memory word moves, of `b` bytes: under a format that is no array of elements, all of them. -/
def vMoved (v : Ve) (w : EngW) : List Bool :=
  let b := elemBytes w.fmt.toNat
  if 8 ≤ w.fmt.toNat ∧ w.fmt.toNat ≤ 11 then List.replicate (512 / b) true else vIncluded v w (512 / b)

/-- The mask that a memory word reads can be read. -/
def MovedReady (v : Ve) (w : EngW) : Prop := (8 ≤ w.fmt.toNat ∧ w.fmt.toNat ≤ 11) ∨ MaskReady v w.m.toNat

/-- Offset and number of each element moved; an address below zero stands beyond the scratchpad. -/
def vPlaces (v : Ve) (w : EngW) (at' : Nat → Int) : List (Nat × Nat) :=
  (((vMoved v w).zip (upto (vMoved v w).length)).filter (·.1)).map fun p => ((if at' p.2 < 0 then at' p.2 % (2^32 : Nat) else at' p.2).toNat, p.2)

/-- The offset that a word's address field names, as an integer. -/
def vBase (s : State) (c : Nat) (w : EngW) : Int := (engAddr s c .ve w.addr : Nat)

/-- What a load brings from places of the core's own scratchpad. -/
def vLoaded (s : State) (c : Nat) (w : EngW) (l : List (Nat × Nat)) : VBits :=
  let b := elemBytes w.fmt.toNat
  BitVec.ofNat 4096 ((l.map fun p => rdN s.mem (scrKey c p.1) b * 2^(8 * b * p.2)).foldl (· + ·) 0)

/-- A load of the vector engine: every place aligned, within the scratchpad, readable and specified. -/
def VLoads (i : Instr) (w : EngW) (s : State) (c : Nat) (at' : Nat → Int) : Prop :=
  let v := veNow s c
  let b := elemBytes w.fmt.toNat
  let l := vPlaces v w at'
  (∀ p ∈ l, p.1 % b = 0 ∧ p.1 + b ≤ 0x300000 ∧ Defined s c p.1 b) →
  VDelivers i w s c w.fmt.toNat 6 0 true (vLoaded s c w l) (writeMask (8 * b) 0 (vMoved v w))

/-- Bytes of a register go to places of the core's own scratchpad: of two elements at one byte the higher-numbered remains (R176); no
other byte changes. -/
def VStored (s t : State) (c b : Nat) (x : VBits) (l : List (Nat × Nat)) : Prop :=
  ∀ k, byteAt t k =
    match l.reverse.find? fun p => decide (scrKey c p.1 ≤ k) && decide (k < scrKey c p.1 + b) with
    | some p => BitVec.ofNat 8 (x.toNat / 2^(8 * b * p.2) / 256^(k - scrKey c p.1))
    | none => byteAt s k

/-- A store of the vector engine: every place aligned and below the system area, no uncorrectable word covered in part
(spec/06_scratchpad.md R135). The sequencer keeps what an output slot held that it is the first to write to since the mark. -/
def VStores (i : Instr) (w : EngW) (s : State) (c extra : Nat) (x : VBits) (at' : Nat → Int) : Prop :=
  let v := veNow s c
  let b := elemBytes w.fmt.toNat
  let l := vPlaces v w at'
  (∀ p ∈ l, p.1 % b = 0 ∧ p.1 + b ≤ 0x2F0000) → (s.bad = [] ∨ cutAt s c (offsOf b l) = none) →
  EngIssues i s c .ve w.fl extra (seqrOf (keepSlots c (offsOf b l) s) c .ve) fun t => t.events = s.events ∧ VStored s t c b x l ∧
    { (coreOf t c).ve with q := {}, memDue := 0 } = { v with q := {}, memDue := 0 }

/-! The matrix engine (spec/09_accumulators.md). -/

/-- The registers and jobs of a matrix engine once what is due is done. -/
def meNow (s : State) (c : Nat) : Me := (coreOf (settleMe c s) c).me

/-- The slot at HEAD of a ring or tile, as its descriptor `d` names it, holds an operand for the matrix engine, of a format and swizzle
(R210, R213). -/
def OperandAt (s : State) (c id : Nat) (d : Desc) (fmt swz bytes : Nat) : Prop :=
  d.en = true ∧ d.cons = 3 ∧ bytes ≤ d.slotb ∧ headFull s c id d = true ∧ hasBad s (scrKey c (slotBase d d.head)) d.slotb = false ∧
    slotTag s c id d.head / 2^12 = fmt ∧ slotTag s c id d.head / 2^8 % 16 = swz

/-- A WIDE64 partial with the swizzle stands at HEAD of a ring or tile that no earlier job reads (R214, R215). -/
def WideReady (s : State) (c id swz : Nat) : Prop :=
  OperandAt s c id (descOf s c id) 11 swz 32768 ∧ ringBusy (coreOf s c).me id = false

/-- A word of the matrix engine issues: its registers and jobs become those of `m`, and no byte of memory changes. -/
def MeIssues (i : Instr) (s : State) (c : Nat) (fl : EFlags) (extra : Nat) (m : Me) : Prop :=
  EngIssues i s c .me fl extra (seqrOf s c .me) fun t => t.events = s.events ∧ SameMem s t ∧
    { (coreOf t c).me with q := {} } = { m with q := {}, issueNo := (coreOf s c).me.issueNo + 1 }

/-- The value that a bank and the coma hold at a position: lane plus 2^20 times the count (R203, R207). -/
def accValue (m : Me) (n pos : Nat) : Int :=
  match bankOf m n with
  | some b => nth b.lanes pos 0 + (2^20 : Nat) * comaCount n pos m.coma
  | none => 0

/-- A step of a job of the matrix engine: every other unit, context and core is as before. -/
def MeActs (i : Instr) (s : State) (c : Nat) (P : State → Prop) : Prop :=
  ∃ t, exec i s = .next t ∧ EngKept s t c .me ∧ t.events = s.events ∧ (∀ k, ¬ InSystem c k → byteAt t k = byteAt s k) ∧ P t

/-! The command processor (spec/16_launch.md). -/

/-- Everything but the command processor of a die is as before. -/
def CpKept (s t : State) (d : Nat) : Prop :=
  { t with dies := [] } = { s with dies := [] } ∧ ∀ k, dieOf t k = if k = d then { dieOf s k with cp := (dieOf t k).cp } else dieOf s k

/-- The command processor of die `d` acts on queue `q`: it is the one served last, and acts again in the next cycle at the earliest. -/
def cpServed (s : State) (d q : Nat) : State := modCp s d fun c => { c with ready := s.now + 1, last := q }

/-- The run of a resident queue's program. -/
def runOf (s : State) (d q : Nat) : Option Grailo := (tget? (cpOf s d).q q).bind (·.run)

/-- Queue `q` of die `d` is the one whose program's next op is `i`, within the 512 of a packet (R357). -/
def GrNext (i : Instr) (s : State) (d q : Nat) (r : Grailo) : Prop :=
  s.cur = .cp (BitVec.ofNat 2 d) ∧ d < 4 ∧ grPick s d i = some (q, r) ∧ r.ops < 512

/-- An op completes: the run of its queue becomes `f r`, its op counted, and nothing but the command processor changes; no other queue. -/
def GrRuns (i : Instr) (f : Grailo → Grailo) : Prop :=
  ∀ (s : State) (d q : Nat) (r : Grailo), GrNext i s d q r →
    ∃ t, exec i s = .next t ∧ CpKept s t d ∧ runOf t d q = some (f { r with ops := r.ops + 1 }) ∧
      ∀ k, k ≠ q → tget? (cpOf t d).q k = tget? (cpOf s d).q k

/-- A program after an op that gives register `d` a value (x0 stays zero) and goes on. -/
def grWrote (r : Grailo) (d : BitVec 4) (v : Word) : Grailo :=
  ({ r with x := if d = 0 then r.x else tput r.x d.toNat v } : Grailo).goto (r.pc + 1)

/-- A register of a program. -/
def grReg (r : Grailo) (a : BitVec 4) : Word := if a = 0 then 0 else tget r.x a.toNat 0

/-- The command processor of die `d` takes a packet of row `k`, of queue `q`, with valid flags; `s0` is the state in which it is decoded. -/
def Decodes (s s0 : State) (d k q : Nat) (x : LQueue) (b : List Byte) : Prop :=
  s.cur = .cp (BitVec.ofNat 2 d) ∧ d < 4 ∧ cpPick s d k = some (q, x, b) ∧ recF b 1 1 < 8 ∧ s0 = cpServed s d q

/-- A packet in flight, under the next number (R355). -/
def cpFlown (s : State) (d q typ flags : Nat) (isOpen : Bool) : State :=
  modCp s d fun c =>
    { c with
      tok := c.tok + 1
      flights := c.flights ++ [⟨c.tok, q, BitVec.ofNat 3 (lqPart s d q), lqRidx s d q, typ, flags, tget c.chains q [], isOpen, 0⟩] }

/-- A packet that completes as it is decoded: its completion record if it asks for one, then the queue's next packet. -/
def cpDone (s : State) (d q : Nat) (b : List Byte) : State :=
  cpConsume d q (cpComplete d (cpOf s d).tok 0 (cpFlown s d q (recF b 0 1) (recF b 1 1) false))

/-- The patch of a GRAPH packet: none with index all ones, else the entries of the queue's patch block (R354). -/
def graphPatch (d q size : Nat) (b : List Byte) : CpM (List (Nat × List Byte)) := do
  if recF b 4 4 = 0xFFFFFFFF then pure []
  else do
    let s ← cpGets fun s => s
    let pa := lqF s d q 0x60 8 + 64 * recF b 4 4
    let ph ← cpRead d q pa 16
    cpBad d q (decide (255 < recF ph 0 4) || recF ph 4 4 != 0) 2
    cpPatch d q size (recF ph 0 4) (pa + 8)

/-! Copy and collective engines (spec/13_copy.md, spec/15_fabric.md). -/

/-- The row of a copy packet's kind: 1 LIN, 2 BOX, 3 CVT, 4 WIN, 5 FILL, 6 PUBLISH, 7 a packet that only prefetches (R284, R292). -/
def CopyRow (i : Instr) (k : Nat) : Prop :=
  (i = .ceLin ∧ k = 1) ∨ (i = .ceBox ∧ k = 2) ∨ (i = .ceCvt ∧ k = 3) ∨ (i = .ceWin ∧ k = 4) ∨ (i = .ceFill ∧ k = 5) ∨
    (i = .cePublish ∧ k = 6) ∨ (i = .pfonly ∧ k = 7)

/-- A job as a packet of queue `n` begins it. -/
def FreshJob (s : State) (j : CopyJob) (n : Nat) (q : CopyQ) (d : QDesc) (pk : List Byte) : Prop :=
  ∃ nbv limit, j = { queue := n, idx := d.ridx, pkt := pk, va := d.entry d.ridx, part := q.part, nbv := nbv, limit := limit, since := s.now }

/-- A copy packet that is taken after the examinations that end in `s1`: RUNNING in its STATUS (in `u`; a page that is missing holds the write,
one that refuses it ends the packet), the checks of R286 in their order, its first bytes or its failure. -/
def TakesPacket (i : Instr) (s s1 : State) (c n : Nat) (q : CopyQ) (d : QDesc) (pk : List Byte) : Prop :=
  ∃ j v, FreshJob s j n q d pk ∧ (∀ k, byteAt v k = byteAt s1 k) ∧
    exec i s = .next (match cePut (traceCe c j 0x01 j.seq j.va 5 v) c j 2 2 1 with
      | (some (.walk r, a), u) => ceWaitPut c { j with start := true } a r u
      | (some (.code k, _), u) => ceFail c { j with start := true } (statusOf k) 0 u
      | (none, u) =>
        match ceChecks u c j with
        | some (code, detail) => ceFail c j code detail u
        | none => ceGo c j u)

/-- The counter `idx` of a die takes the increment of a packet with this key, ordinal 0, saturated, unless the die's window holds the key or
the counter is poisoned; no other counter changes (spec/12_semaphores.md R268, R263). -/
def Incremented (s t : State) (die idx engine record : Nat) (mark : BitVec 32) (delta : Nat) : Prop :=
  ∀ d i, hssGet t d i =
    if d = die ∧ i = idx ∧ windowFind (dieOf s die).window engine record mark = none ∧ hssPoisoned s die idx = false then
      clamp64 (hssGet s die idx + delta) else hssGet s d i

/-- The row of a collective packet's kind (R338). -/
def CollRow (i : Instr) (k : Nat) : Prop :=
  (i = .allred ∧ k = 1) ∨ (i = .redscat ∧ k = 2) ∨ (i = .allgath ∧ k = 3) ∨ (i = .bcast ∧ k = 4) ∨ (i = .all2all ∧ k = 5)

/-- Everything but a die's collective engine, caches and trace staging, and the events to come, is as before. -/
def XeKept (s t : State) (d : Nat) : Prop :=
  { t with dies := [], events := [] } = { s with dies := [], events := [] } ∧
    ∀ k, (dieOf t k).untraced = if k = d then { (dieOf s k).untraced with xe := (dieOf t k).xe } else (dieOf s k).untraced

/-! Recovery (spec/18_recovery.md R384 to R394). -/

/-- An engine restarts from its mark, or, without one, from the start of its launch; its queue of launches stays. -/
def EngRestarted (s t : State) (c : Nat) (e : EngSel) : Prop :=
  let q := seqrOf s c e
  let r := seqrOf t c e
  r.eclAt = some s.now ∧ r.running = q.running ∧ r.head = q.head ∧ r.count = q.count ∧ r.ticket = q.ticket ∧ r.mark = q.mark ∧
    (q.running = true → (r.idx, r.trip, r.lvl, r.pc, r.phase) = match q.mark with
      | none => ([0, 0, 0, 0, 0, 0], [0, 0, 0, 0, 0, 0], 0, 0, .entry)
      | some k => (k.idx, k.trip, k.lvl, k.pc, k.phase))

/-- The entry that an alarm appends to a core's log: cycle, kind, unit, action (R388). -/
def AlarmLogged (s t : State) (c kind unit action : Nat) : Prop :=
  let o := scrKey c (0x2F3F00 + 16 * (coreOf s c).logw.toNat)
  rdN t.mem o 8 = diecyc s (dieOfCore c) % 2^64 ∧ rdN t.mem (o + 8) 1 = kind ∧ rdN t.mem (o + 9) 1 = unit ∧ rdN t.mem (o + 10) 1 = action ∧
    (coreOf t c).logw = (coreOf s c).logw + 1

/-- A context stands as the image in its mark area says (R389, R393). -/
def CtxRestored (t : State) (c : Nat) (x : CtxSel) : Prop :=
  let w (i : Nat) : Nat := rdN t.mem (scrKey c (markOff x + 8 * i)) 8
  let y := ctxOf t c x
  y.pc = BitVec.ofNat 64 (w 43) ∧ y.live = (w 43 != 0) ∧ y.p = BitVec.ofNat 8 (w 39) ∧ y.uvec = BitVec.ofNat 64 (w 41) ∧ y.pend = [] ∧
    y.waiting = none ∧ y.ord = 0 ∧ (∀ r, 1 ≤ r → r < 32 → tget y.g r 0 = BitVec.ofNat 64 (w (r - 1))) ∧
    ∀ r, r < 8 → tget y.g (56 + r) 0 = BitVec.ofNat 64 (w (31 + r))

/-- A core has been reset: its engines restarted, the contexts of its team at their marks, the reset counted (R393). -/
def CoreRestarted (s t : State) (c : Nat) : Prop :=
  EngRestarted s t c .me ∧ EngRestarted s t c .ve ∧ (coreOf t c).resetAt = some s.now ∧
    (coreOf t c).crst.toNat = min 65535 ((coreOf s c).crst.toNat + 1) ∧
    (coreOf s c).team = (coreOf t c).team ∧ ((coreOf s c).team ≠ none → ∀ x, CtxRestored t c x) ∧
    ((coreOf s c).team = none → ∀ x,
      { ctxOf t c x with accept := none, logN := 0, uq := [], owed := [], markBr := 0 } =
        { ctxOf s c x with accept := none, logN := 0, uq := [], owed := [], markBr := 0 })

/-! The host link (spec/20_host.md). -/

/-- The request at the head of the doorbells has command `n`; it is function `fn`'s. -/
def Asks (s : State) (fn n : Nat) : Prop := (∃ r, s.host.doorbells = fn :: r) ∧ reqCommand s fn = n

/-- The request is answered with STAT: DONE, no longer BUSY, the status also in the response buffer; it leaves the doorbells, and with an
enabled event queue one message is sent. -/
def Answered (s t : State) (fn stat : Nat) : Prop :=
  (mboxOf t fn).done = true ∧ (mboxOf t fn).busy = false ∧ (mboxOf t fn).stat = BitVec.ofNat 8 stat ∧
    (mboxOf t fn).resp.take 8 = natBytes 8 stat ∧ t.host.doorbells = s.host.doorbells.tail ∧ (∀ k, k ≠ fn → mboxOf t k = mboxOf s k) ∧
    t.host.msix = if (evqOf s fn).en then (fn, (evqOf s fn).vec) :: s.host.msix else s.host.msix

/-- It is answered, and nothing else changes: no partition, range, firmware, context, die or byte of memory. -/
def AnsweredOnly (s t : State) (fn stat : Nat) : Prop :=
  Answered s t fn stat ∧ t.parts = s.parts ∧ t.ranges = s.ranges ∧ t.cores = s.cores ∧ t.dies = s.dies ∧ t.mem = s.mem ∧ t.events = s.events ∧
    t.rot.fw = s.rot.fw ∧ t.rot.created = s.rot.created

/-- The unit that acts is no management core: a request is the host's. -/
def FromHost (s : State) : Prop := ∀ d, s.cur ≠ .mgmt d

/-- A host access that device memory admits: both ends in DRAM, every granule allowed to the class, no knock word. -/
def HostAdmits (s : State) (pa len cls : Nat) : Prop :=
  knockAt s pa = none ∧ knockAt s (pa + (len - 1)) = none ∧ isDram pa = true ∧ isDram (pa + (len - 1)) = true ∧
    rangeCheckAll s pa len ⟨cls, true⟩ = none

end Sys2Proof.Machine
end

