-- ==== Sys2Proof/Certificates/Slice0/Obligations.lean ====
section
/-! DEFINITION. The statements for the provers: what the words, ops and events of the machine do, what they leave alone, where they
complete, and what every step keeps. -/

open Sys2Proof Sys2Proof.Machine

/-- The encodings that the spec writes out in its examples of control words (LDI, ADD, ADDI, SHIFTI, CMPI, BR, JMP, CALL, RET, EXIT, MFC, MTC,
DIV, LDHI) decode to those words with the operands the examples give; a word of zeros is NOP. -/
def Obligations.SampleWordsDecode : Prop :=
  decodeD 0x20020005 = some (.ldi ⟨false, 0, 1, 5⟩) ∧
  decodeD 0x04042080 = some (.add ⟨false, 0, 2, 2, 1⟩) ∧
  decodeD 0x08021FFF = some (.addi ⟨false, 0, 1, 1, 0xFFF⟩) ∧
  decodeD 0x18065804 = some (.srai ⟨false, 0, 3, 5, 4⟩) ∧
  decodeD 0x2C081200 = some (.cmpi ⟨false, 0, 1, 0, 1, 1, 0⟩) ∧
  decodeD 0x64080000 = some (.br ⟨0, 1, false, 0⟩) ∧
  decodeD 0x68000001 = some (.jmp ⟨0, 1⟩) ∧
  decodeD 0x6C000003 = some (.call ⟨0, 3⟩) ∧
  decodeD 0x00090000 = some (.ret ⟨0⟩) ∧
  decodeD 0x00010000 = some (.exit ⟨0⟩) ∧
  decodeD 0x3C12000A = some (.mfc ⟨false, 0, 9, 0x00A⟩) ∧
  decodeD 0x40004001 = some (.mtc ⟨0, 4, 1⟩) ∧
  decodeD 0x040E100E = some (.div ⟨false, 0, 7, 1, 0⟩) ∧
  decodeD 0x240A5678 = some (.ldhi ⟨false, 0, 5, 0x5678⟩) ∧
  decodeD 0 = some (.nop ⟨0⟩)

/-- For every well-formed instruction whose encoding is one 32-bit word (a control word, an engine control word or a launch program's op),
decoding that word by its own decoder gives the instruction back, with every operand at every value that the encoding admits. -/
def Obligations.WordsRoundTrip : Prop :=
  ∀ (i : Instr) (w : Nat), wellFormed i = true → encode i = some (32, w) →
    decodeD w = some i ∨ decodeEc w = some i ∨ decodeGr w = some i

/-- For every well-formed instruction whose encoding is a 128-bit template of the vector or matrix engine, decoding that template with the flags
of the word that issues it gives the instruction back, with every field at every value that the encoding admits. -/
def Obligations.TemplatesRoundTrip : Prop :=
  ∀ (i : Instr) (t : Nat), wellFormed i = true → encode i = some (128, t) →
    ∃ fl : EFlags, decodeVe t fl = some i ∨ decodeMe t fl = some i

/-- After a power-on reset DIECYC is 0 on every die, no core has a team and no context runs, every core's supervisor registers are 0, PEERID is
0 and not valid, SVROT is 10,000, the power cap is 3,000 W, every byte of memory reads zero, and every partition's NBV is 3 and MODE 0x80.
The general registers are 0, p0 is true and p1 to p7 are false: the spec gives these for a first binding, and that a context already holds
them at reset is the model's choice (log 3), as is that memory reads zero. -/
def Obligations.ResetValues : Prop :=
  (∀ d, diecyc State.reset d = 0) ∧
  (∀ c, (coreOf State.reset c).team = none ∧ (coreOf State.reset c).ecl = 0 ∧ (coreOf State.reset c).crst = 0 ∧
    (coreOf State.reset c).logw = 0) ∧
  (∀ c x, (ctxOf State.reset c x).live = false ∧ (ctxOf State.reset c x).priv = false ∧ (ctxOf State.reset c x).uie = false ∧
    (∀ r, gFinal (ctxOf State.reset c x) r = 0) ∧ ∀ p, p < 8 → prd (ctxOf State.reset c x) p = decide (p = 0)) ∧
  State.reset.peer = 0 ∧ State.reset.peerValid = false ∧ State.reset.rot.svrot = 10000 ∧ State.reset.power.capw = 3000 ∧
  (∀ p, (partOf State.reset p).nbv = 3 ∧ (partOf State.reset p).mode = 0x80 ∧ (partOf State.reset p).valid = false) ∧
  ∀ k, byteAt State.reset k = 0

/-- The memory of the reset state is in canonical form: addresses strictly rising and no entry equal to what an unlisted address reads as. -/
def Obligations.ResetMemoryForm : Prop :=
  Memory.wf State.reset.mem = true

/-- For every state whose memory is in canonical form (addresses strictly rising, no zero byte listed), whatever the next step does (a word of
any context or engine, a unit's action, a reset, an input), the memory of the state it answers is in canonical form. -/
def Obligations.StepKeepsMemoryForm : Prop :=
  ∀ s t : State, Memory.wf s.mem = true → step s = .next t → Memory.wf t.mem = true

/-- For every instruction and every state exec answers a next state, and so does step: what the spec calls a fault is a trap, an engine fault or
a recorded status, after which the machine goes on. -/
def Obligations.StepAlwaysAnswers : Prop :=
  (∀ (i : Instr) (s : State), ∃ t, exec i s = .next t) ∧ ∀ s : State, ∃ t, step s = .next t

/-- When no input and no consequence of the last action comes first and the action that is due first is a context's own, in the cycle in which
it is due, with no refused load to be reported and, in a handler just entered, no answer outstanding: if the context's boundary has no
event, its fetch answers a word, and the word decodes to i, then the step is exec of i in the state that the fetch leaves. If the word does
not decode, the step is the trap ILLOP with TVAL the word. If the fetch is stopped, the step takes the fetch's own trap or waits. Outside a
handler just entered and a YIELD that is over, the state in which the word is fetched is the present one but for the cycle and the acting
context. -/
def Obligations.StepRunsTheDecodedWord : Prop :=
  ∀ (s : State) (d : Due) (c : BitVec 7) (x : CtxSel), s.agenda = [] → s.events = [] → nextDue s = some d → d.ev = ⟨.ctx c x, none⟩ →
    let s0 : State := { s with now := max s.now d.at_, cur := .ctx c x }
    let s1 := goOn s0
    (curCtx s0).refused = none → ((curCtx s0).drain = true → ∀ p ∈ (curCtx s0).pend, p.await = none) → boundaryRow s1 = none →
    (∀ w s2 i, fetchWord s1 = .ok (w, s2) → decodeD w = some i → step s = exec i s2) ∧
    (∀ w s2, fetchWord s1 = .ok (w, s2) → decodeD w = none → step s = .next (takeTrap tILLOP (wd w) s2)) ∧
    (∀ e, fetchWord s1 = .error e → step s = .next (stopped e s1)) ∧
    ((curCtx s0).drain = false → (∀ k, (coreOf s0 c.toNat).yieldAt = some k → s0.now ≤ k) → s1 = s0)

/-- When the address of the next word translates for a fetch to a physical address and the range check allows it: with the block in the core's
instruction cache, the word is the four bytes of that cached block; with no block cached and no copy of the line in the die's L2, the word
is the four bytes that memory holds there, little-endian, and the whole block is cached. A fetch changes no byte of memory. -/
def Obligations.FetchReadsTheBlock : Prop :=
  ∀ (s s1 : State) (pa : Nat), pa % 4 = 0 → fetchPa (curCtx s).pc s = .ok (pa, s1) →
    (∀ b, tget? (coreOf s1 (curCore s1)).icache (pa / 64) = some b →
      fetchWord s = .ok (b.toNat / 2^(8 * (pa % 64)) % 2^32, s1)) ∧
    (tget? (coreOf s1 (curCore s1)).icache (pa / 64) = none → hasBad s1 pa 4 = false → tget? (dieOf s1 (dieOfCore (curCore s1))).l2 (pa / 128) = none →
      ∃ t, fetchWord s = .ok (rdN s1.mem pa 4, t) ∧ SameMem s t ∧
        tget? (coreOf t (curCore s1)).icache (pa / 64) = some (BitVec.ofNat 512 (rdN s1.mem (pa / 64 * 64) 64)))

/-- In every state in which nothing in flight keeps the word from issuing and from reading its sources, the ALU words other than DIV, DIVU, REM
and REMU complete: d takes the result of R113's table within one cycle, for MUL, MULH, MULHU and MADD within three (a write to g0 is
discarded), the program counter moves on by 4, and no other register, predicate, special register, byte of memory, context or unit changes.
Shifts and rotates take the amount modulo 64; MULH and MULHU give the high half of the signed and unsigned product; MADD adds the low half
to its destination's value at issue; CLZ and CTZ give 64 for zero; BSWAP reverses the eight bytes; SEXT and ZEXT take 8, 16 or 32 bits by
the width code. -/
def Obligations.AluResults : Prop :=
  (
  ∀ (w : G3) (s : State), Readable s [w.a.toNat, w.b.toNat] [w.d.toNat] →
    let x := reg s w.a.toNat
    let y := reg s w.b.toNat
    Computes (.add w) s w.st w.d (x + y) 1 ∧
    Computes (.sub w) s w.st w.d (x - y) 1 ∧
    Computes (.and w) s w.st w.d (x &&& y) 1 ∧
    Computes (.or w) s w.st w.d (x ||| y) 1 ∧
    Computes (.xor w) s w.st w.d (x ^^^ y) 1 ∧
    Computes (.andn w) s w.st w.d (x &&& ~~~y) 1 ∧
    Computes (.shl w) s w.st w.d (x <<< (y &&& 63).toNat) 1 ∧
    Computes (.shr w) s w.st w.d (x >>> (y &&& 63).toNat) 1 ∧
    Computes (.sra w) s w.st w.d (x.sshiftRight (y &&& 63).toNat) 1 ∧
    Computes (.rol w) s w.st w.d (x.rotateLeft (y &&& 63).toNat) 1 ∧
    Computes (.min w) s w.st w.d (if x.toInt < y.toInt then x else y) 1 ∧
    Computes (.max w) s w.st w.d (if y.toInt < x.toInt then x else y) 1 ∧
    Computes (.minu w) s w.st w.d (if x.toNat < y.toNat then x else y) 1 ∧
    Computes (.maxu w) s w.st w.d (if y.toNat < x.toNat then x else y) 1) ∧
  (
  ∀ (w : G3) (s : State),
    let x := reg s w.a.toNat
    let y := reg s w.b.toNat
    (Readable s [w.a.toNat, w.b.toNat] [w.d.toNat] →
      Computes (.mul w) s w.st w.d (x * y) 3 ∧
      Computes (.mulh w) s w.st w.d (BitVec.ofInt 64 (x.toInt * y.toInt / 2^64)) 3 ∧
      Computes (.mulhu w) s w.st w.d (BitVec.ofNat 64 (x.toNat * y.toNat / 2^64)) 3) ∧
    (Readable s [w.a.toNat, w.b.toNat, w.d.toNat] [w.d.toNat] →
      Computes (.madd w) s w.st w.d (reg s w.d.toNat + x * y) 3)) ∧
  (
  ∀ (v : G2) (w : G3) (s : State),
    (Readable s [v.a.toNat] [v.d.toNat] →
      let x := reg s v.a.toNat
      (∀ n, (x = 0 ∧ n = 64) ∨ (n < 64 ∧ x.toNat / 2^(63 - n) = 1) → Computes (.clz v) s v.st v.d (BitVec.ofNat 64 n) 1) ∧
      (∀ n, (x = 0 ∧ n = 64) ∨ (n < 64 ∧ x.toNat % 2^(n + 1) = 2^n) → Computes (.ctz v) s v.st v.d (BitVec.ofNat 64 n) 1) ∧
      Computes (.popc v) s v.st v.d (BitVec.ofNat 64 ((List.range 64).countP fun k => x.getLsbD k)) 1 ∧
      ∃ r : Word, (∀ k, k < 8 → r.extractLsb' (8 * k) 8 = x.extractLsb' (8 * (7 - k)) 8) ∧ Computes (.bswap v) s v.st v.d r 1) ∧
    (Readable s [w.a.toNat] [w.d.toNat] →
      let x := reg s w.a.toNat
      (w.b = 0 → Computes (.sext w) s w.st w.d ((x.setWidth 8).signExtend 64) 1 ∧
        Computes (.zext w) s w.st w.d ((x.setWidth 8).setWidth 64) 1) ∧
      (w.b = 1 → Computes (.sext w) s w.st w.d ((x.setWidth 16).signExtend 64) 1 ∧
        Computes (.zext w) s w.st w.d ((x.setWidth 16).setWidth 64) 1) ∧
      (w.b = 2 → Computes (.sext w) s w.st w.d ((x.setWidth 32).signExtend 64) 1 ∧
        Computes (.zext w) s w.st w.d ((x.setWidth 32).setWidth 64) 1)))

/-- In every state in which the word can issue and read its sources, DIV, DIVU, REM and REMU complete with the results of R113 (all ones or the
dividend by zero, the dividend or 0 for the overflowing quotient, else truncation toward zero) and no other effect, and the result stays
interlocked until exactly 4 + ceil(n / 2) cycles later, n the significant bits of the magnitude of the truncated quotient, or 4 cycles for a
division by zero and for (-2^63) / (-1); REM and REMU take the cycles of DIV and DIVU. -/
def Obligations.DivideResults : Prop :=
  ∀ (w : G3) (s : State) (n m : Nat), Readable s [w.a.toNat, w.b.toNat] [w.d.toNat] →
    let x := reg s w.a.toNat
    let y := reg s w.b.toNat
    let overflow : Prop := x = 0x8000000000000000 ∧ y = 0xFFFFFFFFFFFFFFFF
    let special : Prop := y = 0 ∨ overflow
    (¬ special → (x.toInt.tdiv y.toInt).natAbs < 2^n ∧ (n = 0 ∨ 2^(n - 1) ≤ (x.toInt.tdiv y.toInt).natAbs)) → (special → n = 0) →
    (y ≠ 0 → x.toNat / y.toNat < 2^m ∧ (m = 0 ∨ 2^(m - 1) ≤ x.toNat / y.toNat)) → (y = 0 → m = 0) →
    (∀ i, i = .div w ∨ i = .rem w → ∃ t, exec i s = .next t ∧
      lockDue (curCtx t).pend (physReg (curCtx t) w.d.toNat) = s.now + (4 + (n + 1) / 2)) ∧
    (∀ i, i = .divu w ∨ i = .remu w → ∃ t, exec i s = .next t ∧
      lockDue (curCtx t).pend (physReg (curCtx t) w.d.toNat) = s.now + (4 + (m + 1) / 2)) ∧
    Computes (.div w) s w.st w.d (if y = 0 then 0xFFFFFFFFFFFFFFFF else if overflow then x else BitVec.ofInt 64 (x.toInt.tdiv y.toInt))
      (4 + (n + 1) / 2) ∧
    Computes (.rem w) s w.st w.d (if y = 0 then x else if overflow then 0 else BitVec.ofInt 64 (x.toInt - x.toInt.tdiv y.toInt * y.toInt))
      (4 + (n + 1) / 2) ∧
    Computes (.divu w) s w.st w.d (if y = 0 then 0xFFFFFFFFFFFFFFFF else BitVec.ofNat 64 (x.toNat / y.toNat)) (4 + (m + 1) / 2) ∧
    Computes (.remu w) s w.st w.d (if y = 0 then x else BitVec.ofNat 64 (x.toNat % y.toNat)) (4 + (m + 1) / 2)

/-- In every state in which the word can issue and read its source, ADDI, ANDI, ORI, XORI and MULI act on the sign-extended 12-bit immediate
(MULI within three cycles, the others within one), SHLI, SHRI, SRAI and ROLI shift by n, LDI writes the sign-extended 17-bit immediate, and
LDHI shifts its destination left by 16 and puts the 16-bit immediate in; none has another effect. -/
def Obligations.ImmediateResults : Prop :=
  ∀ (w : RiW) (v : ShW) (l : RlW) (h : LdhiW) (s : State),
    (Readable s [w.a.toNat] [w.d.toNat] →
      let x := reg s w.a.toNat
      let y := w.i.signExtend 64
      Computes (.addi w) s w.st w.d (x + y) 1 ∧ Computes (.andi w) s w.st w.d (x &&& y) 1 ∧
      Computes (.ori w) s w.st w.d (x ||| y) 1 ∧ Computes (.xori w) s w.st w.d (x ^^^ y) 1 ∧
      Computes (.muli w) s w.st w.d (x * y) 3) ∧
    (Readable s [v.a.toNat] [v.d.toNat] →
      let x := reg s v.a.toNat
      Computes (.shli v) s v.st v.d (x <<< v.n.toNat) 1 ∧ Computes (.shri v) s v.st v.d (x >>> v.n.toNat) 1 ∧
      Computes (.srai v) s v.st v.d (x.sshiftRight v.n.toNat) 1 ∧ Computes (.roli v) s v.st v.d (x.rotateLeft v.n.toNat) 1) ∧
    (Readable s [] [l.d.toNat] → Computes (.ldi l) s l.st l.d (l.i.signExtend 64) 1) ∧
    (Readable s [h.d.toNat] [h.d.toNat] →
      Computes (.ldhi h) s h.st h.d ((reg s h.d.toNat <<< 16) ||| h.i.setWidth 64) 1)

/-- CMP is major 0x0A in the CMP format, CMPI major 0x0B in the CMPI format. In every state in which the word can issue and read its sources,
CMP and CMPI complete: pd takes the combination (set, AND, OR or XOR with its old value) of the condition that the cond code names, on the
two sources or on the source and the sign-extended 9-bit immediate; a write to p0 is discarded; no register, other predicate, special
register, byte of memory, context or unit changes. -/
def Obligations.CompareWords : Prop :=
  ∀ (w : CmpW) (v : CmpiW) (s : State) (b : Bool),
    (Readable s [w.a.toNat, w.b.toNat] [] → (b = true ↔ Condition w.n (reg s w.a.toNat) (reg s w.b.toNat)) →
      SetsPred (.cmp w) s w.st w.p (combined w.c (prd (curCtx s) w.p.toNat) b)) ∧
    (Readable s [v.a.toNat] [] → (b = true ↔ Condition v.n (reg s v.a.toNat) (v.i.signExtend 64)) →
      SetsPred (.cmpi v) s v.st v.p (combined v.c (prd (curCtx s) v.p.toNat) b)) ∧
    encode (.cmp w) = some (32, wordHead 0x0A w.q w.st + w.p.toNat * 2^19 + w.c.toNat * 2^17 + w.a.toNat * 2^12 + w.b.toNat * 2^7 +
      w.n.toNat * 2^4) ∧
    encode (.cmpi v) = some (32, wordHead 0x0B v.q v.st + v.p.toNat * 2^19 + v.c.toNat * 2^17 + v.a.toNat * 2^12 + v.n.toNat * 2^9 +
      v.i.toNat)

/-- PLOG is major 0x0C with the function's code 0 to 7 in bits 12 to 10; a word of that major with nonzero bits 9 to 0 does not decode, and a
context at such a word takes ILLOP (StepRunsTheDecodedWord). In every state the eight PLOG words complete: P[pd] takes f(P[pa], P[pb]) with
f the function of the suffix (ANDN is pa AND NOT pb, ORN is pa OR NOT pb), any of p0 to p7 may be a source and p0 reads true, a write to p0
is discarded, and nothing else changes. -/
def Obligations.PredicateLogic : Prop :=
  ∀ (w : PlW) (s : State),
    let a := prd (curCtx s) w.a.toNat
    let b := prd (curCtx s) w.b.toNat
    SetsPred (.plogAnd w) s w.st w.d (a && b) ∧ SetsPred (.plogOr w) s w.st w.d (a || b) ∧
    SetsPred (.plogXor w) s w.st w.d (xor a b) ∧ SetsPred (.plogAndn w) s w.st w.d (a && !b) ∧
    SetsPred (.plogOrn w) s w.st w.d (a || !b) ∧ SetsPred (.plogNand w) s w.st w.d (!(a && b)) ∧
    SetsPred (.plogNor w) s w.st w.d (!(a || b)) ∧ SetsPred (.plogXnor w) s w.st w.d (!(xor a b)) ∧
    prd (curCtx s) 0 = true ∧
    (let h := wordHead 0x0C w.q w.st + w.d.toNat * 2^19 + w.a.toNat * 2^16 + w.b.toNat * 2^13
     encode (.plogAnd w) = some (32, h) ∧ encode (.plogOr w) = some (32, h + 1 * 2^10) ∧ encode (.plogXor w) = some (32, h + 2 * 2^10) ∧
     encode (.plogAndn w) = some (32, h + 3 * 2^10) ∧ encode (.plogOrn w) = some (32, h + 4 * 2^10) ∧
     encode (.plogNand w) = some (32, h + 5 * 2^10) ∧ encode (.plogNor w) = some (32, h + 6 * 2^10) ∧
     encode (.plogXnor w) = some (32, h + 7 * 2^10)) ∧
    ∀ n, n / 2^26 = 0x0C → n % 2^10 ≠ 0 → decodeD n = none

/-- In every state in which the word can issue and read its sources, PGET writes the value whose bit 0 is 1, bits 7 to 1 are p7 to p1 and the
rest zero; PSET writes p1 to p7 from bits 1 to 7 of its source and ignores bit 0 and bits 63 to 8, so that PSET of a value that PGET wrote
restores all eight predicates; both are major 0x0D, with MIN 0 and 1. SEL, major 0x0E with the predicate in bits 6 to 4, writes its first
source where its predicate holds and its second otherwise. None has another effect. -/
def Obligations.PredicateGroupAndSelect : Prop :=
  ∀ (s : State),
    (∀ w : PgetW, Readable s [] [w.d.toNat] →
      ∃ v : Word, (∀ k, v.getLsbD k = (decide (k < 8) && prd (curCtx s) k)) ∧ Computes (.pget w) s w.st w.d v 1) ∧
    (∀ w : PsetW, Readable s [w.a.toNat] [] →
      ∃ t, exec (.pset w) s = .next t ∧ Retired s t w.st ∧
        (∀ k, k < 8 → prd (curCtx t) k = (decide (k = 0) || (reg s w.a.toNat).getLsbD k)) ∧ SameRegs s t ∧ SameSpecial s t ∧ Kept s t) ∧
    (∀ w : SelW, Readable s [w.a.toNat, w.b.toNat] [w.d.toNat] →
      Computes (.sel w) s w.st w.d (if prd (curCtx s) w.p.toNat then reg s w.a.toNat else reg s w.b.toNat) 1) ∧
    (∀ w : PgetW, encode (.pget w) = some (32, wordHead 0x0D w.q w.st + w.d.toNat * 2^17 + 1)) ∧
    (∀ w : PsetW, encode (.pset w) = some (32, wordHead 0x0D w.q w.st + w.a.toNat * 2^12)) ∧
    ∀ w : SelW, encode (.sel w) = some (32, wordHead 0x0E w.q w.st + w.d.toNat * 2^17 + w.a.toNat * 2^12 + w.b.toNat * 2^7 + w.p.toNat * 2^4)

/-- For a word that reads one register (ADDI) whose latest result in flight is not interlocked and not yet due: with CHECK set in MODE the word
takes STALL_SHORT with TVAL the register number in bits 7 to 0 and the cycles that remain in bits 15 to 8; with CHECK clear the word
completes, and its result is that of the register's old value or of its new one. -/
def Obligations.EarlyReads : Prop :=
  ∀ (w : RiW) (s : State), awaited (curCtx s) [w.a.toNat, w.d.toNat] = none → lockAll (curCtx s) [w.a.toNat, w.d.toNat] ≤ s.now → w.a ≠ 0 → w.d ≠ 0 →
    s.now < dueOf (curCtx s).pend (physReg (curCtx s) w.a.toNat) →
    ((curMode s).getLsbD 0 = true →
      Traps (.addi w) s 0x05 (wd (w.a.toNat + 256 * (dueOf (curCtx s).pend (physReg (curCtx s) w.a.toNat) - s.now)))) ∧
    ((curMode s).getLsbD 0 = false → ∃ t, exec (.addi w) s = .next t ∧ Retired s t w.st ∧
      (reg t w.d.toNat = reg s w.a.toNat + w.i.signExtend 64 ∨
        reg t w.d.toNat = gNow (curCtx s) s.now w.a.toNat + w.i.signExtend 64))

/-- In every state in which MFC can issue it writes the CSR's value to its destination within two cycles and has no other effect. CTXID reads 0,
1 or 2 for context L, C or S; COREID reads the package core id (local id in bits 4 to 0, die in bits 6 and 5); PEERID reads the peer number
and its valid bit; DIECYC reads the die's cycle count; TCAUSE, TPC, TVAL, TVEC, UVEC, TOKENS and CTXST read the context's own registers;
CTXST's fields stand where R102 puts them. -/
def Obligations.CsrReads : Prop :=
  ∀ (w : MfcW) (s : State),
    (Readable s [] [w.d.toNat] → Computes (.mfc w) s w.st w.d (csrRead s w.c.toNat) 2) ∧
    csrRead s 0x009 = (match curSel s with
      | .L => 0
      | .C => 1
      | .S => 2) ∧
    csrRead s 0x00A = BitVec.ofNat 64 (curCore s) ∧
    csrRead s 0x00B = BitVec.ofNat 64 (s.peer.toNat + if s.peerValid then 2^12 else 0) ∧
    csrRead s 0x00C = BitVec.ofNat 64 (s.now + (dieOf s (dieOfCore (curCore s))).cycAdd) ∧
    csrRead s 0x002 = (curCtx s).tcause.setWidth 64 ∧ csrRead s 0x003 = (curCtx s).tpc ∧ csrRead s 0x004 = (curCtx s).tval ∧
    csrRead s 0x005 = (curCtx s).tvec ∧ csrRead s 0x006 = (curCtx s).uvec ∧ csrRead s 0x008 = (curCtx s).tokens.setWidth 64 ∧
    ((curCtx s).uq.length ≤ 16 → (csrRead s 0x00E).getLsbD 0 = (curCtx s).priv ∧ (csrRead s 0x00E).getLsbD 1 = (curCtx s).ppriv ∧
      (csrRead s 0x00E).getLsbD 2 = (curCtx s).uie ∧ (csrRead s 0x00E).getLsbD 3 = (curCtx s).uiact ∧
      (csrRead s 0x00E).toNat / 16 = (curCtx s).uq.length)

/-- In every state in which MTC can issue and read its source: at user level an MTC to a CSR that is read-only there raises PRIV with TVAL the
word and has no effect; otherwise it completes, no general register, predicate or byte of memory changes, and from the next cycle on the
same context reads the new value in the fields that may be written: UVEC and TVEC without bits 5 to 0, MBXSEL bit 0, at user level
CTXST.UIE; at privileged level TCAUSE, TPC, TVAL, STOPAT, MODE, and NBV where the value is 1, 2 or 3 and otherwise keeps its value; a
privileged MTC to CTXID, COREID, PEERID or DIECYC changes nothing. -/
def Obligations.CsrWrites : Prop :=
  ∀ (w : MtcW) (s : State), Readable s [w.a.toNat] [] →
    let v := reg s w.a.toNat
    let n := w.c.toNat
    ((curCtx s).priv = false → userReadOnly n = true → Traps (.mtc w) s 0x02 (wordOf (.mtc w))) ∧
    (((curCtx s).priv = true ∨ userReadOnly n = false) → ∃ t, exec (.mtc w) s = .next t ∧ Retired s t w.st ∧ SameRegs s t ∧
      SamePreds s t ∧ SameMem s t ∧
      (n = 0x006 → readNext t n = v &&& 0xFFFFFFFFFFFFFFC0) ∧
      (n = 0x00D → readNext t n = v &&& 1) ∧
      (n = 0x00E → (readNext t n).getLsbD 2 = v.getLsbD 2 ∧
        (readNext t n).getLsbD 1 = if (curCtx s).priv then v.getLsbD 1 else (curCtx s).ppriv) ∧
      ((curCtx s).priv = true →
        (n = 0x000 → readNext t n = if v.setWidth 8 = (1 : BitVec 8) ∨ v.setWidth 8 = (2 : BitVec 8) ∨ v.setWidth 8 = (3 : BitVec 8)
          then (v.setWidth 8).setWidth 64 else (partOf s (curPart s)).nbv.setWidth 64) ∧
        (n = 0x001 → readNext t n = (v.setWidth 8).setWidth 64) ∧
        (n = 0x002 → readNext t n = (v.setWidth 8).setWidth 64) ∧
        (n = 0x003 ∨ n = 0x004 ∨ n = 0x029 → readNext t n = v) ∧
        (n = 0x005 → readNext t n = v &&& 0xFFFFFFFFFFFFFFC0) ∧
        (n = 0x009 ∨ n = 0x00A ∨ n = 0x00B ∨ n = 0x00C → SameSpecial s t ∧ Kept s t)))

/-- BR is a taken branch to the block of the word plus off18 blocks if P[p] XOR neg is true, and otherwise only retires, honouring its stall
count: BR p0 always branches, BR.N p0 never. JMP always branches to the block plus off22 blocks; CALL does so and writes g31 with the block
after the word's, once no interlock holds g31. The target of R47 is the block of the branch word plus the signed offset in blocks of 64
bytes. A taken branch kills the squashable words in flight, leaves the first word at the target to the third cycle, and changes nothing
else. The encodings are major 0x19 (B format), 0x1A and 0x1B (J format). -/
def Obligations.DirectBranches : Prop :=
  ∀ (w : BrW) (j : JW) (s : State),
    (xor (prd (curCtx s) w.p.toNat) w.n = true →
      Jumps (.br w) s w.st (blockStart (curCtx s).pc + w.i.signExtend 64 * 64) none) ∧
    (xor (prd (curCtx s) w.p.toNat) w.n = false →
      ∃ t, exec (.br w) s = .next t ∧ Retired s t w.st ∧ SameRegs s t ∧ SamePreds s t ∧ SameSpecial s t ∧ Kept s t) ∧
    (w.p = 0 → xor (prd (curCtx s) w.p.toNat) w.n = !w.n) ∧
    Jumps (.jmp j) s j.st (blockStart (curCtx s).pc + j.i.signExtend 64 * 64) none ∧
    (Readable s [] [31] →
      Jumps (.call j) s j.st (blockStart (curCtx s).pc + j.i.signExtend 64 * 64) (some (blockStart (curCtx s).pc + 64))) ∧
    encode (.br w) = some (32, wordHead 0x19 false w.st + w.p.toNat * 2^19 + w.n.toNat * 2^18 + w.i.toNat) ∧
    encode (.jmp j) = some (32, wordHead 0x1A false j.st + j.i.toNat) ∧
    encode (.call j) = some (32, wordHead 0x1B false j.st + j.i.toNat)

/-- In every state in which the word can issue and read its target (G[a] for JMPR and CALLR, g31 for RET): a target with bits 5 to 0 zero is
branched to, CALLR also writing g31 with the block after its own, from the old value of the target where that is g31 itself; any other
target raises ALIGN_BR with TVAL the target, and the word writes no g31 and kills no word. -/
def Obligations.RegisterBranches : Prop :=
  ∀ (w : A1W) (r : S0W) (s : State),
    (Readable s [w.a.toNat] [] →
      ((reg s w.a.toNat).toNat % 64 = 0 → Jumps (.jmpr w) s w.st (reg s w.a.toNat) none) ∧
      ((reg s w.a.toNat).toNat % 64 ≠ 0 → Traps (.jmpr w) s 0x03 (reg s w.a.toNat))) ∧
    (Readable s [w.a.toNat] [31] →
      ((reg s w.a.toNat).toNat % 64 = 0 → Jumps (.callr w) s w.st (reg s w.a.toNat) (some (blockStart (curCtx s).pc + 64))) ∧
      ((reg s w.a.toNat).toNat % 64 ≠ 0 → Traps (.callr w) s 0x03 (reg s w.a.toNat))) ∧
    (Readable s [31] [] →
      ((reg s 31).toNat % 64 = 0 → Jumps (.ret r) s r.st (reg s 31) none) ∧
      ((reg s 31).toNat % 64 ≠ 0 → Traps (.ret r) s 0x03 (reg s 31)))

/-- TRAP takes TRAPI and, outside a debug stop, BKPT takes BKPT, each with TVAL the 16-bit immediate: TPC takes the word's address, PPRIV takes
PRIV, the context runs privileged from TVEC in the third cycle with every result in flight written (one that another package or die answers
when it comes), and no other register, predicate, byte of memory, context or unit changes. At user level ERET and TLBINV raise PRIV, and
with UIACT = 0 UIRET raises ILLOP, with TVAL the word. With the core's stop on breakpoints enabled, as the context sees it, BKPT stops the
core instead and takes no trap; resumed, it retires. -/
def Obligations.TrapEntry : Prop :=
  ∀ (w : ImmW) (v : S0W) (u : TlbW) (s : State),
    let passed : Prop := (curCtx s).passAt = some (curCtx s).pc
    Traps (.trapWord w) s 0x15 (w.i.setWidth 64) ∧
    (¬ passed → (curDbg s).getLsbD 0 = false → Traps (.bkpt w) s 0x16 (w.i.setWidth 64)) ∧
    (¬ passed → (curDbg s).getLsbD 0 = true →
      ∃ t, exec (.bkpt w) s = .next t ∧ (coreOf t (curCore s)).stopped = true ∧ (curCtx t).pc = (curCtx s).pc ∧
        (curCtx t).pend = (curCtx s).pend ∧ SameRegs s t ∧ SamePreds s t ∧ SameSpecial s t ∧ SameMem s t ∧ (curCtx t).passAt = some (curCtx s).pc) ∧
    (passed →
      ∃ t, exec (.bkpt w) s = .next t ∧ Retired s t w.st ∧ SameRegs s t ∧ SamePreds s t ∧ SameSpecial s t ∧ Kept s t) ∧
    ((curCtx s).priv = false → Traps (.eret v) s 0x02 (wordOf (.eret v)) ∧ Traps (.tlbinv u) s 0x02 (wordOf (.tlbinv u))) ∧
    ((curCtx s).uiact = false → Traps (.uiret v) s 0x01 (wordOf (.uiret v)))

/-- At privileged level ERET is a taken branch to TPC with bits 1 and 0 ignored, and PRIV takes PPRIV; no other special register changes. In a
user-interrupt handler UIRET is a taken branch to shadow g24 with bits 1 and 0 ignored, UIACT becomes 0, and g24 to g31 again name the
normal bank; no other special register changes. Neither changes a predicate, memory, another context or a unit. A trap followed by ERET at a
handler's first word returns to the word that trapped at its own level. -/
def Obligations.ReturnsFromHandlers : Prop :=
  ∀ (w : S0W) (s : State),
    ((curCtx s).priv = true → ∃ t, exec (.eret w) s = .next t ∧ Branched s t w.st ((curCtx s).tpc &&& 0xFFFFFFFFFFFFFFFC) ∧
      (curCtx t).special = { (curCtx s).special with priv := (curCtx s).ppriv } ∧ SamePreds s t ∧ Kept s t ∧
      ∀ r, r < 32 → reg t r = gFinal (squashed s) r) ∧
    ((curCtx s).uiact = true → Readable s [24] [] →
      ∃ t, exec (.uiret w) s = .next t ∧ Branched s t w.st (reg s 24 &&& 0xFFFFFFFFFFFFFFFC) ∧
        (curCtx t).special = { (curCtx s).special with uiact := false } ∧ SamePreds s t ∧ Kept s t ∧
        ∀ r, r < 32 → reg t r =
          gFinal { squashed s with uiact := false } r) ∧
    (∀ (i : ImmW) (t : State), (curCtx s).pc.toNat % 4 = 0 → exec (.trapWord i) s = .next t →
      ∃ u, exec (.eret w) t = .next u ∧ (curCtx u).pc = (curCtx s).pc ∧ (curCtx u).priv = (curCtx s).priv ∧ SamePreds s u ∧
        ∀ r, r < 32 → awaited (curCtx s) [r] = none → reg u r = reg s r)

/-- NOP only retires. EXIT, once every earlier word of its context has completed and no refused store is to be reported, ends the stream: the
context is no longer live, its user-interrupt queue is empty, and every register keeps its value. YIELD lets the context go on three cycles
later at the earliest with every result in flight written; where another crew waits for the team's place it marks the team as yielding, else
it does no more. MARK, once every earlier word has completed, advances the mark index, empties the log, changes memory only inside its
core's system area, and is accepted 5 cycles later. WFE completes where the event latch is set, and clears it, in the cycle before where a
SEV of that cycle set it after the sleeping word had looked; else it waits. SEV, as a word that is performed, sets the latch of each named
context of the core that has not executed EXIT and of no other, and adds its entry to the log. -/
def Obligations.SystemWords : Prop :=
  ∀ (w : S0W) (m : SevW) (s : State),
    (∃ t, exec (.nop w) s = .next t ∧ Retired s t w.st ∧ SameRegs s t ∧ SamePreds s t ∧ SameSpecial s t ∧ Kept s t) ∧
    (Quiet s → (curCtx s).rerrValid = false →
      ∃ t, exec (.exit w) s = .next t ∧ (curCtx t).live = false ∧ (curCtx t).uq = [] ∧ Landed s t ∧ SamePreds s t ∧ Kept s t) ∧
    (let c := curCore s
     let wanted : Prop := ∃ n sl k, holderOf s (dieOfCore c) c = some (n, sl, k) ∧ placeWanted s (dieOfCore c) (sl.crew k).cores = true ∧
       (sl.crew k).cores.length ≤ (partOf s sl.part).frames
     ∃ t, exec (.yield w) s = .next t ∧ (curCtx t).pc = (curCtx s).pc + 4 ∧ (curCtx t).ready = s.now + max 3 (1 + w.st.toNat) ∧
       Landed s t ∧ SamePreds s t ∧ OthersKept s t ∧ SameMem s t ∧ (¬ wanted → Kept s t) ∧
       (wanted → (coreOf t c).yieldAt = some ((coreOf s c).yieldAt.getD s.now)) ∧
       { (curCtx t).special with drain := false } = { (curCtx s).special with drain := false }) ∧
    (Quiet s →
      ∃ t, exec (.mark w) s = .next t ∧ Retired s t w.st ∧ (curCtx t).markIdx = (curCtx s).markIdx + 1 ∧ (curCtx t).logN = 0 ∧
        (curCtx t).ord = 0 ∧ (curCtx t).accept.map (·.at_) = some (s.now + 5) ∧ Landed s t ∧ SamePreds s t ∧ OthersKept s t ∧
        ∀ k, (k < scrKey (curCore s) 0x2F2000 ∨ scrKey (curCore s) 0x300000 ≤ k) → byteAt t k = byteAt s k) ∧
    ((curCtx s).latch = true → ∃ t, exec (.wfe w) s = .next t ∧ (curCtx t).pc = (curCtx s).pc + 4 ∧
      (curCtx t).ready = (if (curCtx s).latchAt + 1 = s.now ∧ (∃ k, (curCtx s).waiting = some k ∧ k.kind = 5 ∧ k.since < s.now) then s.now
        else s.now + 1) + w.st.toNat ∧ (curCtx t).special = { (curCtx s).special with latch := (curCtx s).relatch, relatch := false } ∧ SameRegs s t ∧ SamePreds s t ∧ Kept s t) ∧
    ((curCtx s).latch = false → Waits (.wfe w) s 5) ∧
    (Performed s →
      ∃ t, exec (.sev m) s = .next t ∧ Retired s t m.st ∧ SameRegs s t ∧ SamePreds s t ∧ (curCtx t).ord = (curCtx s).ord + 1 ∧
        (∀ c x, (ctxOf t c x).latch = ((ctxOf s c x).latch || (decide (c = curCore s) && m.m.getLsbD (ctxNum x) && (ctxOf s c x).live))) ∧
        ∀ k, (k < scrKey (curCore s) (logOff (curSel s) (curCtx s).ord) ∨ scrKey (curCore s) (logOff (curSel s) (curCtx s).ord) + 16 ≤ k) →
          byteAt t k = byteAt s k)

/-- Once every earlier word of the context has completed (at context scope at once) and, for FENCE.ENG, every launch, packet and halo step it
issued, a FENCE completes with no general register or predicate changed. At context, core or die scope nothing else changes. At package
scope or wider FULL and REL leave no line in the die's L2 dirty for the core, and FULL, ACQ and ENG leave the core's L1 empty and no copy of
a line in the die's L2. At fabric scope a recorded refusal of a remote store is first reported as XLATE, with RERR.VALID cleared. FENCE.ENG
with such work outstanding waits. -/
def Obligations.FenceWords : Prop :=
  (∀ (v : FenceW) (s : State), (curCtx s).engOut ≠ [] → Waits (.fenceEng v) s kQuiet) ∧
  ∀ (w : FenceW) (s : State) (i : Instr),
    (i = .fenceFull w ∨ i = .fenceAcq w ∨ i = .fenceRel w ∨ i = .fenceEng w) → (w.e = 0 ∨ Quiet s) →
    (i = .fenceEng w → (curCtx s).engOut = []) →
    (w.e = 5 → (curCtx s).rerrValid = true → ∃ t, exec i s = .next t ∧ (curCtx t).tcause = 0x08 ∧
      (curCtx t).tval = (curCtx s).rerrVa.setWidth 64 ∧ (curCtx t).rerrValid = false ∧ (curCtx t).priv = true ∧ (curCtx t).tpc = (curCtx s).pc ∧ Landed s t ∧ SameMem s t) ∧
    ((w.e = 5 → (curCtx s).rerrValid = false) → ∃ t, exec i s = .next t ∧ Retired s t w.st ∧ SameRegs s t ∧ SamePreds s t ∧
      SameSpecial s t ∧ (w.e.toNat < 3 → Kept s t) ∧
      (3 ≤ w.e.toNat → (i = .fenceFull w ∨ i = .fenceRel w) →
        Released t) ∧ (3 ≤ w.e.toNat → i ≠ .fenceRel w → Acquired t) ∧ KeptElse s t)

/-- In every state in which the word can issue and read its sources, a request entry is free and no watchpoint is set: where the address (base
plus the displacement times the size, or base plus index) is aligned, translated and allowed and its bytes are defined and free of errors,
LD and LDX complete and d takes the bytes little-endian, sign- or zero-extended; a scratchpad and a home address are read where they are,
also through the package's own export window, a line that the core's die copies from the core's L1 copy, else the die's L2 copy, else its
home, a strong access to it at its home once the die's copy is written back; a knock word reads 0. One request entry is held; no predicate,
no other register, no context, engine or unit changes; but for that write-back no byte of memory, save that an acquiring load drops every
copy of the core and the die. To another package the word completes by sending one read request, and d takes its value with the answer. -/
def Obligations.LoadWords : Prop :=
  ∀ (s : State), EntryFree s → NoWatch s →
    (∀ w : LdW, Readable s [w.a.toNat] [w.d.toNat] →
      LoadAt (.ld w) s w.st w.d w.z w.x w.o (reg s w.a.toNat + w.i.signExtend 64 * BitVec.ofNat 64 (2^w.z.toNat))) ∧
    (∀ w : LdxW, Readable s [w.a.toNat, w.b.toNat] [w.d.toNat] →
      LoadAt (.ldx w) s w.st w.d w.z w.x w.o (reg s w.a.toNat + reg s w.b.toNat))

/-- In every state in which the word can issue and read its sources, a request entry is free and no watchpoint is set: where the address is
aligned, translated and allowed, ST and STX complete and the low 1, 2, 4 or 8 bytes of the data register stand at the address,
little-endian; with plain or strong-local order every other byte of memory is as before. A store to a line that the die copies changes the
die's L2 copy and not its home; a strong one reaches the home behind the copy's write-back; an aligned 8-byte store to a knock word becomes
a knock of that queue; through the package's own export window the same places are reached, and where the window refuses RERR takes the
address; a store to another package leaves as a posted write with those bytes. With release order, once earlier remote accesses are
acknowledged for a remote place, no line stays dirty for the core. No register or predicate changes. -/
def Obligations.StoreWords : Prop :=
  ∀ (s : State), EntryFree s → NoWatch s →
    (∀ w : StW, Readable s [w.a.toNat, w.t.toNat] [] →
      StoreAt (.st w) s w.st w.z w.o (reg s w.t.toNat) (reg s w.a.toNat + w.i.signExtend 64 * BitVec.ofNat 64 (2^w.z.toNat))) ∧
    (∀ w : StxW, Readable s [w.a.toNat, w.b.toNat, w.t.toNat] [] →
      StoreAt (.stx w) s w.st w.z w.o (reg s w.t.toNat) (reg s w.a.toNat + reg s w.b.toNat))

/-- In every state in which the word can issue and read its sources and a request entry is free, loads, stores and the ten atomics raise PROT
where bits 63 to 56 of the address are not zero, and otherwise ALIGN_DATA where it is not a multiple of the access size. For an aligned
address in the 0xFE or 0xFD window, a load raises PROT where the offset lies in 0x30_0000 to 0x3F_FFFF, where any of bits 47 to 22 (0xFE) or
47 to 29 (0xFD) is not zero, and where a 0xFD address reaches another core that is not in the issuing partition; a store does so too, and
where the offset lies in 0x2F_0000 to 0x2F_FFFF; an atomic does so for every scratchpad address. TVAL is the VA, and a refused access has no
effect but the trap. -/
def Obligations.AccessChecks : Prop :=
  (
  ∀ (s : State), EntryFree s → NoWatch s →
    let refused (va : Word) (store : Bool) : Prop :=
      (va.toNat / 2^48 = 0xFE ∨ va.toNat / 2^48 = 0xFD) ∧ va.toNat % 8 = 0 ∧
      (0x300000 ≤ va.toNat % 2^22 ∨ (va.toNat / 2^48 = 0xFE ∧ va.toNat / 2^22 % 2^26 ≠ 0) ∨
        (va.toNat / 2^48 = 0xFD ∧ va.toNat / 2^29 % 2^19 ≠ 0) ∨ (store = true ∧ 0x2F0000 ≤ va.toNat % 2^22) ∨
        (va.toNat / 2^48 = 0xFD ∧ va.toNat / 2^22 % 2^7 ≠ curCore s ∧ coreInPart s (curPart s) (va.toNat / 2^22 % 2^7) = false))
    (∀ w : LdxW, Readable s [w.a.toNat, w.b.toNat] [w.d.toNat] → refused (reg s w.a.toNat + reg s w.b.toNat) false →
      Traps (.ldx w) s 0x09 (reg s w.a.toNat + reg s w.b.toNat)) ∧
    (∀ w : StxW, Readable s [w.a.toNat, w.b.toNat, w.t.toNat] [] → refused (reg s w.a.toNat + reg s w.b.toNat) true →
      Traps (.stx w) s 0x09 (reg s w.a.toNat + reg s w.b.toNat)) ∧
    (∀ w : AtomW, Performed s → Readable s [w.a.toNat, w.b.toNat] [w.d.toNat] → (reg s w.a.toNat).toNat % 8 = 0 →
      ((reg s w.a.toNat).toNat / 2^48 = 0xFE ∨ (reg s w.a.toNat).toNat / 2^48 = 0xFD) →
      ∃ t, exec (.atomAdd w) s = .next t ∧ (curCtx t).tcause = 0x09 ∧ (curCtx t).tval = reg s w.a.toNat ∧ (curCtx t).tpc = (curCtx s).pc ∧
        Landed s t ∧ SamePreds s t ∧ SameMem s t)) ∧
  (
  ∀ (s : State), EntryFree s →
    let code (va : Word) : Nat := if 2^56 ≤ va.toNat then 0x09 else 0x04
    (∀ w : LdxW, Readable s [w.a.toNat, w.b.toNat] [w.d.toNat] → let va := reg s w.a.toNat + reg s w.b.toNat
      (2^56 ≤ va.toNat ∨ va.toNat % 2^w.z.toNat ≠ 0) → Traps (.ldx w) s (code va) va) ∧
    (∀ w : StxW, Readable s [w.a.toNat, w.b.toNat, w.t.toNat] [] → let va := reg s w.a.toNat + reg s w.b.toNat
      (2^56 ≤ va.toNat ∨ va.toNat % 2^w.z.toNat ≠ 0) → Traps (.stx w) s (code va) va) ∧
    (∀ (w : AtomW) (i : Instr), i ∈ [.atomAdd w, .atomAnd w, .atomOr w, .atomXor w, .atomMin w, .atomMax w, .atomMinu w, .atomMaxu w,
        .atomSwap w, .atomCas w] → Performed s → Readable s [w.a.toNat, w.b.toNat, w.d.toNat] [w.d.toNat] → let va := reg s w.a.toNat
      (2^56 ≤ va.toNat ∨ va.toNat % 8 ≠ 0) → ∃ t, exec i s = .next t ∧ (curCtx t).tcause = BitVec.ofNat 8 (code va) ∧
        (curCtx t).tval = va ∧ (curCtx t).tpc = (curCtx s).pc ∧ Landed s t ∧ SamePreds s t ∧ SameMem s t))

/-- In every state in which an atomic is performed, can issue and read its sources, a request entry is free and no watchpoint is set, at an
aligned, translated and allowed address: the die's copy of the line leaves first; d takes the eight bytes there, and they take old +
operand, AND, OR, XOR, the signed or unsigned lesser or greater of the two, the operand, or for CAS the operand where the old value equals
the destination's value at issue and else stay as they are. The word's log entry is appended. At a scope below package no other byte of
memory changes, and no other register, predicate, context or unit. At a knock word d takes 0 and nothing is stored. To another package, once
earlier remote accesses are acknowledged, the word completes by sending one request with its operands, its log entry without DONE, and d
takes the old value with the answer. -/
def Obligations.AtomicWords : Prop :=
  ∀ (w : AtomW) (s : State),
    let ab := [w.a.toNat, w.b.toNat]
    AtomDone (.atomAdd w) s 0 w ab (fun old opd => old + opd) ∧
    AtomDone (.atomAnd w) s 1 w ab (fun old opd => old &&& opd) ∧
    AtomDone (.atomOr w) s 2 w ab (fun old opd => old ||| opd) ∧
    AtomDone (.atomXor w) s 3 w ab (fun old opd => old ^^^ opd) ∧
    AtomDone (.atomMin w) s 4 w ab (fun old opd => if old.toInt < opd.toInt then old else opd) ∧
    AtomDone (.atomMax w) s 5 w ab (fun old opd => if opd.toInt < old.toInt then old else opd) ∧
    AtomDone (.atomMinu w) s 6 w ab (fun old opd => if old.toNat < opd.toNat then old else opd) ∧
    AtomDone (.atomMaxu w) s 7 w ab (fun old opd => if opd.toNat < old.toNat then old else opd) ∧
    AtomDone (.atomSwap w) s 8 w ab (fun _ opd => opd) ∧
    AtomDone (.atomCas w) s 9 w [w.a.toNat, w.b.toNat, w.d.toNat] (fun old opd => if old = reg s w.d.toNat then opd else old)

/-- In every state in which the word can issue and read its register, whatever the address in it, the CACHE words of every form that R259 gives
complete: exec of CACHE.INV at levels 0 to 2, of CLEAN and FLUSH at levels 0 and 1 answers a next state that retires the word, and so does,
in every state, INVALL at levels 0 to 2 and CLEANALL at levels 0 and 1. Further: where no line is named, with no effect; where the line
named is translated and readable, INV at level 0 and FLUSH at level 0 drop the core's L1 copy, INV at level 2 drops both 64-byte blocks of
the line from the instruction cache, CLEAN at level 1 writes the dirty bytes of the die's L2 copy to the line's home, and INV and FLUSH at
level 1 do so and drop the copy; CLEAN at level 0 has no effect. INVALL empties the core's L1, its instruction cache, or, at level 1, writes
back and drops every copy on the die that the core read; CLEANALL at level 1 leaves no line dirty for the core. No register, predicate,
context, engine or unit changes, and memory only by the bytes written back. -/
def Obligations.CacheWords : Prop :=
  ∀ (s : State),
    let c := curCore s
    let d := dieOfCore c
    let written (t : State) (line : Nat) : Prop := ∀ k, byteAt t k =
      match tget? (dieOf s d).l2 line with
      | some x => if 128 * line ≤ k ∧ k < 128 * line + 128 ∧ x.dirty.getLsbD (k - 128 * line) = true
          then x.data.extractLsb' (8 * (k - 128 * line)) 8 else byteAt s k
      | none => byteAt s k
    (∀ w : CacheW, Readable s [w.r.toNat] [] →
      (w.l.toNat ≤ 2 → ∃ t, exec (.cacheInv w) s = .next t ∧ Retired s t w.st ∧ SameRegs s t ∧ SamePreds s t ∧ SameSpecial s t ∧ KeptElse s t) ∧
      (w.l.toNat ≤ 1 → ∃ t, exec (.cacheClean w) s = .next t ∧ Retired s t w.st ∧ SameRegs s t ∧ SamePreds s t ∧ SameSpecial s t ∧ KeptElse s t) ∧
      (w.l.toNat ≤ 1 → ∃ t, exec (.cacheFlush w) s = .next t ∧ Retired s t w.st ∧ SameRegs s t ∧ SamePreds s t ∧ SameSpecial s t ∧ KeptElse s t)) ∧
    (∀ w : CacheAllW,
      (w.l.toNat ≤ 2 → ∃ t, exec (.cacheInvall w) s = .next t ∧ Retired s t w.st ∧ SameRegs s t ∧ SamePreds s t ∧ SameSpecial s t ∧ KeptElse s t) ∧
      (w.l.toNat ≤ 1 → ∃ t, exec (.cacheCleanall w) s = .next t ∧ Retired s t w.st ∧ SameRegs s t ∧ SamePreds s t ∧ SameSpecial s t ∧ KeptElse s t)) ∧
    (∀ w : CacheW, Readable s [w.r.toNat] [] → cacheLine s (reg s w.r.toNat) = none →
      ∀ i ∈ [Instr.cacheInv w, .cacheClean w, .cacheFlush w], Completes i s w.st fun t => SameSpecial s t ∧ Kept s t) ∧
    (∀ w : CacheW, Readable s [w.r.toNat] [] → ∀ line, cacheLine s (reg s w.r.toNat) = some line →
      (w.l = 0 → Completes (.cacheInv w) s w.st (fun t => SameSpecial s t ∧ KeptElse s t ∧ SameMem s t ∧ tget? (coreOf t c).l1 line = none) ∧
        Completes (.cacheFlush w) s w.st (fun t => SameSpecial s t ∧ KeptElse s t ∧ SameMem s t ∧ tget? (coreOf t c).l1 line = none) ∧
        Completes (.cacheClean w) s w.st (fun t => SameSpecial s t ∧ Kept s t)) ∧
      (w.l = 1 →
        Completes (.cacheInv w) s w.st (fun t => SameSpecial s t ∧ KeptElse s t ∧ written t line ∧ tget? (dieOf t d).l2 line = none) ∧
        Completes (.cacheFlush w) s w.st (fun t => SameSpecial s t ∧ KeptElse s t ∧ written t line ∧ tget? (dieOf t d).l2 line = none) ∧
        Completes (.cacheClean w) s w.st (fun t => SameSpecial s t ∧ KeptElse s t ∧ written t line ∧
          ∀ x, tget? (dieOf t d).l2 line = some x → x.dirty = 0)) ∧
      (w.l = 2 → Completes (.cacheInv w) s w.st (fun t => SameSpecial s t ∧ KeptElse s t ∧ SameMem s t ∧
        tget? (coreOf t c).icache (2 * line) = none ∧ tget? (coreOf t c).icache (2 * line + 1) = none))) ∧
    (∀ w : CacheAllW,
      (w.l = 0 → Completes (.cacheInvall w) s w.st (fun t => SameSpecial s t ∧ KeptElse s t ∧ SameMem s t ∧ (coreOf t c).l1 = [])) ∧
      (w.l = 1 → Completes (.cacheInvall w) s w.st (fun t => SameSpecial s t ∧ KeptElse s t ∧ ∀ e ∈ (dieOf t d).l2, c ∉ e.2.readers)) ∧
      (w.l = 2 → Completes (.cacheInvall w) s w.st (fun t => SameSpecial s t ∧ KeptElse s t ∧ SameMem s t ∧ (coreOf t c).icache = [])) ∧
      (w.l = 0 → Completes (.cacheCleanall w) s w.st (fun t => SameSpecial s t ∧ Kept s t)) ∧
      (w.l = 1 → Completes (.cacheCleanall w) s w.st (fun t => SameSpecial s t ∧ KeptElse s t ∧
        ∀ line x, tget? (dieOf t d).l2 line = some x → c ∈ x.writers → x.dirty = 0)))

/-- At privileged level and once every earlier word has completed, TLBINV leaves in every micro-TLB and every die's TLB exactly the entries that
are no victims: an entry of the issuing partition that maps the VA, or with VA all ones every entry of it. PREF completes with a request
entry held and no byte of memory, register or predicate changed; where the die's L2 is full, the line that it gives up for the new one is
written back to its home. BPREF with length zero or a base outside 0x00 to 0xFB writes 16 and does nothing else; otherwise it takes the
lowest free token, writes its number and sets its bit in TOKENS, and with none free waits; its completion clears that bit and nothing else. -/
def Obligations.TlbAndPrefetchWords : Prop :=
  ∀ (s : State),
    (∀ w : TlbW, (curCtx s).priv = true → Readable s [w.r.toNat] [] → Quiet s →
      Completes (.tlbinv w) s w.st fun t => SameSpecial s t ∧ KeptElse s t ∧
        (∀ c e, e ∈ (coreOf t c).utlb ↔ e ∈ (coreOf s c).utlb ∧ tlbVictim (curPart s) (reg s w.r.toNat).toNat e = false) ∧
        ∀ d e, e ∈ (dieOf t d).tlb ↔ e ∈ (dieOf s d).tlb ∧ tlbVictim (curPart s) (reg s w.r.toNat).toNat e = false) ∧
    (∀ e : TlbE, (tlbVictim (curPart s) (2^64 - 1) e = true ↔ e.part.toNat = curPart s)) ∧
    (∀ w : PrefW, Readable s [w.a.toNat] [] → EntryFree s → Completes (.pref w) s w.st fun t => HeldEntry s t ∧ KeptElse s t ∧
      ((dieOf s (dieOfCore (curCore s))).l2.length < l2Cap → SameMem s t) ∧
      (SameMem s t ∨ ∃ line, SameMem (roomL2 s (dieOfCore (curCore s)) line) t)) ∧
    (∀ w : D3W, Readable s [w.a.toNat, w.b.toNat] [w.d.toNat] →
      ((reg s w.b.toNat = 0 ∨ 0xFC * 2^48 ≤ (reg s w.a.toNat).toNat) → Computes (.bpref w) s w.st w.d 16 1) ∧
      (reg s w.b.toNat ≠ 0 → (reg s w.a.toNat).toNat < 0xFC * 2^48 → EntryFree s → ∀ k, k < 16 → (curCtx s).tokens.getLsbD k = false →
        (∀ j, j < k → (curCtx s).tokens.getLsbD j = true) →
        ∃ t, exec (.bpref w) s = .next t ∧ Retired s t w.st ∧ Wrote s t w.d.toNat (BitVec.ofNat 64 k) ∧ SamePreds s t ∧ SameMem s t ∧
          ∀ j, j < 16 → (curCtx t).tokens.getLsbD j = ((curCtx s).tokens.getLsbD j || decide (j = k))) ∧
      (reg s w.b.toNat ≠ 0 → (reg s w.a.toNat).toNat < 0xFC * 2^48 → EntryFree s → (∀ j, j < 16 → (curCtx s).tokens.getLsbD j = true) →
        Waits (.bpref w) s kQuiet)) ∧
    (∀ e : BprefDone, ∃ t, exec (.bprefComplete e) s = .next t ∧ SameMem s t ∧
      ∀ c x j, j < 16 → (ctxOf t c x).tokens.getLsbD j =
        ((ctxOf s c x).tokens.getLsbD j && !(decide (c = e.who.core.toNat) && decide (x = e.who.ctx) && decide (j = e.token.toNat))))

/-- In every state in which the word is performed, can issue and read its sources, a request entry is free, and the id names an unpoisoned
counter of the issuing partition's range that it may change: ADD makes the counter its sum with the delta, clamped to the signed 64-bit
range; SET makes it the value; TRY writes the old value to d and takes a delta from 0 to that value off the counter, leaving it else; RD
writes the value; WAIT completes where the counter, with the wait at its store, has reached the threshold, or did since, and otherwise
waits. A counter of the core's own die is acted on at once; to another die the request is on its way, and the store acts when it arrives, in
the order of arrival; a counter poisoned by then it changes only for a privileged SET. No other counter changes, no predicate, no register
but d, no other context's registers, and with no dirty copy on the die no byte of memory but the log entry. An id with a bit above bit 17
set, or out of range, raises PROT with TVAL the id. -/
def Obligations.SemaphoreWords : Prop :=
  (∀ (s : State), Performed s →
    (∀ (w : A2W) (die idx : Nat), Readable s [w.a.toNat, w.b.toNat] [] → CounterId s (reg s w.a.toNat) die idx →
      hssPoisoned s die idx = false →
      let v := reg s w.b.toNat
      let b := v.toInt
      let same (t : State) : Prop := ∀ d i, hssGet t d i = hssGet s d i
      (((curCtx s).priv = true ∨ hssReserved s die idx = false) → EntryFree s →
        (die = dieOfCore (curCore s) →
          PerformedOnce (.semAdd w) s w.st none (fun _ => False) (fun t => CounterSet s t die idx (clamp64 (hssGet s die idx + b))) ∧
          PerformedOnce (.semSet w) s w.st none (fun _ => False) (fun t => CounterSet s t die idx b)) ∧
        (die ≠ dieOfCore (curCore s) →
          PerformedOnce (.semAdd w) s w.st none (fun _ => False) (fun t => same t ∧ t.farSems = s.farSems ++ [farReq s die idx (.add v)]) ∧
          PerformedOnce (.semSet w) s w.st none (fun _ => False) (fun t =>
            same t ∧ t.farSems = s.farSems ++ [farReq s die idx (.set v (curCtx s).priv)]))) ∧
      (EntryFree s →
        ((waitArrived s die idx b = true ∧ b ≤ hssGet s die idx ∨ waitMet s die idx b = true) →
          PerformedOnce (.semWait w) s w.st none (fun _ => False) same) ∧
        (die = dieOfCore (curCore s) → b ≤ hssGet s die idx → PerformedOnce (.semWait w) s w.st none (fun _ => False) same) ∧
        ((waitArrived s die idx b = false ∨ hssGet s die idx < b) → waitMet s die idx b = false → Waits (.semWait w) s 2))) ∧
    (∀ (w : D3W) (die idx : Nat), Readable s [w.a.toNat, w.b.toNat] [w.d.toNat] → CounterId s (reg s w.a.toNat) die idx →
      hssPoisoned s die idx = false → EntryFree s →
      let b := (reg s w.b.toNat).toInt
      (die = dieOfCore (curCore s) →
        PerformedOnce (.semTry w) s w.st (some (w.d, BitVec.ofInt 64 (hssGet s die idx))) (fun _ => False) fun t =>
          CounterSet s t die idx (if 0 ≤ b ∧ b ≤ hssGet s die idx then hssGet s die idx - b else hssGet s die idx)) ∧
      (die ≠ dieOfCore (curCore s) → AskedOnce (.semTry w) s w.st w.d die idx (.try_ (reg s w.b.toNat)))) ∧
    (∀ (w : D2W) (die idx : Nat), Readable s [w.a.toNat] [w.d.toNat] → CounterId s (reg s w.a.toNat) die idx →
      hssPoisoned s die idx = false → EntryFree s →
      (die = dieOfCore (curCore s) → PerformedOnce (.semRd w) s w.st (some (w.d, BitVec.ofInt 64 (hssGet s die idx))) (fun _ => False) fun t =>
        ∀ d i, hssGet t d i = hssGet s d i) ∧
      (die ≠ dieOfCore (curCore s) → AskedOnce (.semRd w) s w.st w.d die idx .rd)) ∧
    (∀ (w : A2W) (i : Instr), i ∈ [.semAdd w, .semWait w, .semSet w] → Readable s [w.a.toNat, w.b.toNat] [] →
      (2^18 ≤ (reg s w.a.toNat).toNat ∨ hssInRange s (curPart s) ((reg s w.a.toNat).toNat % 2^16) = false) →
      ∃ t, exec i s = .next t ∧ (curCtx t).tcause = 0x09 ∧ (curCtx t).tval = reg s w.a.toNat ∧ Landed s t ∧ SamePreds s t ∧
        SameMem s t ∧ ∀ d i, hssGet t d i = hssGet s d i)) ∧
  ∀ (s : State) (d : Nat) (f : FarSem), farFirst d s = some f →
    let v := hssGet s d f.idx
    (hssPoisoned s d f.idx = true → f.op.heals = false → ∀ k i, hssGet (hssAct d s) k i = hssGet s k i) ∧
    (hssPoisoned s d f.idx = false ∨ f.op.heals = true → CounterSet s (hssAct d s) d f.idx (match f.op with
      | .add b => clamp64 (v + b.toInt)
      | .set b _ => b.toInt
      | .try_ b => if 0 ≤ b.toInt ∧ b.toInt ≤ v then v - b.toInt else v
      | .rd => v
      | .arr _ => clamp64 (v + 1))) ∧
    (hssAct d s).farSems = s.farSems.filter (fun e => e.id != f.id)

/-- In every state in which the word is performed, can issue and read its sources and a request entry is free: BAR.ARR with a valid crew base, a
barrier number to 15 and a count from 1 to 4,096 completes: on the core's own die it adds one to the crew's counter and writes the count
that ends the old value's episode, to another die its request leaves and the answer brings that count; BAR.WAIT completes where that counter
has reached its threshold, or did since the word waits, and else waits. At a 16-byte barrier in a scratchpad that may be written and holds
no error or unspecified byte, TBAR.ARR writes the phase to d and counts an arrival, or sets ERR where none is needed; TBAR.EXP adds the
sectors expected, or sets ERR where they overflow; each closes the phase where arrivals and landings are complete; TBAR.WAIT passes where
the phase, as it stood when the cycle began, is 1 to 32,767 ahead of the awaited one or ERR is set, writing phase and ERR, and else waits.
Of memory only the barrier's 16 bytes and the log entry change, where no copy on the die is dirty. -/
def Obligations.BarrierWords : Prop :=
  ∀ (s : State), Performed s →
    let cb := (curCtx s).crewb.toNat
    let counter (n : Word) (die idx : Nat) : Prop := (curCtx s).crewb.getLsbD 18 = true ∧ n.toNat ≤ 15 ∧ die = cb / 2^16 % 4 ∧
      idx = cb % 2^16 + n.toNat ∧ hssPoisoned s die idx = false
    (∀ (w : D3W) (die idx : Nat), EntryFree s → Readable s [w.a.toNat, w.b.toNat] [w.d.toNat] → counter (reg s w.a.toNat) die idx →
      1 ≤ (reg s w.b.toNat).toNat → (reg s w.b.toNat).toNat ≤ 4096 →
      let n : Int := (reg s w.b.toNat).toNat
      (die = dieOfCore (curCore s) →
        PerformedOnce (.barArr w) s w.st (some (w.d, BitVec.ofInt 64 ((Int.fdiv (hssGet s die idx) n + 1) * n))) (fun _ => False) fun t =>
          CounterSet s t die idx (clamp64 (hssGet s die idx + 1))) ∧
      (die ≠ dieOfCore (curCore s) → AskedOnce (.barArr w) s w.st w.d die idx (.arr (reg s w.b.toNat).toNat))) ∧
    (∀ (w : A2W) (die idx : Nat), Readable s [w.a.toNat, w.b.toNat] [] → counter (reg s w.a.toNat) die idx →
      let b := (reg s w.b.toNat).toInt
      EntryFree s →
      ((waitArrived s die idx b = true ∧ b ≤ hssGet s die idx ∨ waitMet s die idx b = true) →
        PerformedOnce (.barWait w) s w.st none (fun _ => False) (fun t => ∀ d i, hssGet t d i = hssGet s d i)) ∧
      (die = dieOfCore (curCore s) → b ≤ hssGet s die idx →
        PerformedOnce (.barWait w) s w.st none (fun _ => False) (fun t => ∀ d i, hssGet t d i = hssGet s d i)) ∧
      ((waitArrived s die idx b = false ∨ hssGet s die idx < b) → waitMet s die idx b = false → Waits (.barWait w) s 3)) ∧
    (EntryFree s →
     let barrier (va : Word) (key : Nat) : Prop := ∃ c off, accessPlace s va 16 ⟨true, true, false, false⟩ = some (.scr c off) ∧
        key = scrKey c off ∧ hasBad s key 16 = false ∧ ∀ j, j < 16 → openByte s c (off + j) = false
     let held (key : Nat) : Barrier := barrierOf (rdN s.mem key 16)
     let closed (b : Barrier) : Barrier := { b with gen := (b.gen + 1) % 2^16, arrived := 0, landed := 0, expect := 0 }
     let own (key k : Nat) : Prop := key ≤ k ∧ k < key + 16
     (∀ (w : D2W) (key : Nat), Readable s [w.a.toNat] [w.d.toNat] → barrier (reg s w.a.toNat) key →
       let b := held key
       PerformedOnce (.tbarArr w) s w.st (some (w.d, BitVec.ofNat 64 b.gen)) (own key) fun t =>
         barrierOf (rdN t.mem key 16) =
           if b.need ≤ b.arrived then { b with err := true }
           else if b.arrived + 1 = b.need ∧ b.landed = b.expect then closed b else { b with arrived := b.arrived + 1 }) ∧
     (∀ (w : A2W) (key : Nat), Readable s [w.a.toNat, w.b.toNat] [] → barrier (reg s w.a.toNat) key →
       let b := held key
       let n := (reg s w.b.toNat).toNat
       PerformedOnce (.tbarExp w) s w.st none (own key) fun t =>
         barrierOf (rdN t.mem key 16) =
           if 0xFFFFFF < b.expect + n then { b with err := true }
           else if b.arrived = b.need ∧ b.landed = b.expect + n then closed b else { b with expect := b.expect + n }) ∧
     (∀ (w : D3W) (key : Nat), Readable s [w.a.toNat, w.b.toNat] [w.d.toNat] → barrier (reg s w.a.toNat) key →
       let b := held key
       let gen := genSeen s key b.gen
       let ahead : BitVec 16 := BitVec.ofNat 16 gen - (reg s w.b.toNat).setWidth 16
       ((∀ e ∈ s.genOld, e.cycle = s.now → e.key ≠ key) → gen = b.gen) ∧
       ((b.err = true ∨ (1 ≤ ahead.toNat ∧ ahead.toNat ≤ 0x7FFF)) →
         PerformedOnce (.tbarWait w) s w.st (some (w.d, BitVec.ofNat 64 (gen + if b.err then 2^16 else 0))) (fun _ => False) fun _ => True) ∧
       (b.err = false → (ahead = 0 ∨ 0x7FFF < ahead.toNat) → Waits (.tbarWait w) s 4)))

/-- In every state in which the word can issue, for a tile id (TWAITF, TWAITE) or a ring id (QWAITF, QWAITE) that is enabled: with slot HEAD
full, respectively slot TAIL empty, when the cycle began, the word completes and d takes the slot's address in the 0xFE window; with the
slot in another state, or the ring or tile not enabled, it waits. TWAITF and QWAITF change no byte of memory, TWAITE and QWAITE only the log
entry. An id of the other kind raises RING with reason 1. -/
def Obligations.SlotWaits : Prop :=
  ∀ (w : TileDW) (s : State), Readable s [] [w.d.toNat] →
    let id := w.i.toNat
    let core := curCore s
    let d := descOf s core id
    let slotAt (n : Nat) : Word := BitVec.ofNat 64 (0xFE * 2^48 + (d.base + n * d.slotb))
    let h := headSeen s core id d
    let t := tailSeen s core id d
    (SlotsSettled s core id → h = d.head ∧ t = d.tail ∧ ∀ n, slotSeen s core id n = slotState s core id n) ∧
    (∀ i ring, (i = .twaitf w ∧ ring = false) ∨ (i = .qwaitf w ∧ ring = true) →
      (decide (id < 16) = ring → d.en = true → slotSeen s core id h = 1 →
        ∃ t, exec i s = .next t ∧ Retired s t w.st ∧ Wrote s t w.d.toNat (slotAt h) ∧ SamePreds s t ∧ SameSpecial s t ∧ SameMem s t) ∧
      (decide (id < 16) = ring → (d.en = false ∨ slotSeen s core id h ≠ 1) → Waits i s 1) ∧
      (decide (id < 16) ≠ ring → Traps i s 0x12 (BitVec.ofNat 64 (id + 256)))) ∧
    (Performed s → ∀ i ring, (i = .twaite w ∧ ring = false) ∨ (i = .qwaite w ∧ ring = true) → decide (id < 16) = ring →
      (d.en = true → slotSeen s core id t = 0 →
        PerformedOnce i s w.st (some (w.d, slotAt t)) (fun _ => False) fun _ => True) ∧
      ((d.en = false ∨ slotSeen s core id t ≠ 0) → Waits i s 1))

/-- In every state in which the word can issue and read its sources, on an enabled tile (TSETF, TSETE) or ring (QPUSH, QPOP): a producer's fill
of a slot TAIL that is empty and was when the cycle began, with a count within the slot and a valid tag operand, makes the slot full and
records format and swizzle, step, filler and count, and a ring's TAIL moves to the next slot; a consumer's pop of a slot HEAD that is full
and was when the cycle began makes it retired-pending, and a ring's HEAD moves on. QCFG, with a valid configuration and every slot empty,
writes base, slot bytes, depth, enable, transom, producer and consumer, HEAD and TAIL zero. No byte outside the core's system area, no
register and no predicate changes. A pop by a context that is not the consumer raises RING with reason 3. -/
def Obligations.SlotFillsAndPops : Prop :=
  ∀ (s : State),
    let core := curCore s
    let kind := ctxNum (curSel s)
    (Performed s → ∀ (w : TileFW) (i : Instr) (ring : Bool), (i = .tsetf w ∧ ring = false) ∨ (i = .qpush w ∧ ring = true) →
      Readable s [w.a.toNat, w.d.toNat] [] →
      let id := w.i.toNat
      let d := descOf s core id
      let tv := (reg s w.a.toNat).toNat
      let cnt := (reg s w.d.toNat).toNat
      let h := hdrOff id d.tail
      id < 48 → decide (id < 16) = ring → tv < 2^48 → tv / 2^12 % 2^4 < 13 → tv / 2^8 % 2^4 < 5 → cnt ≤ d.slotb → cnt < 2^32 →
      d.en = true → (d.prod = kind ∨ d.prod = 15) → tailEmpty s core id d = true →
      PerformedOnce i s w.st none (InSystem core) fun t =>
        slotState t core id d.tail = 1 ∧ sysRead t core (h + 2) 2 = tv / 2^8 % 2^8 * 2^8 ∧ sysRead t core (h + 4) 4 = tv / 2^16 % 2^32 ∧
        sysRead t core (h + 8) 2 = kind + 16 * core ∧ sysRead t core (h + 12) 4 = cnt ∧
        (ring = true → (descOf t core id).tail = (d.tail + 1) % max 1 d.depth ∧ (descOf t core id).head = d.head)) ∧
    (∀ (w : TileIW) (i : Instr) (ring : Bool), (i = .tsete w ∧ ring = false) ∨ (i = .qpop w ∧ ring = true) →
      let id := w.i.toNat
      let d := descOf s core id
      id < 48 → decide (id < 16) = ring → d.en = true →
      (d.cons = kind → headFull s core id d = true →
        Completes i s w.st fun t => SameSpecial s t ∧ OthersKept s t ∧ slotState t core id d.head = 2 ∧
          (ring = true → (descOf t core id).head = (d.head + 1) % max 1 d.depth ∧ (descOf t core id).tail = d.tail) ∧
          ∀ k, ¬ InSystem core k → byteAt t k = byteAt s k) ∧
      (d.cons ≠ kind → Traps i s 0x12 (BitVec.ofNat 64 (id + 256 * 3)))) ∧
    (Performed s → ∀ (w : QcfgW), Readable s [w.a.toNat] [] →
      let id := w.i.toNat
      let v := (reg s w.a.toNat).toNat
      id < 48 → cfgBadZero (decide (id < 16)) (reg s w.a.toNat) = false →
      (v / 2^54 % 2 = 1 → cfgBad (decide (id < 16)) (reg s w.a.toNat) = false) → cfgBusy s core id = false →
      PerformedOnce (.qcfg w) s w.st none (InSystem core) fun t =>
        descOf t core id = ⟨v % 2^22, 64 * (v / 2^22 % 2^16), if id < 16 then v / 2^38 % 2^7 else 1, v / 2^54 % 2 = 1, v / 2^53 % 2 = 1,
          v / 2^45 % 2^4, v / 2^49 % 2^4, 0, 0⟩)

/-- In every state in which the word is performed and can issue and read its source: with 16 entries in the engine's queue it waits. With fewer,
and no acquiring access outstanding, an aligned record that the context can read and that breaks no rule for LNCH is appended: the entry
after the last takes the record's 256 bytes, with CTX the issuing context, TICKET the engine's next ticket, and FDET, EFVAL and STATUS zero;
the queue is one longer, the next ticket one more, and the launch is outstanding for the context. No register, predicate, other context or
byte outside the core's system area changes. A misaligned record raises ALIGN_DATA. -/
def Obligations.LaunchWords : Prop :=
  ∀ (w : A1W) (s : State) (e : EngSel), Performed s → Readable s [w.a.toNat] [] →
    let i : Instr := match e with
      | .me => .lnchMe w
      | .ve => .lnchVe w
    let minor := match e with
      | .me => 0
      | .ve => 1
    let va := reg s w.a.toNat
    let c := curCore s
    let q := seqrOf s c e
    (16 ≤ q.count → Waits i s 0) ∧
    (q.count < 16 → (curCtx s).acq = [] → va.toNat % 64 ≠ 0 → ∃ t, exec i s = .next t ∧ (curCtx t).tcause = 0x04 ∧ (curCtx t).tval = va ∧ Landed s t ∧ SameMem s t) ∧
    ∀ (r : List Byte) (s1 : State), q.count < 16 → (curCtx s).acq = [] → va.toNat % 64 = 0 → ctxReadGroups 4 va s = .ok (r, s1) → r.length = 256 →
      badRecord r minor = false →
      (recF r 0xF8 1 / 4 % 2 = 1 → hssInRange s (curPart s) (recF r (0xF0 + 2 * (recF r 0xF8 1 % 4)) 2) = true) →
      PerformedOnce i s w.st none (InSystem c) fun t =>
        (seqrOf t c e).count = q.count + 1 ∧ (seqrOf t c e).ticket = q.ticket + 1 ∧
        .launch e q.ticket ∈ (curCtx t).engOut ∧ entryVa t c e ((q.head + q.count) % 16) = va ∧
        ∀ j, j < 256 → byteAt t (scrKey c (qOff e ((q.head + q.count) % 16)) + j) =
          if j = 1 then BitVec.ofNat 8 (ctxNum (curSel s)) else if j = 2 ∨ j = 3 then BitVec.ofNat 8 (q.ticket.toNat / 256^(j - 2))
          else if (0x1C ≤ j ∧ j < 0x20) ∨ (0x38 ≤ j ∧ j < 0x40) ∨ 0xFC ≤ j then 0 else nth r j 0

/-- In every state in which CPY is performed, can issue and read its sources, every earlier word has completed, and it names a registered queue
of its partition and a packet image that it can read: the core's dirty lines are written back first; with the queue full d takes all ones
and no other byte but the log entry changes; otherwise d takes WIDX, and, where none of its three writes would be refused, what memory holds
is what it held then with WIDX + 1 written to the descriptor, the packet with STATUS and MARK zero, SEQ and CTX filled in written to entry
WIDX modulo the queue's length, and WIDX + 1 written to the knock word, in that order; the packet is outstanding for the context. -/
def Obligations.CopyWord : Prop :=
  ∀ (w : D3W) (s s1 s2 : State) (q : CopyQ) (x : Nat) (l : List Byte), Performed s → EntryFree s → Quiet s1 →
    Readable s [w.a.toNat, w.b.toNat] [w.d.toNat] →
    let sel := (reg s w.a.toNat).toNat
    let img := reg s w.b.toNat
    sel < 2^11 → img.toNat % 64 = 0 → cpyQueue s sel = some q → q.part.toNat = curPart s → ctxRead64 img s = .ok (x, s1) →
    (x / 2^8 % 2 = 1 → sel % 2^7 = curCore s) → cpyRead (curPart s) q.desc.toNat 64 (releaseLines s1 (curCore s)) = .ok (l, s2) →
    let d := qDescOf l
    (2^d.logn ≤ d.used → ∃ t, exec (.cpy w) s = .next t ∧ Retired s t w.st ∧ Wrote s t w.d.toNat 0xFFFFFFFFFFFFFFFF ∧ SamePreds s t ∧
      Logged s t ∧ (∀ k, OffLog s k → byteAt t k = byteAt s2 k) ∧ (NoDirty s → ∀ k, OffLog s k → byteAt t k = byteAt s k)) ∧
    (∀ u1 u2 u3 s3 s4 s5 : State, d.used < 2^d.logn →
      let probe (u : State) (va n : Nat) := probeVia (servedTgt (curCore s) (curPart s)) (n / 64 + 2) u va n
      probe s2 (q.desc.toNat + 0x10) 8 = (none, u1) → probe u1 (d.entry d.widx) 64 = (none, u2) → probe u2 (q.desc.toNat + 0x20) 8 = (none, u3) →
      unitWrite u3 (curCore s) (curPart s) (q.desc.toNat + 0x10) (natBytes 8 (d.widx + 1)) = (none, s3) →
      unitWrite s3 (curCore s) (curPart s) (d.base + 64 * (d.widx % 2^d.logn)) (cpyPacket (natBytes 64 x) (ctxNum (curSel s)) d.widx) =
        (none, s4) →
      unitWrite s4 (curCore s) (curPart s) (q.desc.toNat + 0x20) (natBytes 8 (d.widx + 1)) = (none, s5) →
      ∃ t, exec (.cpy w) s = .next t ∧ Retired s t w.st ∧ Wrote s t w.d.toNat (BitVec.ofNat 64 d.widx) ∧ SamePreds s t ∧ Logged s t ∧
        EngOut.copy (BitVec.ofNat 7 (sel % 2^7)) (BitVec.ofNat 4 (sel / 2^7)) (BitVec.ofNat 32 d.widx) ∈ (curCtx t).engOut ∧
        ∀ k, OffLog s k → byteAt t k = byteAt s5 k)

/-- In every state in which SPAWN is performed, can issue and read its sources, every earlier word has completed, with an aligned task that it
can read and an address that a core of the partition owns, the words complete: a ring of fewer than 255 tasks takes the 32 bytes at TAIL,
TAIL moves on modulo 255, COUNT grows by one, and d takes 0; a full ring stays and d takes 1. SPAWN.TAKE with an empty ring writes 2 and
changes nothing but its log entry (log 74); otherwise, with no access to another package outstanding, the 32 bytes at HEAD go to the address
in its register, HEAD moves on, COUNT falls by one, and d takes 0. Of memory only the ring, the task's place and the log entry change, and
the bytes that the release or acquire writes back. -/
def Obligations.SpawnWords : Prop :=
  ∀ (s : State), EntryFree s →
    (∀ (w : D3W) (s1 s2 : State) (core task : Nat), Performed s → Quiet s2 → Readable s [w.a.toNat, w.b.toNat] [w.d.toNat] →
      (reg s w.b.toNat).toNat % 32 = 0 → spawnOwner (reg s w.a.toNat) s = .ok (core, s1) → ctxLoad (reg s w.b.toNat) 32 s1 = .ok (task, s2) →
      let u := releaseLines s2 (curCore s)
      let n := spawnF u core 8
      (255 ≤ n → PerformedOnce (.spawn w) s w.st (some (w.d, 1)) (fun _ => False) fun t => spawnF t core 8 = n) ∧
      (n < 255 → spawnF u core 4 < 255 → PerformedOnce (.spawn w) s w.st (some (w.d, 0)) (InSystem core) fun t =>
        spawnF t core 8 = n + 1 ∧ spawnF t core 4 = (spawnF u core 4 + 1) % 255 ∧ spawnF t core 0 = spawnF u core 0 ∧
        sysRead t core (0x2F5020 + 32 * spawnF u core 4) 32 = task % 2^256)) ∧
    (∀ (w : TakeW), Performed s → Readable s [w.b.toNat] [w.d.toNat] →
      let core := curCore s
      let tk := reg s w.b.toNat
      let n := spawnF s core 8
      (n = 0 → PerformedOnce (.spawnTake w) s w.st (some (w.d, 2)) (fun _ => False) fun t => ∀ k, OffLog s k → byteAt t k = byteAt s k) ∧
      (0 < n → spawnF s core 0 < 255 → openPeers s = [] → accessPlace s tk 32 ⟨false, true, false, false⟩ ≠ none →
        ∃ t, exec (.spawnTake w) s = .next t ∧ Retired s t w.st ∧ Wrote s t w.d.toNat 0 ∧ SamePreds s t ∧ OthersKept s t ∧
          (curCtx t).ord = (curCtx s).ord + 1 ∧ (curCtx t).logN = (curCtx s).ord + 1 ∧ spawnF t core 8 = n - 1 ∧ spawnF t core 0 = (spawnF s core 0 + 1) % 255 ∧ (NoDirty s → spawnF t core 4 = spawnF s core 4) ∧
          ∀ key, ((∃ c off, accessPlace s tk 32 ⟨false, true, false, false⟩ = some (.scr c off) ∧ key = scrKey c off) ∨
            (∃ pte, accessPlace s tk 32 ⟨false, true, false, false⟩ = some (.phys key pte) ∧ copied (dieOfCore core) key pte = false ∧
              hostDrops s (.phys key pte) = false)) →
          (NoDirty s → rdN t.mem key 32 = sysRead s core (0x2F5020 + 32 * spawnF s core 0) 32 ∧
            ∀ k, ¬ InSystem core k → (k < key ∨ key + 32 ≤ k) → byteAt t k = byteAt s k)))

/-- In every state in which the word can issue and read its sources and names a grid whose map has the issuing core: HSTEP of the step after the
last committed one (or of any first step), a multiple of the depth, with every earlier word completed, staging room and every face of the
former step sent and no uncorrectable cell among those that its strips and rule fills read, records COMMIT and REL and a cleared SENT, hands
the halo engine a copy of those cells as they stand, and is outstanding for the context; any other step raises STALE_HALO. HWAIT completes
where every used face's tag is the step, raises STALE_HALO where a tag is past it, and else waits. HQRY writes a face's tag, COMMIT or REL
to d, or 0. None changes a register but d, or a predicate. -/
def Obligations.HaloWords : Prop :=
  ∀ (s s1 s2 : State) (g : Grid) (idx : Nat) (r : List Byte) (a : Word), a.toNat < 2^16 → haloRecord g idx s1 = .ok (r, s2) →
    (∀ w : A2W, a = reg s w.a.toNat → Readable s [w.a.toNat, w.b.toNat] [] → haloGrid (.hwait w) a s = .ok ((g, idx), s1) →
      let n := (reg s w.b.toNat).toNat
      n < 2^32 →
      ((∀ f, f < g.faces → tagIn r f = n) → Completes (.hwait w) s w.st fun t => SameSpecial s t ∧ OthersKept s t ∧ SameMem s t) ∧
      (∀ f, f < g.faces → tagIn r f ≠ stepNone → n < tagIn r f → ∃ t, exec (.hwait w) s = .next t ∧ (curCtx t).tcause = 0x0F ∧
        Landed s t ∧ SamePreds s t ∧ SameMem s t) ∧
      (∀ f, f < g.faces → tagIn r f ≠ n → (∀ k, k < g.faces → tagIn r k = stepNone ∨ tagIn r k ≤ n) → Waits (.hwait w) s 6)) ∧
    (∀ w : D3W, a = reg s w.a.toNat → Readable s [w.a.toNat, w.b.toNat] [w.d.toNat] → haloGrid (.hqry w) a s = .ok ((g, idx), s1) →
      let k := (reg s w.b.toNat).toNat
      ∃ t, exec (.hqry w) s = .next t ∧ Retired s t w.st ∧ SamePreds s t ∧ SameMem s t ∧
        Wrote s t w.d.toNat (BitVec.ofNat 64 (if k < 6 then tagIn r k else if k = 6 then commitIn r else if k = 7 then relIn r else 0))) ∧
    (∀ w : A2W, a = reg s w.a.toNat → Performed s → Readable s [w.a.toNat, w.b.toNat] [] → haloGrid (.hstep w) a s = .ok ((g, idx), s1) →
      let n := (reg s w.b.toNat).toNat
      let d := dieOfCore (curCore s)
      let c := commitIn r
      (n < 2^32 → (n = stepNone ∨ n % max 1 g.depth ≠ 0 ∨ (c ≠ stepNone ∧ n ≠ c + g.depth)) →
        ∃ t, exec (.hstep w) s = .next t ∧ (curCtx t).tcause = 0x0F ∧ Landed s t ∧ SamePreds s t ∧ SameMem s t) ∧
      (∀ s3 : State, n < stepNone → n % max 1 g.depth = 0 → (c = stepNone ∨ (n = c + g.depth ∧ sentIn r % 2^g.faces = 2^g.faces - 1)) →
        (∀ i ∈ g.interior, readInStep g idx i = true → hasBad s2 (scrKey (curCore s) (mapBase (g.entry idx) + i * g.cellBytes)) g.cellBytes = false) →
        Quiet s2 → stagingUsed s2 d + outBytes g idx ≤ 2^24 →
        haloStore g.part.toNat (g.state + 64 * idx + 0x18) (natBytes 4 n ++ natBytes 4 n ++ [0]) s2 = .ok ((), s3) →
        ∃ t x, exec (.hstep w) s = .next t ∧ Retired s t w.st ∧ SameRegs s t ∧ SamePreds s t ∧ Logged s t ∧
          EngOut.halo (BitVec.ofNat 16 g.id) idx (BitVec.ofNat 32 n) ∈ (curCtx t).engOut ∧
          (dieOf t d).he.stages = (dieOf s3 d).he.stages ++ [x] ∧ x.part = g.part ∧ x.grid = g.id ∧ x.idx = idx ∧ x.step = n ∧
          x.cells.map (·.1) = g.interior.filter (readInStep g idx) ∧ ∀ k, OffLog s k → byteAt t k = byteAt s3 k))

/-- In every state in which LDG can issue and read its sources, a request entry is free and no watchpoint is set, at an aligned address of the
core's own scratchpad, by either window, inside a registered frame: where the tag of every face that owns one of the bytes is the step, LDG
completes and d takes the bytes zero-extended, and no other register, predicate or byte of memory changes. In every state in which SIG is
performed, can issue and read its sources and a request entry is free, SIG completes: with no write of the package unacknowledged one signal
transaction with the id and the delta is queued for the peer that the id names, or, where that is the package itself and the counter may be
changed, its application follows as an event; with writes unacknowledged the signal is held behind them; no register changes. -/
def Obligations.GridLoadAndSignalWords : Prop :=
  (∀ (w : LdgW) (s : State) (g : Grid) (idx base off : Nat), Readable s [w.a.toNat, w.b.toNat] [w.d.toNat] →
    EntryFree s → NoWatch s →
    let n := 2^w.z.toNat
    ((reg s w.a.toNat).toNat = 0xFE * 2^48 + off ∨ (reg s w.a.toNat).toNat = 0xFD * 2^48 + 2^22 * curCore s + off) → curCore s < 128 → off < 2^22 → off % n = 0 → (reg s w.b.toNat).toNat < 2^32 →
    frameAt s (curCore s) off = some (g, idx, base) → off + n ≤ base + g.frameBytes →
    ((∃ j f, j < n ∧ f < 6 ∧ faceOfByte g base (off + j) = some f) → ∃ r s1, haloRecord g idx s = .ok (r, s1) ∧
      ∀ j f, j < n → faceOfByte g base (off + j) = some f → f < 6 → tagIn r f = (reg s w.b.toNat).toNat) →
    hasBad s (scrKey (curCore s) off) n = false → (∀ j, j < n → openByte s (curCore s) (off + j) = false) →
    (reg s w.b.toNat).toNat ≠ stepNone →
    ∃ t, exec (.ldg w) s = .next t ∧ Retired s t w.st ∧ Wrote s t w.d.toNat (BitVec.ofNat 64 (rdN s.mem (scrKey (curCore s) off) n)) ∧
      SamePreds s t ∧ SameMem s t ∧ HeldEntry s t ∧ KeptElse s t) ∧
  ∀ (w : A2W) (s : State), Performed s → EntryFree s → Readable s [w.a.toNat, w.b.toNat] [] → (reg s w.a.toNat).toNat < 2^30 →
    let peer := (reg s w.a.toNat).toNat / 2^18
    peerState s (curPart s) peer = 3 →
    PerformedOnce (.sig w) s w.st none (fun _ => False) fun t =>
      (sigBehind s ≠ [] → ∃ e ∈ t.fab.sigs, e.1.kind = .signal ∧ e.1.dest.toNat = peer ∧ e.1.operand = reg s w.a.toNat ∧
        e.1.expect = reg s w.b.toNat ∧ e.2 = sigBehind s) ∧
      (sigBehind s = [] → peer ≠ s.peer.toNat → ∃ x ∈ t.fab.sendq, x.kind = .signal ∧ x.dest.toNat = peer ∧ x.operand = reg s w.a.toNat ∧
        x.expect = reg s w.b.toNat ∧ x.src = s.peer) ∧
      (sigBehind s = [] → peer = s.peer.toNat → sigTarget s (curPart s) (reg s w.a.toNat) ≠ none → ∃ e ∈ t.events, e.what =
        some (.sigApply ⟨s.peer, BitVec.ofNat 3 (curPart s), reg s w.a.toNat, reg s w.b.toNat⟩))

/-- In every state in which an engine runs the word: ENOP goes on to the next word. EEND ends the words. EFENCE goes on once every earlier word
has completed. WAITF and WAITE go on where the slot at HEAD is full, or the one at TAIL empty, and was when the cycle began, and else wait.
SETF and QPUSHE, by the producer and with no earlier job of the matrix engine on it, fill the empty tile or the ring's slot at TAIL: state,
pending tag, of a format that the launch's version has, outermost index, filler and count; the ring's TAIL moves on; a replay passes the
fills that it made before the eclipse. SETE and QPOPE, by the consumer, retire the full slot at HEAD. ESEM with a delta, fewer than 255
updates since the mark and a counter of the partition that is not poisoned issues one keyed update; with delta zero none. TPLD reads 16
bytes at ix0 into its template entry. LEXIT exits the level where its condition on the mask holds, the squashable results in flight killed,
and else goes on. EMARK, on a quiet vector engine, writes the mark of the position after it, turns the engine's retired slots empty and
clears the last-result file. No register of a context, other engine, unit or byte outside the core's system area changes. -/
def Obligations.EngineControlWords : Prop :=
  ∀ (s : State) (c : Nat) (e : EngSel), c < 128 → s.cur = engAgent c e →
    let q := seqrOf s c e
    (∀ w : EFlags, EcIssues (.enop w) s c e w q fun t => t.events = s.events ∧ SameMem s t) ∧
    (∀ w : EFlags, EcIssues (.eend w) s c e w { q with phase := .finish } fun t =>
      t.events = s.events ∧ SameMem s t ∧ (seqrOf t c e).phase = .finish) ∧
    (∀ (w : EFlags) (k : Nat), quietEng s c e = some k → k ≤ s.now →
      EcIssues (.efence w) s c e w q fun t => t.events = s.events ∧ SameMem s t) ∧
    (∀ w : EIdW, (descOf s c w.i.toNat).en = true →
      (headFull s c w.i.toNat (descOf s c w.i.toNat) = true →
        EcIssues (.waitf w) s c e w.fl q fun t => t.events = s.events ∧ SameMem s t) ∧
      (headFull s c w.i.toNat (descOf s c w.i.toNat) = false → EngWaits (.waitf w) s c e) ∧
      (tailEmpty s c w.i.toNat (descOf s c w.i.toNat) = true ∨ w.i.toNat ∈ q.refill →
        EcIssues (.waite w) s c e w.fl q fun t => t.events = s.events ∧ SameMem s t) ∧
      (tailEmpty s c w.i.toNat (descOf s c w.i.toNat) = false → w.i.toNat ∉ q.refill → EngWaits (.waite w) s c e)) ∧
    (∀ (w : EIdW) (i : Instr) (ring : Bool), (i = .setf w ∧ ring = false) ∨ (i = .qpushe w ∧ ring = true) →
      let id := w.i.toNat
      let d := descOf s c id
      let h := hdrOff id d.tail
      let tag := tget (coreOf s c).ve.ptag (64 * id + d.tail) 0
      let q1 := { q with
        fills := q.fills ++ [(id, match e with
          | .me => (coreOf s c).me.issueNo
          | .ve => 0)]
        refill := q.refill.erase id, undo := tdel q.undo (slotBase d d.tail) }
      id < 48 → decide (id < 16) = ring → d.en = true → (d.prod = engKind e ∨ d.prod = 15) → JobsApart s c e id →
      (q.nbv = 1 → ∀ f ∈ [3, 4, 9], tag.toNat / 2^12 ≠ f) →
      (id ∈ q.refill → EcIssues i s c e w.fl q1 fun t => t.events = s.events ∧ SameMem s t) ∧
      (id ∉ q.refill → tailEmpty s c id d = true → EcIssues i s c e w.fl q1 fun t => t.events = s.events ∧ (∀ k, ¬ InSystem c k → byteAt t k = byteAt s k) ∧
        slotState t c id d.tail = 1 ∧ sysRead t c (h + 4) 4 = nth q.idx 0 0 % 2^32 ∧ sysRead t c (h + 8) 2 = engKind e + 16 * c ∧
        sysRead t c (h + 12) 4 = d.slotb % 2^32 ∧
        sysRead t c (h + 2) 2 = tag.toNat ∧
        (ring = true → (descOf t c id).tail = (d.tail + 1) % max 1 d.depth % 256 ∧ (descOf t c id).head = d.head))) ∧
    (∀ (w : EIdW) (i : Instr) (ring : Bool), (i = .sete w ∧ ring = false) ∨ (i = .qpope w ∧ ring = true) →
      let id := w.i.toNat
      let d := descOf s c id
      id < 48 → decide (id < 16) = ring → d.en = true → d.cons = engKind e → headFull s c id d = true → JobsApart s c e id →
      EcIssues i s c e w.fl q fun t => t.events = s.events ∧ (∀ k, ¬ InSystem c k → byteAt t k = byteAt s k) ∧
        slotState t c id d.head = 2 ∧ sysRead t c (hdrOff id d.head + 10) 2 = engKind e ∧
        (ring = true → (descOf t c id).head = (d.head + 1) % max 1 d.depth % 256 ∧ (descOf t c id).tail = d.tail)) ∧
    (∀ w : EsemW, (match e with
        | .me => (coreOf s c).me.drain = none
        | .ve => (coreOf s c).ve.memDue ≤ s.now) →
      let idx := launchField s c e (0xF0 + 2 * (w.e.toNat % 4)) 2
      (w.d = 0 → EcIssues (.esem w) s c e w.fl q fun t => t.events = s.events ∧ SameMem s t) ∧
      (w.d ≠ 0 → q.ordinal < 255 → hssInRange s q.part.toNat idx = true → hssPoisoned s (dieOfCore c) idx = false →
        EcIssues (.esem w) s c e w.fl { q with ordinal := q.ordinal + 1 } fun t => SameMem s t ∧
          ∃ u, t.events = s.events ++ [⟨engAgent c e, some (.hssEngineUpdate u)⟩] ∧ u.die = BitVec.ofNat 2 (dieOfCore c) ∧
            u.engine = engKind e + 16 * c ∧ u.record = launchField s c e 2 2 ∧ u.mark = q.markIdx ∧ u.ordinal = q.ordinal ∧
            u.index = BitVec.ofNat 16 idx ∧ u.delta = (w.d.toNat : Int))) ∧
    (∀ w : TpldW, let o := streamVal s c e 0
      o % 16 = 0 → o + 16 ≤ 0x300000 → Defined s c o 16 →
      EcIssues (.tpld w) s c e w.fl { q with tpl := tput q.tpl w.e.toNat (rdN s.mem (scrKey c o) 16), tplSrc := tput q.tplSrc w.e.toNat o }
        fun t => t.events = s.events ∧ SameMem s t) ∧
    (e = .ve → ∀ w : LexitW, w.v.toNat ≤ q.lvl → MaskReady (veNow s c) w.m.toNat →
      let m := vMask (veNow s c) w.m.toNat
      let v := w.v.toNat
      let q1 := wordIssued s.now w.fl.st 0 q
      ((if w.y then m = 0 else m ≠ 0) → EcIssues (.lexit w) s c e w.fl q fun t => t.events = s.events ∧ SameMem s t) ∧
      ((if w.y then m ≠ 0 else m = 0) → ∃ t, exec (.lexit w) s = .next t ∧ EngKept s t c e ∧ t.events = s.events ∧ SameMem s t ∧
        SeqGoes { q1 with
          ready := s.now + max 3 (1 + w.fl.st.toNat), lvl := v, pc := (nth (lvlsOf s c e) v noLvl).last + 1
          idx := (List.range 6).map fun l => if l < v then nth q.idx l 0 else if l = v then nth q.trip v 0 - 1 else 0 } t c e ∧
        { (coreOf t c).ve with q := {} } =
          { veNow s c with q := {}, pend := (veNow s c).pend.filter fun p => !(p.q && decide (s.now < p.due)) })) ∧
    (e = .ve → ∀ (w : EmarkW) (k : Nat), quietEng s c e = some k → k ≤ s.now →
      ∃ t m q1, exec (.emark w) s = .next t ∧ EngKept s t c e ∧ t.events = s.events ∧
        q1 = seekGo true (lvlsOf s c e) 70000 (wordIssued s.now w.fl.st 0 { q with emask := w.m }) ∧
        seqrOf t c e = { q1 with mark := some m, markIdx := q.markIdx + 1, ordinal := 0, wdFrom := s.now, wdIdle := 0, fills := [], refill := [], undo := [] } ∧
        (m.idx, m.trip, m.lvl, m.pc, m.phase, m.issued, m.emask) = (q1.idx, q1.trip, q1.lvl, q1.pc, q1.phase, q1.issued, w.m) ∧
        m.masks = (veNow s c).masks ∧
        m.wregs = (veNow s c).regs.filter (fun r => decide (64 ≤ r.1) && decide (r.1 < 72) && w.m.getLsbD (r.1 - 64)) ∧
        (coreOf t c).ve.regs = (veNow s c).regs ∧ (coreOf t c).ve.masks = (veNow s c).masks ∧ (coreOf t c).ve.hids = [] ∧
        (coreOf t c).ve.tfree = [] ∧ (∀ k, ¬ InSystem c k → byteAt t k = byteAt s k) ∧
        ∀ id j, id < 48 → j < (if id < 16 then 64 else 1) → slotState s c id j = 2 → sysRead s c (hdrOff id j + 10) 1 % 16 = 4 →
          slotState t c id j = 0)

/-- An idle engine with a queued launch whose image can be read and is well-formed starts it: STATUS 1 is written, the versions and modes are
taken, the loop state is zero, the banks and the coma, or the registers and masks, are clear and K is loaded; a record that refuses the
write of its STATUS, or an image that is refused, ends the launch at once. LEVEL_ENTRY, once the engine's mailbox writes have completed,
reads the trip count, from the record or a mailbox, and goes to the level's first word, or leaves the level on zero. ITERATION_MARK, once
the engine is quiet, steps the innermost index or leaves the level and writes the mark of that position. LAUNCH_END, once it is quiet, makes
the final mark and writes STATUS 2, and where the record takes it issues the COMPL update and the interrupt that the record asks for, and
the entry leaves the queue and its context's outstanding work. Contexts, other cores and units otherwise stay. -/
def Obligations.LaunchLifecycle : Prop :=
  ∀ (s : State) (c : Nat) (e : EngSel), c < 128 → s.cur = engAgent c e →
    let q := seqrOf s c e
    let x := ctxOfNum (launchField s c e 1 1)
    (∀ s0 s1 : State, q.count ≠ 0 → q.head < 16 → q.running = false → q.heldImage = false → q.puts = [] → engfPending s c e = false →
      (∀ img, entryPut s c e q.head 0xFC 4 1 = (none, s0) → readImage s0 c e (seenPart s q.part.toNat).nbv.toNat = (.ok img, s1) →
        ∃ t, exec .launchStart s = .next t ∧ SameMem s1 t ∧ (∀ k y, ctxOf t k y = ctxOf s1 k y) ∧ entryField t c e q.head 0xFC 4 = 1 ∧
          (let r := seqrOf t c e
           r.running = true ∧ r.count = q.count ∧ r.head = q.head ∧ r.words = img.words ∧ r.tpl = img.tpl ∧ r.issuer = x ∧
           r.nbv = (seenPart s q.part.toNat).nbv.toNat ∧ r.check = (seenPart s q.part.toNat).mode.getLsbD 0 ∧
           r.accp = (seenPart s q.part.toNat).mode.getLsbD 1 ∧ r.idx = [0, 0, 0, 0, 0, 0] ∧ r.trip = [0, 0, 0, 0, 0, 0] ∧ r.lvl = 0 ∧
           r.phase = .entry ∧ r.ordinal = 0 ∧ r.emask = 0) ∧
          (match e with
            | .me => (coreOf t c).me.banks = [] ∧ (coreOf t c).me.coma = [] ∧
                (coreOf t c).me.k15 = BitVec.ofNat 32 (launchField s c e 0xEC 4)
            | .ve => (coreOf t c).ve.regs = [] ∧ (coreOf t c).ve.masks = [] ∧ (coreOf t c).ve.hids = [] ∧
                ∀ k, k < 16 → tget (coreOf t c).ve.k k 0 = BitVec.ofNat 32 (launchField s c e (0xB0 + 4 * k) 4))) ∧
      (∀ k, (∃ a, entryPut s c e q.head 0xFC 4 1 = (some (.code k, a), s1)) ∨ (entryPut s c e q.head 0xFC 4 1 = (none, s0) ∧
          readImage s0 c e (seenPart s q.part.toNat).nbv.toNat = (.error (.code k), s1)) →
        ∃ t, exec .launchStart s = .next t ∧ (seqrOf t c e).running = false ∧ (seqrOf t c e).count = q.count - 1 ∧
          entryField t c e q.head 0xFC 4 = (4 + 2^8 * k) % 2^32)) ∧
    (q.running = true → q.phase = .entry → mbxDue s c e ≤ s.now →
      let raw := launchField s c e (0x10 + 2 * q.lvl) 2
      let trip := if raw / 2^15 = 1 then tripMbx (settleEng c e s) c e (raw % 16) else raw
      let q1 := { q with trip := setNth q.trip q.lvl trip, idx := setNth q.idx q.lvl 0 }
      ∃ t, exec .levelEntry s = .next t ∧ EngKept s t c e ∧ SameEngine s t c e ∧ SameMem s t ∧ t.events = s.events ∧
        (trip ≠ 0 → SeqGoes { q1 with pc := (nth (lvlsOf s c e) q.lvl noLvl).first, phase := .body } t c e) ∧
        (trip = 0 → SeqGoes (leaveLvl (lvlsOf s c e) q1) t c e)) ∧
    (∀ k, q.running = true → q.phase = .mark → quietEng s c e = some k → k ≤ s.now →
      let q1 := iterNext (lvlsOf s c e) q
      ∃ t m, exec .iterationMark s = .next t ∧ EngKept s t c e ∧ t.events = s.events ∧ (∀ k, ¬ InSystem c k → byteAt t k = byteAt s k) ∧
        SeqGoes { q1 with
          endMarked := q1.phase == .finish, mark := some m, markIdx := q1.markIdx + 1, ordinal := 0, wdFrom := s.now, wdIdle := 0,
          fills := [], refill := [], undo := [] } t c e ∧
        (m.idx, m.trip, m.lvl, m.pc, m.phase) = (q1.idx, q1.trip, q1.lvl, q1.pc, q1.phase)) ∧
    (∀ k s3, q.running = true → q.phase = .finish → q.heldImage = false → q.head < 16 → q.count ≠ 0 → quietEng s c e = some k → k ≤ s.now →
      entryPut (finalMark c e (settleEng c e s)) c e q.head 0xFC 4 2 = (none, s3) →
      let compl := launchField s c e 0xF8 2
      let work := EngOut.launch e (BitVec.ofNat 16 (launchField s c e 2 2))
      ∃ t, exec .launchEnd s = .next t ∧ entryField t c e q.head 0xFC 4 = 2 ∧
        (let r := seqrOf t c e
         r.running = false ∧ r.head = (q.head + 1) % 16 ∧ r.count = q.count - 1 ∧ r.mark = none ∧ r.ticket = q.ticket) ∧
        (ctxOf t c x).engOut = (ctxOf s c x).engOut.filter (fun y => !(y == work)) ∧
        (compl / 4 % 2 = 0 → t.events = s.events) ∧
        (compl / 4 % 2 = 1 → ∃ u, t.events = s.events ++ [⟨engAgent c e, some (.hssEngineUpdate u)⟩] ∧
          u.index = BitVec.ofNat 16 (launchField s c e (0xF0 + 2 * (compl % 4)) 2) ∧ u.delta = ((compl / 2^8 % 2^8 : Nat) : Int) ∧
          u.engine = engKind e + 16 * c ∧ u.record = launchField s c e 2 2) ∧
        (launchField s c e 0 1 / 32 % 2 = 0 → (ctxOf t c x).uq = (ctxOf s c x).uq) ∧
        (launchField s c e 0 1 / 32 % 2 = 1 → (ctxOf s c x).live = true → (ctxOf s c x).uq.length < 16 →
          (ctxOf t c x).uq = (ctxOf s c x).uq ++ [⟨entryVa s c e q.head, BitVec.ofNat 8 (engKind e - 1), 2⟩]))

/-- At a word boundary at user level a pending ENGF traps with the record's address, the matrix engine's first. Without one, a UIRQ traps;
otherwise an enabled, idle context with a queued user interrupt and no fetch trap due takes its mark at the interrupted address (the word
after a WFE that sleeps), and enters the handler at UVEC with the shadow registers and UIACT set. A quiet context whose log is full or whose
last mark is 2^20 bound cycles old takes a mark. A context that has waited beyond STALLTO, for what has not come, traps BUDGET with the wait
kind; an engine that has faults its launch. A core whose SCY has reached STOPAT while it counted freezes. RESULT_WRITTEN changes no
register's final value and clears what is due, and accepts a mark whose time has come: the slots that it covers turn empty;
REQUEST_ACKNOWLEDGED frees the request entries due; LOG_RESPONSE writes a value and DONE to its log entry. While a context replays, a logged
word whose entry is DONE is not performed: it writes the logged value to its register and goes on; without DONE it waits. -/
def Obligations.WordBoundaryEvents : Prop :=
  ∀ s : State,
    let x := curCtx s
    let c := curCore s
    (atBoundary s = true → x.priv = false →
      (∀ va, x.engfMe = some va → ∃ t, exec .engf s = .next t ∧ TrapTaken (modCur s fun y => { y with engfMe := none }) t 0x11 va) ∧
      (∀ va, x.engfMe = none → x.engfVe = some va →
        ∃ t, exec .engf s = .next t ∧ TrapTaken (modCur s fun y => { y with engfVe := none }) t 0x11 va)) ∧
    (atBoundary s = true → (x.priv = true ∨ (x.engfMe = none ∧ x.engfVe = none)) →
      (∀ va, x.uirq = some va → ∃ t, exec .acceptance s = .next t ∧ TrapTaken (modCur s fun y => { y with uirq := none }) t 0x19 va) ∧
      (∀ r rest, x.uirq = none → x.uq = r :: rest → x.uie = true → x.uiact = false → x.priv = false → fetchDue s = false →
        let pc := if x.waiting.map (·.kind) = some 5 then x.pc + 4 else x.pc
        ∃ t, exec .acceptance s = .next t ∧ (curCtx t).pc = x.uvec ∧ (curCtx t).uiact = true ∧ (curCtx t).uq = rest ∧
          (curCtx t).pend = x.pend.filter (fun p => p.await.isSome) ∧ tget (curCtx t).g 56 0 = pc ∧ tget (curCtx t).g 57 0 = r.va ∧
          tget (curCtx t).g 58 0 = BitVec.ofNat 64 (r.kind.toNat + 256 * r.status.toNat) ∧
          (∀ k, k < 24 → awaited x [k] = none → reg t k = reg s k) ∧ SamePreds s t ∧ (curCtx t).markIdx = x.markIdx + 1 ∧ (curCtx t).logN = 0 ∧
          (curCtx t).ord = 0 ∧ rdN t.mem (scrKey c (markOff (curSel s) + 8 * 43)) 8 = pc.toNat ∧
          (∀ k, ¬ InSystem c k → byteAt t k = byteAt s k))) ∧
    (∀ q, atBoundary s = true → (2^20 ≤ scyOf s c - x.markScy ∨ 24 ≤ x.ord) → quietAt x = some q → q ≤ s.now →
      ∃ t, exec .automaticMark s = .next t ∧ (curCtx t).pc = x.pc ∧ Landed s t ∧ SamePreds s t ∧ (curCtx t).accept.map (·.at_) = some (s.now + 5) ∧
        (curCtx t).markIdx = x.markIdx + 1 ∧ (curCtx t).logN = 0 ∧ (curCtx t).ord = 0 ∧ (curCtx t).markScy = scyOf s c ∧
        rdN t.mem (scrKey c (markOff (curSel s) + 8 * 43)) 8 = x.pc.toNat ∧ ∀ k, ¬ InSystem c k → byteAt t k = byteAt s k) ∧
    (∀ k y w, s.cur = .ctx k y → x.waiting = some w → overLimit s (curPart s) w = true → w.met = false → (w.kind = 5 → x.latch = false) →
      ∃ t, exec .budgetTrap s = .next t ∧ TrapTaken s t 0x10 (BitVec.ofNat 64 w.kind)) ∧
    (∀ (k : Nat) (e : EngSel) w, k < 128 → s.cur = engAgent k e → (seqrOf s k e).waiting = some w →
      overLimit s (seqrOf s k e).part.toNat w = true → (seqrOf s k e).head < 16 → 0 < (seqrOf s k e).count → (seqrOf s k e).count ≤ 16 →
      let y := ctxOfNum (launchField s k e 1 1)
      ∃ t, exec .budgetTrap s = .next t ∧ (seqrOf t k e).count = 0 ∧ (seqrOf t k e).running = false ∧
        entryField t k e (seqrOf s k e).head 0xFC 4 = 3 + 2^8 * 0x10 + 2^16 * ((seqrOf s k e).pc % 2^12) ∧
        ((ctxOf s k y).live = true → (match e with
          | .me => (ctxOf t k y).engfMe
          | .ve => (ctxOf t k y).engfVe) = some (entryVa s k e (seqrOf s k e).head))) ∧
    (stopatReached s c = true → ∃ t, exec .scyStopat s = .next t ∧ SameMem s t ∧
      coreOf t c = { coreOf s c with stopped := true, scyBase := (coreOf s c).stopat.toNat, scyFrom := s.now } ∧
      ∀ k, k ≠ c → coreOf t k = coreOf s k) ∧
    (∀ k y, s.cur = .ctx k y → ∃ t, exec .resultWritten s = .next t ∧ SameRegs s t ∧ SamePreds s t ∧ (curCtx t).pc = x.pc ∧ OthersKept s t ∧
      { (curCtx t).special with accept := none } = { x.special with accept := none } ∧
      (∀ k, ¬ InSystem c k → byteAt t k = byteAt s k) ∧ ((∀ p ∈ x.pend, p.due ≤ s.now ∧ p.await = none) → (curCtx t).pend = []) ∧
      ((∀ m, x.accept = some m → s.now < m.at_) → SameSpecial s t ∧ Kept s t) ∧
      (∀ m, x.accept = some m → m.at_ ≤ s.now → (curCtx t).accept = none ∧
        ∀ e ∈ m.slots, e.1 < 48 → e.2 < (if e.1 < 16 then 64 else 1) → slotState s c e.1 e.2 = 2 →
          sysRead s c (hdrOff e.1 e.2 + 10) 1 % 16 = ctxNum y → slotState t c e.1 e.2 = 0)) ∧
    (∀ k, s.cur = .ve k → ∃ t, exec .resultWritten s = .next t ∧ EngKept s t k.toNat .ve ∧ SameMem s t ∧
      ((∀ p ∈ (coreOf s k.toNat).ve.pend, p.due ≤ s.now) → (coreOf t k.toNat).ve = finalVe (coreOf s k.toNat).ve)) ∧
    (∀ k, s.cur = .me k → ∃ t, exec .resultWritten s = .next t ∧ EngKept s t k.toNat .me ∧ SameMem s t ∧
      (coreOf t k.toNat).me.mbxPend = (coreOf s k.toNat).me.mbxPend.filter (fun p => decide (s.now < p.2.2))) ∧
    (∀ k y, s.cur = .ctx k y → ∃ t, exec .requestAcknowledged s = .next t ∧ SameRegs s t ∧ (curCtx t).pc = x.pc ∧ Kept s t ∧
      (curCtx t).reqs = x.reqs.filter fun r => match r.due with
        | some d => decide (s.now < d)
        | none => true) ∧
    (∀ i st d, LoggedRow i st d → x.ord < x.replayTo →
      let o := scrKey c (logOff (curSel s) x.ord)
      (rdN s.mem o 8 / 2^31 % 2 = 1 → ∃ t, exec i s = .next t ∧ Retired s t st ∧ SamePreds s t ∧ SameMem s t ∧ OthersKept s t ∧
        (match d with
          | some d => Wrote s t d.toNat (BitVec.ofNat 64 (rdN s.mem (o + 8) 8))
          | none => SameRegs s t) ∧
        { (curCtx t).special with ord := 0 } = { x.special with ord := 0 } ∧ (curCtx t).ord = x.ord + 1) ∧
      (rdN s.mem o 8 / 2^31 % 2 = 0 → Waits i s kQuiet)) ∧
    (∀ w : LogResponse, w.ordinal.toNat < (ctxOf s w.who.core.toNat w.who.ctx).logN →
      let o := scrKey w.who.core.toNat (logOff w.who.ctx w.ordinal.toNat)
      ∃ t, exec (.logResponse w) s = .next t ∧ rdN t.mem (o + 8) 8 = w.value.toNat ∧
        rdN t.mem o 8 = (if rdN s.mem o 8 / 2^31 % 2 = 1 then rdN s.mem o 8 else rdN s.mem o 8 + 2^31) ∧
        ∀ k, (k < o ∨ o + 16 ≤ k) → byteAt t k = byteAt s k)

/-- In every state in which a vector engine runs VADD, VSUB, VMUL, VFMA, VFMS, VFNMA, VMIN, VMAX, VABS, VNEG, VDIV, VSQRT, VRCP or VRSQ, with
sources and mask that can be read, tags that pass, and a result for every included element (rounding does not trap, and with FPX enabled no
FPX condition is met): the sequencer goes on, a third distinct main-file source costs a cycle, and D (unless none) and the newest place of
the last-result file take the results within 4 cycles for add, subtract and multiply, 5 for the fused words, 2 for minimum, maximum,
absolute value, negation and integers, 14 for division and square root, 8 for the reciprocals. Integers wrap, or are clamped with MOD bit 0.
Once written, the register holds the results in the included elements and its old bits elsewhere, tagged with FMT. No other register, mask,
constant, mailbox, context or byte of memory changes. -/
def Obligations.VectorArithmetic : Prop :=
  (∀ w : EngW,
    let rdn : Bool := w.rnd == 2
    let fpx (f : Val → Val → Val) (bad : Val → Val → Bool) (v : Ve) (e a b x : Nat) : Prop :=
      let p := valOf (v.q.nbv = 1) w.fmt.toNat a
      let r := valOf (v.q.nbv = 1) w.fmt.toNat b
      fpRoundTo w.fmt.toNat (rndOf w v e) (f p r) = some x ∧ (fpxOn w = true → bad p r = false)
    VArith (.vadd w) w 4 [w.a, w.b] (fun x y _ => vadd rdn x y) (fun x y _ => x + y) ∧
    VArith (.vsub w) w 4 [w.a, w.b] (fun x y _ => vadd rdn x (vneg y)) (fun x y _ => x - y) ∧
    VArith (.vmul w) w 4 [w.a, w.b] (fun x y _ => vmul x y) (fun x y _ => x * y) ∧
    VArith (.vfma w) w 5 [w.a, w.b, w.c] (fun x y z => vadd rdn (vmul x y) z) (fun x y z => x * y + z) ∧
    VArith (.vfms w) w 5 [w.a, w.b, w.c] (fun x y z => vadd rdn (vmul x y) (vneg z)) (fun x y z => x * y - z) ∧
    VArith (.vfnma w) w 5 [w.a, w.b, w.c] (fun x y z => vadd rdn z (vneg (vmul x y))) (fun x y z => z - x * y) ∧
    VArith (.vmin w) w 2 [w.a, w.b] (fun x y _ => if isNan x || isNan y then .nan else if vltTotal y x then y else x)
      (fun x y _ => if y < x then y else x) ∧
    VArith (.vmax w) w 2 [w.a, w.b] (fun x y _ => if isNan x || isNan y then .nan else if vltTotal x y then y else x)
      (fun x y _ => if x < y then y else x) ∧
    VArith (.vabs w) w 2 [w.a] (fun x _ _ => if isNeg x then vneg x else x) (fun x _ _ => (x.natAbs : Int)) ∧
    VArith (.vneg w) w 2 [w.a] (fun x _ _ => vneg x) (fun x _ _ => -x) ∧
    VElems (.vdiv w) w 14 [w.a, w.b] (fun v e a b _ x =>
      fpx vdiv (fun p r => (isNan (vdiv p r) && !isNan p && !isNan r) || (isFinNz p && isZero r)) v e a b x) ∧
    VElems (.vsqrt w) w 14 [w.a] (fun v e a b _ x => fpx (fun p _ => vsqrt p) (fun p _ => isNan (vsqrt p) && !isNan p) v e a b x) ∧
    VElems (.vrcp w) w 8 [w.a] (fun v e a b _ x =>
      fpx (fun p _ => vdiv (.fin false 1 0 false) p) (fun p _ => (isNan (vdiv (.fin false 1 0 false) p) && !isNan p) || isZero p) v e a b x) ∧
    VElems (.vrsq w) w 8 [w.a] (fun v e a b _ x =>
      fpx (fun p _ => vrsqrt p) (fun p _ => (isNan (vrsqrt p) && !isNan p) || isZero p) v e a b x)) ∧
  ∀ (s : State) (c r : Nat) (p : VPend), (coreOf s c).ve.pend = [p] → p.due ≤ s.now → p.reg = some r →
    tget (veNow s c).regs r {} = ⟨(((tget (coreOf s c).ve.regs r {}).bits &&& ~~~p.wm) ||| (p.bits &&& p.wm)), p.tag⟩ ∧
    ∀ k, k ≠ r → tget (veNow s c).regs k {} = tget (coreOf s c).ve.regs k {}

/-- In every state in which a vector engine runs the word, with sources and masks that can be read and tags that pass: VAND, VOR, VXOR, VSHL,
VSHR, VSRA and VMULH deliver the elementwise results under the mask within 2 cycles; VSEL delivers the elements of A where the mask C is one
and of B elsewhere; VCMP and VCLASS write the condition, or whether the element's class is selected, into the included bits of the mask D
and zero above the element count; MAND, MOR, MXOR and MNOT write a mask in full; MPOPC delivers the number of ones among bits 0 to 127 of a
mask as INT32 in every element. Nothing else changes. -/
def Obligations.VectorLogicAndMasks : Prop :=
  ∀ w : EngW,
    let fm := w.fmt.toNat
    let n := countOf fm
    let bits (f : Nat → Nat → Nat) : Ve → Nat → Nat → Nat → Nat → Nat → Prop := fun _ _ a b _ x => x = f a b
    let k := widthOf fm
    VElems (.vand w) w 2 [w.a, w.b] (bits fun a b => a &&& b) ∧ VElems (.vor w) w 2 [w.a, w.b] (bits fun a b => a ||| b) ∧
    VElems (.vxor w) w 2 [w.a, w.b] (bits fun a b => a ^^^ b) ∧
    VElems (.vshl w) w 2 [w.a, w.b] (bits fun a b => a * 2^(b % k) % 2^k) ∧
    VElems (.vshr w) w 2 [w.a, w.b] (bits fun a b => a / 2^(b % k)) ∧
    VElems (.vsra w) w 2 [w.a, w.b] (bits fun a b => wrapInt k (intOf fm a / ((2^(b % k) : Nat) : Int))) ∧
    VElems (.vmulh w) w 2 [w.a, w.b] (bits fun a b => wrapInt k (intOf fm a * intOf fm b / ((2^k : Nat) : Int))) ∧
    ∀ (s : State) (c : Nat),
      let v := veNow s c
      let inc := vIncluded v w n
      let c1 : Bool := v.q.nbv = 1
      (VReads s c w [w.a, w.b] → MaskReady v (w.c.toNat - 0x60) →
        VDelivers (.vsel w) w s c fm (2 + extraRead [w.a, w.b]) (extraRead [w.a, w.b]) false
          (putBits (vSource v fm w.b) (vSource v fm w.a)
            (writeMask k 0 ((unpackN 1 n (vMask v (w.c.toNat - 0x60)).toNat).map fun x => x == 1))) (writeMask k 0 inc)) ∧
      (VReads s c w [w.a, w.b] → VMasks (.vcmp w) w s c n (2 + extraRead [w.a, w.b]) (extraRead [w.a, w.b])
        (packBits ((List.range n).map fun e =>
          vcond (w.immA.toNat % 8) (valOf c1 fm (vElem v w [w.a, w.b] 0 e)) (valOf c1 fm (vElem v w [w.a, w.b] 1 e)))) (packBits inc)) ∧
      (VReads s c w [w.a] → VMasks (.vclass w) w s c n (2 + extraRead [w.a]) (extraRead [w.a])
        (packBits ((List.range n).map fun e => w.immA.getLsbD (classOf c1 fm (vElem v w [w.a] 0 e)))) (packBits inc)) ∧
      (s.cur = .ve (BitVec.ofNat 7 c) → c < 128 → MaskReady v (w.a.toNat - 0x60) →
        let a := vMask v (w.a.toNat - 0x60)
        let b := vMask v (w.b.toNat - 0x60)
        (VersionOk v w [fm] → MaskReady v (w.b.toNat - 0x60) →
          VMasks (.mand w) w s c n 2 0 (a &&& b).toNat (2^n - 1) ∧ VMasks (.mor w) w s c n 2 0 (a ||| b).toNat (2^n - 1) ∧
          VMasks (.mxor w) w s c n 2 0 (a ^^^ b).toNat (2^n - 1)) ∧
        (VersionOk v w [fm] → VMasks (.mnot w) w s c n 2 0 (~~~a).toNat (2^n - 1)) ∧
        (MaskReady v w.m.toNat → VDelivers (.mpopc w) w s c 5 2 0 false
          (broadcast 5 ((List.range 128).filter fun i => a.getLsbD i).length) (writeMask 32 0 (vIncluded v w 128))))

/-- In every state in which a vector engine runs the word, with a source and mask that can be read and a tag that passes, in a version that has
its formats: VCVT delivers, within 3 cycles, each included source element of the part rounded to the destination format, where each has a
result; VQMX delivers within 6 cycles four blocks of 32 values quantised, round to nearest even unless RND says otherwise, with saturation;
VDQMX delivers within 6 cycles the 128 values of four blocks, each exact where the format holds it (log 70); VRMAX and VRMIN always deliver
within 9 cycles, and VRSUM where neither a sum nor its rounding fails, the root of the reduction over the included elements in element 0 and
zero elsewhere; VSCAN delivers within 9 cycles the running sums where none fails. Nothing else changes. -/
def Obligations.VectorConversions : Prop :=
  ∀ (w : EngW) (s : State) (c : Nat), s.cur = .ve (BitVec.ofNat 7 c) → c < 128 →
    let v := veNow s c
    let fm := w.fmt.toNat
    let src := w.immA.toNat % 16
    let k := widthOf fm
    let n := countOf fm
    let inc := vIncluded v w n
    let c1 : Bool := v.q.nbv = 1
    let all := BitVec.allOnes 4096
    (VersionOk v w [fm, src] → VReady v src [src] (isRaw w) w.a →
      let xs := elemsOf src (vSource v src w.a)
      (∀ r : List Nat, MaskReady v w.m.toNat →
        let first := (cvtPlace src fm (w.mod.toNat % 4)).1
        let lo := (cvtPlace src fm (w.mod.toNat % 4)).2.1
        let m := (cvtPlace src fm (w.mod.toNat % 4)).2.2
        let inc' := (inc.drop lo).take m
        r.length = inc'.length →
        (∀ j, j < inc'.length → if inc'.getD j false then
            roundFmt fm (rndOf w v (lo + j)) (valOf c1 src (nth xs (first + j) 0)) = some (nth r j 0) else nth r j 0 = 0) →
        VDelivers (.vcvt w) w s c fm 3 0 false (BitVec.ofNat 4096 (packN k r * 2^(k * lo))) (writeMask k lo inc')) ∧
      (let ys := ((xs.drop (128 * (if src = 2 then w.mod.toNat % 2 else 0))).take 128).map (valOf c1 src)
       VDelivers (.vqmx w) w s c fm 6 0 false
        (BitVec.ofNat 4096 (packN (8 * mxBytes fm) ((upto 4).map fun i =>
          quantBlock fm (fun e => { rndOf w v e with ovf := 0 }) (32 * i) ((ys.drop (32 * i)).take 32)))) all) ∧
      (let lo := if fm = 2 then 128 * (w.mod.toNat % 2) else 0
       let ds := dequant src (vSource v src w.a).toNat
       ∃ r : List Nat, r.length = ds.length ∧
        (∀ j x p, ds[j]? = some x → fpRoundTo fm ⟨0, 3, 0, 0, c1⟩ x = some p → nth r j 0 = p) ∧
        VDelivers (.vdqmx w) w s c fm 6 0 false (BitVec.ofNat 4096 (packN k r * 2^(k * lo)))
          (writeMask k lo (List.replicate 128 true)))) ∧
    (VReads s c w [w.a] →
      let xs := elemsOf fm (vSource v fm w.a)
      let red (ident : Val) := redVals c1 fm ident inc xs
      let nz : Val := .fin true 0 0 false
      (∀ x r, fpCode fm = true → reduceVals v (addNode w v) (red nz) = .ok x → fpRoundTo fm (rndOf w v (n - 1)) x = some r →
        VDelivers (.vrsum w) w s c fm 9 0 false (BitVec.ofNat 4096 r) all) ∧
      (∀ r, fpCode fm = false →
        intRoundTo fm (rndOf w v 0) (intVal (((inc.zip xs).map fun p => if p.1 then intOf fm p.2 else 0).foldl (· + ·) 0)) = some r →
        VDelivers (.vrsum w) w s c fm 9 0 false (BitVec.ofNat 4096 r) all) ∧
      (∀ (i : Instr) (pick : Val → Val → Val) (neg : Bool), (i = .vrmax w ∧ pick = valMax ∧ neg = true) ∨
          (i = .vrmin w ∧ pick = valMin ∧ neg = false) →
        ∃ x r, reduceVals v (fun _ x y => .ok (pick x y)) (red (.inf neg)) = .ok x ∧
          (∀ p, roundFmt fm (if fpCode fm then rndOf w v (n - 1) else { rndOf w v (n - 1) with ovf := 0 }) x = some p → r = p) ∧
          VDelivers i w s c fm 9 0 false (BitVec.ofNat 4096 r) all) ∧
      (∀ r, scanGo (fun e x y => if fpCode fm then addNode w v e x y else .ok (vadd false x y)) (fun e x => roundFmt fm (rndOf w v e) x) 0
          none (red (if fpCode fm then nz else .fin false 0 0 false)) = .ok r →
        VDelivers (.vscan w) w s c fm 9 0 false (BitVec.ofNat 4096 (packN k r)) all))

/-- In every state in which a vector engine runs the word, with sources and mask that can be read and tags that pass: VPACK, VUNPK, VPERM,
VBCAST and VSLIDE deliver the elements that their rules name, within 3 cycles under the mask; VMOV and VLDI within 2. VMBX reads a mailbox,
as it stood before an MTC of this cycle, into every element, or writes element 0 of its source to a mailbox two cycles later. VTINT delivers
the table's value at each included element, rounded, within 6 cycles, where the table is loaded and each result exists (of an unsound table
the values are free). VTLD, at an aligned readable address, replaces user table t by the 2,064 bytes there, which must describe a table.
Nothing else changes. -/
def Obligations.VectorMovesAndTables : Prop :=
  ∀ (w : EngW) (s : State) (c : Nat), s.cur = .ve (BitVec.ofNat 7 c) → c < 128 →
    let v := veNow s c
    let fm := w.fmt.toNat
    let k := widthOf fm
    let n := countOf fm
    let wm := writeMask k 0 (vIncluded v w n)
    let xs := elemsOf fm (vSource v fm w.a)
    let ys := elemsOf fm (vSource v fm w.b)
    let h := w.mod.toNat % 2
    let x2 := extraRead [w.a, w.b]
    let pack (l : List Nat) : VBits := BitVec.ofNat 4096 (packN k l)
    (VReads s c w [w.a, w.b] →
      VDelivers (.vpack w) w s c fm (3 + x2) x2 false (pack (everyOther h xs ++ everyOther h ys)) wm ∧
      VDelivers (.vunpk w) w s c fm (3 + x2) x2 false (pack ((interleave (xs.drop (h * (n / 2))) (ys.drop (h * (n / 2)))).take n)) wm ∧
      VDelivers (.vslide w) w s c fm (3 + x2) x2 false (pack (if 0 ≤ w.immA.toInt then ((xs ++ ys).drop w.immA.toInt.toNat).take n
        else ((ys ++ xs).drop (w.immA.toInt + n).toNat).take n)) wm) ∧
    (VReads s c w [w.a] →
      VDelivers (.vbcast w) w s c fm (3 + extraRead [w.a]) (extraRead [w.a]) false (pack (List.replicate n (nth xs w.immA.toNat 0))) wm ∧
      VDelivers (.vmov w) w s c fm (2 + extraRead [w.a]) (extraRead [w.a]) false (vSource v fm w.a) wm ∧
      (VReady v (intFmtOf fm) (indexTags fm) (isRaw w) w.b →
        VDelivers (.vperm w) w s c fm (3 + x2) x2 false
          (pack ((elemsOf fm (vSource v (intFmtOf fm) w.b)).map fun i => nth xs ((i + (if k = 8 then 256 * h else 0)) % n) 0)) wm) ∧
      (∀ r : List Nat,
        let id := w.immA.toNat % 16
        (∀ (f : TabFn), ((id < 4 ∧ f = builtin v.q.nbv id) ∨
            (4 ≤ id ∧ tget v.tabDue id 0 ≤ s.now ∧ ∃ t, tget? v.tabs id = some t ∧ t.poisoned = false ∧ f = userTable t)) →
          let open_ (e : Nat) : Prop := f.sound = false ∧ isNan (valOf (v.q.nbv = 1) fm (nth xs e 0)) = false
          r.length = n →
          (∀ e, e < n → if (vIncluded v w n).getD e false then
              let x := valOf (v.q.nbv = 1) fm (nth xs e 0)
              ¬ open_ e → fpRoundTo fm (rndOf w v e) (tintVal f (w.rnd == 2) x) = some (nth r e 0) ∧
                (fpxOn w = true → (isNan (tintVal f (w.rnd == 2) x) && !isNan x) = false)
            else nth r e 0 = 0) →
          ∃ r' : List Nat, r'.length = n ∧ (∀ e, e < n → ((vIncluded v w n).getD e false = false ∨ ¬ open_ e) → nth r' e 0 = nth r e 0) ∧
            VDelivers (.vtint w) w s c fm 6 0 false (pack r') wm))) ∧
    (VReads s c w [] → VDelivers (.vldi w) w s c fm 2 0 false (broadcast fm (w.immB.toNat * 2^16 + w.immA.toNat)) wm) ∧
    (MaskReady v w.m.toNat → VDelivers (.vmbxRead w) w s c 5 2 0 false (broadcast 5 (mbxSeen (settleVe c s) c true (w.immA.toNat % 16)).toNat)
      (writeMask 32 0 (vIncluded v w 128))) ∧
    (VReady v fm [fm] (isRaw w) w.a →
      EngIssues (.vmbxWrite w) s c .ve w.fl 0 (seqrOf s c .ve) fun t => t.events = s.events ∧ SameMem s t ∧
        { (coreOf t c).ve with q := {} } = { v with
          q := {}
          pend := v.pend ++ [{ mbx := some (w.immA.toNat % 16), bits := vSource v fm w.a, due := s.now + 2, q := w.fl.q }] }) ∧
    (∀ tab : TiuTab,
      let ea := engAddr s c .ve w.addr
      let id := w.immA.toNat % 16
      ea % 16 = 0 → ea + 2064 ≤ 0x300000 → Defined s c ea 2064 → parseTable (rdBytes s.mem (scrKey c ea) 2064) = some tab →
      EngIssues (.vtld w) s c .ve w.fl 0 (seqrOf s c .ve) fun t => t.events = s.events ∧ SameMem s t ∧
        ∃ due, { (coreOf t c).ve with q := {} } = { v with q := {}, tabs := tput v.tabs id tab, tabDue := tput v.tabDue id due })

/-- In every state in which a vector engine runs the word with sources and mask that can be read and tags that pass: VLD, VLDS and VGATH bring
the included elements from their offsets (base plus element bytes, plus a byte stride, or plus an unsigned scaled offset; only the base is
taken modulo 2^32, log 26) and deliver them, interlocked, within 6 cycles, where each is aligned, within the scratchpad, readable and
specified. VST, VSTS and VSCAT write the included elements to their offsets below the system area, the highest-numbered one remaining where
two meet; no other byte changes. VLDG and VSTG do the same within the frame of a registered grid of the launch's partition and format: VLDG
once the faces it touches, if any, carry the step K + immediate + multiple of the level's index, VSTG outside ghost cells but those of an
edge under rule 5. No other register, mask, context or unit changes. -/
def Obligations.VectorMemory : Prop :=
  ∀ (w : EngW) (s : State) (c : Nat), s.cur = .ve (BitVec.ofNat 7 c) → c < 128 →
    let v := veNow s c
    let fm := w.fmt.toNat
    let b := elemBytes fm
    let ea := vBase s c w
    let a := vSource v fm w.a
    let o := elemsOf (intFmtOf fm) (vSource v (intFmtOf fm) w.b)
    let unit : Nat → Int := fun e => ea + (e * b : Nat)
    let spread : Nat → Int := fun e => ea + (nth o e 0 * b : Nat)
    VersionOk v w [fm] → MovedReady v w →
    let src := VReady v fm [fm] (isRaw w) w.a
    let off := VReady v (intFmtOf fm) [intFmtOf fm] (isRaw w) w.b
    VLoads (.vld w) w s c unit ∧ VLoads (.vlds w) w s c (fun e => ea + e * w.immB.toInt) ∧ (off → VLoads (.vgath w) w s c spread) ∧
    (src → VStores (.vst w) w s c 0 a unit ∧ VStores (.vsts w) w s c 0 a (fun e => ea + e * w.immB.toInt) ∧
      (off → VStores (.vscat w) w s c (extraRead [w.a, w.b]) a spread)) ∧
    ∀ (g : Grid) (idx base : Nat),
      (framesOf s c).find? (fun x => x.1.id = w.immA.toNat && x.1.part == v.q.part) = some (g, idx, base) → fm = g.fmt →
      let l := vPlaces v w unit
      (∀ p ∈ l, p.1 % b = 0 ∧ base ≤ p.1 ∧ p.1 + b ≤ base + g.frameBytes) →
      (∀ s1 : State,
        let lv := w.mod.toNat % 8
        let step := ((tget v.k (w.c.toNat - 0x80) 0).toNat + w.immB.toNat + w.mod.toNat / 8 % 8 * nth v.q.idx lv 0) % 2^32
        (nth (lvlsOf s c .ve) lv noLvl).used = true → (∀ p ∈ l, p.1 + b ≤ 0x300000 ∧ Defined s c p.1 b) → step ≠ stepNone →
        let faces : Prop := ∃ p ∈ l, ∃ f, f < 6 ∧ faceOfByte g base p.1 = some f
        (faces → ∃ r, haloRecord g idx (settleVe c s) = .ok (r, s1) ∧ ∀ p ∈ l, ∀ f, faceOfByte g base p.1 = some f → f < 6 → tagIn r f = step) →
        (¬ faces → s1 = settleVe c s) →
        ∃ t, exec (.vldg w) s = .next t ∧ EngKept s1 t c .ve ∧ SameMem s t ∧ t.events = s.events ∧
          SeqGoes (wordIssued s.now w.fl.st 0 (seqrOf s c .ve)) t c .ve ∧
          { (coreOf t c).ve with q := {} } =
            { v with
              q := {}
              pend := v.pend ++ [{ reg := if w.d = 0xFF then none else some w.d.toNat, hpos := some v.hnext, bits := vLoaded s c w l,
                                   wm := writeMask (8 * b) 0 (vMoved v w), tag := BitVec.ofNat 16 (fm * 2^12), due := s.now + 6,
                                   lock := true, q := w.fl.q }]
              hids := (v.hnext :: v.hids).take 4, hnext := v.hnext + 1 }) ∧
      (src → (∀ p ∈ l, ∀ f, faceOfByte g base p.1 = some f → g.atEdge idx f = true ∧ g.rule f = 5) → VStores (.vstg w) w s c 0 a unit)

/-- In every state in which a vector engine runs the word with sources and mask that can be read: VLDT, by the consumer, delivers the runs of
bytes that its swizzle, half and row name from the full slot at HEAD, whose format and swizzle must be the word's; VSTT, by the producer,
writes the included elements of its source, which leave no uncorrectable word in part, to the runs of the empty slot at TAIL and notes FMT
and swizzle as its pending tag; a slot that was filled before an eclipse a replay does not write. VDEFER, on a transom that the engine fills
and drains, appends one entry per included lane, lane number and up to four values, where capacity is left, advancing TWR and TCNT. VDRAIN
delivers lanes and values of the oldest entries, at most 128, advances TRD, lowers TCNT, and sets m7 to the number drained. VTQRY delivers
TCNT as INT32. Nothing else changes. -/
def Obligations.VectorSlots : Prop :=
  ∀ (w : EngW) (s : State) (c : Nat), s.cur = .ve (BitVec.ofNat 7 c) → c < 128 →
    let v := veNow s c
    let fm := w.fmt.toNat
    let b := elemBytes fm
    let runs := slotRuns w
    (let id := w.a.toNat
     let d := descOf s c id
     let base := slotBase d d.head
     let tag := slotTag s c id d.head
     VersionOk v w [fm] → MovedReady v w → d.en = true → d.cons = 4 → (∀ r ∈ runs, r.1 + r.2.2 ≤ d.slotb) → headFull s c id d = true →
     hasBad s (scrKey c base) d.slotb = false → (∀ j, j < d.slotb → openByte s c (base + j) = false) →
     tag / 2^12 ≠ 15 → (isRaw w = true ∨ tag / 2^12 = fm) → tag / 2^8 % 16 = w.mod.toNat % 16 →
     VDelivers (.vldt w) w s c fm 6 0 true
       (BitVec.ofNat 4096 ((runs.map fun r => rdN s.mem (scrKey c (base + r.1)) r.2.2 * 2^(8 * r.2.1)).foldl (· + ·) 0))
       (writeMask (8 * b) 0 (vMoved v w))) ∧
    (let id := w.d.toNat
     let d := descOf s c id
     let base := slotBase d d.tail
     let a := vSource v fm w.a
     let offs := runs.map fun r => ((upto r.2.2).filter fun i => (vMoved v w).getD ((r.2.1 + i) / b) false).map fun i => base + r.1 + i
     VersionOk v w [fm] → MovedReady v w → VReady v fm [fm] (isRaw w) w.a → d.en = true → (d.prod = 4 ∨ d.prod = 15) →
     (∀ r ∈ runs, r.1 + r.2.2 ≤ d.slotb) →
     (id ∈ (seqrOf s c .ve).refill → EngIssues (.vstt w) s c .ve w.fl 0 (seqrOf s c .ve) fun t => t.events = s.events ∧ SameMem s t ∧
       { (coreOf t c).ve with q := {}, memDue := 0 } = { v with q := {}, memDue := 0 }) ∧
     (id ∉ (seqrOf s c .ve).refill → tailEmpty s c id d = true → (s.bad = [] ∨ cutAt s c offs.flatten = none) →
     EngIssues (.vstt w) s c .ve w.fl 0 (seqrOf (keepSlots c offs.flatten s) c .ve) fun t => t.events = s.events ∧
       { (coreOf t c).ve with q := {}, memDue := 0 } =
         { v with q := {}, memDue := 0, ptag := tput v.ptag (64 * id + d.tail) (BitVec.ofNat 16 (fm * 2^12 + w.mod.toNat % 16 * 2^8)) } ∧
       ∀ k, byteAt t k =
         match runs.reverse.find? fun r => decide (scrKey c (base + r.1) ≤ k) && decide (k < scrKey c (base + r.1) + r.2.2) &&
           (vMoved v w).getD ((r.2.1 + (k - scrKey c (base + r.1))) / b) false with
         | some r => BitVec.ofNat 8 (a.toNat / 2^(8 * (r.2.1 + (k - scrKey c (base + r.1)))))
         | none => byteAt s k)) ∧
    (let id := w.d.toNat
     let d := descOf s c id
     let n := w.immA.toNat % 8
     let srcs := [w.a, w.b, w.c, w.immB.setWidth 8].take n
     let lanes := (List.range 128).filter fun e => (vIncluded v w 128).getD e false
     let tr := transomOf s c id
     let cap := transomCap d
     id < 16 → d.en = true → d.transom = true → d.prod = 4 → d.cons = 4 → MaskReady v w.m.toNat →
     (∀ x ∈ srcs, VReady v fm [fm] (isRaw w) x) → tr.tcnt + tget v.tfree id 0 + lanes.length ≤ cap → 0 < cap → d.base + 32 * cap ≤ 0x2F0000 →
     EngIssues (.vdefer w) s c .ve w.fl (extraRead srcs) (seqrOf s c .ve) fun t => t.events = s.events ∧
       { (coreOf t c).ve with q := {}, memDue := 0 } = { v with q := {}, memDue := 0 } ∧
       transomOf t c id = { tr with twr := (tr.twr + lanes.length) % cap, tcnt := tr.tcnt + lanes.length } ∧
       (∀ j, j < lanes.length →
         let key := scrKey c (d.base + 32 * ((tr.twr + j) % cap))
         rdN t.mem key 4 = nth lanes j 0 ∧
         ∀ m x, srcs[m]? = some x → rdN t.mem (key + 4 + 4 * m) 4 = nth (elemsOf fm (vSource v fm x)) (nth lanes j 0) 0 % 2^32) ∧
       ∀ k, ¬ InSystem c k → (k < scrKey c d.base ∨ scrKey c (d.base + 32 * cap) ≤ k) → byteAt t k = byteAt s k) ∧
    (let id := w.a.toNat
     let d := descOf s c id
     let n := min 4 (w.immA.toNat % 8)
     let tr := transomOf s c id
     let cap := max 1 (transomCap d)
     let m := min 128 tr.tcnt
     let entry (j : Nat) : Nat := d.base + 32 * ((tr.trd + j) % cap)
     id < 16 → d.en = true → d.transom = true → d.prod = 4 → d.cons = 4 → (∀ j, j < m → Defined s c (entry j) 32) →
     EngIssues (.vdrain w) s c .ve w.fl 0 (seqrOf s c .ve) fun t => t.events = s.events ∧
       transomOf t c id = { tr with trd := (tr.trd + m) % cap, tcnt := tr.tcnt - m } ∧
       (∀ k, ¬ InSystem c k → byteAt t k = byteAt s k) ∧
       { (coreOf t c).ve with q := {} } =
         { v with
           q := {}
           pend := v.pend ++ (upto (n + 1)).map (fun i =>
             { reg := if w.d.toNat + i = 0xFF then none else some (w.d.toNat + i), hpos := some (v.hnext + i)
               bits := BitVec.ofNat 4096 (packN 32 ((upto m).map fun j => rdN s.mem (scrKey c (entry j + 4 * i)) 4))
               wm := BitVec.allOnes 4096, tag := BitVec.ofNat 16 ((if i = 0 then 5 else fm) * 2^12), due := s.now + 6, lock := true
               q := w.fl.q : VPend }) ++
             [{ msk := some 7, bits := BitVec.ofNat 4096 (2^m - 1), wm := BitVec.ofNat 4096 (2^512 - 1), due := s.now + 6, lock := true,
                q := w.fl.q }]
           hids := (((upto (n + 1)).map (v.hnext + ·)).reverse ++ v.hids).take 4, hnext := v.hnext + n + 1
           tfree := tput v.tfree id (tget v.tfree id 0 + m) }) ∧
    (let d := descOf s c w.a.toNat
     w.a.toNat < 16 → d.en = true → d.transom = true → d.prod = 4 → d.cons = 4 → MaskReady v w.m.toNat →
     VDelivers (.vtqry w) w s c 5 2 0 false (broadcast 5 (transomOf s c w.a.toNat).tcnt) (writeMask 32 0 (vIncluded v w 128)))

/-- In every state in which a matrix engine runs the word and no job stands in its way: MMA, with both operands ready, those of MMAs in progress
passed over, an open bank of the word's exponent or a new one, a version that has its formats and no scale pair out of range, starts its
K-steps and holds the next word back by their number less one. MDRN and MDRNP, of the one open bank, with an empty output slot the engine
may fill and its addend ready, start the drain with the word's format, rounding, alpha and position. MACLD of a partial whose exponents are
the word's opens the bank with zeros and starts the load. MCLR closes the bank two cycles later: it is discarded with its coma entries.
MCOMA writes entry count, highest count and open banks to a mailbox two cycles later, and with its bit resets the highest count. No byte of
memory, context, other engine or unit changes. -/
def Obligations.MatrixWords : Prop :=
  (∀ (s : State) (c n : Nat), bankOf (meNow s c) n =
    if (coreOf s c).me.closing.any fun e => e.1 = n && decide (e.2 ≤ s.now) then none else bankOf (coreOf s c).me n) ∧
  ∀ (w : EngW) (s : State) (c : Nat), c < 128 → s.cur = .me (BitVec.ofNat 7 c) →
    let m := meNow s c
    let wexp := sgn 8 w.immA.toNat
    (let n := w.d.toNat
     let fa := w.fmt.toNat / 4
     let fb := w.fmt.toNat % 4
     let qa := w.a.toNat
     let qb := w.b.toNat
     let z := w.mod.getLsbD 0
     let da := afterPops m qa (descOf s c qa)
     let db := afterPops m qb (descOf s c qb)
     (m.q.nbv = 1 → fa ≠ 1 ∧ fb ≠ 1) → mmaHeld m = false → bankHeld m n = false → (z = true → bankOf m n = none) →
     (z = false → ∃ b, bankOf m n = some b ∧ b.w = wexp) → operandHeld m qa (descOf s c qa) = false →
     operandHeld m qb (descOf s c qb) = false →
     OperandAt s c qa da (8 + fa) 4 (256 * mxBytes (8 + fa)) → OperandAt s c qb db (8 + fb) 4 (256 * mxBytes (8 + fb)) →
     rangeFail s c (slotBase da da.head) (slotBase db db.head) (8 + fa) (8 + fb) wexp = none →
     MeIssues (.mma w) s c w.fl (128 / gangK fa fb - 1)
       { m with
         banks := if z then tput m.banks n (zeroBank wexp) else m.banks
         mma := m.mma ++ [{ bank := n, qa := qa, qb := qb, sa := da.head, sb := db.head, fa := fa, fb := fb,
                            stopFull := m.q.accp || w.mod.getLsbD 1, t := 0, due := s.now + 3, issueNo := m.issueNo, pc := m.q.pc }] }) ∧
    (∀ (i : Instr) (wide : Bool), (i = .mdrn w ∧ wide = false) ∨ (i = .mdrnp w ∧ wide = true) →
      let n := w.a.toNat
      let out := w.d.toNat
      let swz := w.mod.toNat % 16
      let d := descOf s c out
      let addend := if wide = true ∨ w.b = 0xFF then none else some w.b.toNat
      (m.q.nbv = 1 → w.rnd ≠ 5) → bankBusy m n = false → m.drain = none → m.closing = [] → (∃ b, bankOf m n = some b) → (∀ b ∈ m.banks, b.1 = n) →
      d.en = true → (d.prod = 3 ∨ d.prod = 15) → 4096 * drainBytes wide w.fmt.toNat ≤ d.slotb → tailEmpty s c out d = true →
      (∀ id, addend = some id → WideReady s c id swz) →
      EngIssues i s c .me w.fl 0 (seqrOf s c .me) fun t => t.events = s.events ∧ SameMem s t ∧
        ∃ k : EMark, k.pc = (seqrOf t c .me).pc ∧ k.idx = (seqrOf t c .me).idx ∧ k.phase = (seqrOf t c .me).phase ∧
          { (coreOf t c).me with q := {} } =
            { m with
              q := {}
              issueNo := m.issueNo + 1
              drains := if wide then m.drains else m.drains + 1
              drain := some { bank := n, out := out, addend := addend, addSlot := (addend.map fun id => (descOf s c id).head).getD 0, wide := wide, fmt := w.fmt.toNat, rnd := w.rnd.toNat,
                              ovf := w.ovf.toNat, swz := swz, alpha := if w.mod.getLsbD 4 then some (w.immA ++ w.immB) else none,
                              seed := m.k15, nth := m.drains, row := 0, start := s.now, issueNo := m.issueNo, pc := m.q.pc,
                              step := nth m.q.idx 0 0, snap := some k } }) ∧
    (let n := w.d.toNat
     let src := w.a.toNat
     let swz := w.mod.toNat / 4 % 16
     let base := slotBase (descOf s c src) (descOf s c src).head
     bankBusy m n = false → m.load = none → bankOf m n = none → WideReady s c src swz →
     (∀ pos, pos < 4096 → (wideVal (wideElem s c base swz pos)).2 = wexp) →
     MeIssues (.macld w) s c w.fl 0
       { m with
         banks := tput m.banks n (zeroBank wexp)
         load := some { bank := n, src := src, swz := swz, stopFull := m.q.accp || w.mod.getLsbD 1, row := 0, start := s.now,
                        issueNo := m.issueNo, pc := m.q.pc } }) ∧
    (bankBusy m w.d.toNat = false →
      MeIssues (.mclr w) s c w.fl 0
        { m with closing := m.closing ++ [(w.d.toNat, s.now + 2)] }) ∧
    (m.mma = [] → m.drain = none → m.load = none → m.closing = [] → m.mbxPend = [] →
      MeIssues (.mcoma w) s c w.fl 1
        { m with
          mbxPend := [(w.immA.toNat % 16, BitVec.ofNat 32 (m.coma.length + 2^12 * m.high + 2^24 *
            ((upto 4).map fun n => if (bankOf m n).isSome then 2^n else 0).foldl (· + ·) 0), s.now + 2)]
          high := if w.immA.getLsbD 4 then m.coma.length else m.high })

/-- Where no byte that a job reads is uncorrectable: a K-step of the MMA in progress, or what is left of it, that the coma can take adds to the
value of every position (lane plus 2^20 times count) exactly the product sum of the block, aligned to the bank's exponent and truncated
toward minus infinity, and none where a scale is NaN, and only poisons there; the last one retires both operand slots. ROW_FOLD computes the
64 outputs of a row for their places in the output slot and frees its coma entries. MACLD_ROW makes the value of each position of a row that
is left that of its partial. A full coma that may drain holds either at its position. COMMIT, where the output slot is empty, writes the
outputs there, fills it with its tag, retires a ring addend, discards the bank with its coma entries, and writes the mark of the word. No
context, other engine or unit changes. -/
def Obligations.MatrixJobs : Prop :=
  ∀ (s : State) (c : Nat), c < 128 → s.cur = .me (BitVec.ofNat 7 c) →
    let m := (coreOf s c).me
    (∀ j rest b, m.mma = j :: rest → bankOf m j.bank = some b → b.lanes.length = 4096 → b.poison.length = 4096 →
      let k := gangK j.fa j.fb
      let rows := (upto 64).map fun i => operandBlock s c (slotBase (descOf s c j.qa) j.sa) (8 + j.fa) i (j.t * k / 32)
      let cols := (upto 64).map fun i => operandBlock s c (slotBase (descOf s c j.qb) j.sb) (8 + j.fb) i (j.t * k / 32)
      let term (pos : Nat) : Option Int :=
        let x := rows.getD (pos / 64) ([], 0)
        let y := cols.getD (pos % 64) ([], 0)
        if x.2 = 0xFF || y.2 = 0xFF then none
        else
          let dot := (((x.1.drop (j.t * k % 32)).take k).zipWith (· * ·) ((y.1.drop (j.t * k % 32)).take k)).foldl (· + ·) 0
          let e := stepExp x.2 y.2 (8 + j.fa) (8 + j.fb) b.w
          some (if e < 0 then dot / ((2^(-e).toNat : Nat) : Int) else dot * ((2^e.toNat : Nat) : Int))
      firstBad s c (rowBytes (slotBase (descOf s c j.qa) j.sa) (8 + j.fa) (j.t * k / 32) ++
        rowBytes (slotBase (descOf s c j.qb) j.sb) (8 + j.fb) (j.t * k / 32)) = none →
      (∀ p, (stepGo j.bank j.pos term 0 b.lanes b.poison m.coma).2.2.2 = .full p → comaWaits m j.bank j.stopFull = true →
        MeActs .kStep s c fun t => (coreOf t c).me.mma = { j with pos := p, due := s.now + 1 } :: rest ∧ SameMem s t) ∧
      ((stepGo j.bank j.pos term 0 b.lanes b.poison m.coma).2.2.2 = .done →
      MeActs .kStep s c fun t =>
        let m' := (coreOf t c).me
        (∀ pos, pos < 4096 → accValue m' j.bank pos = accValue m j.bank pos + if j.pos ≤ pos then (term pos).getD 0 else 0) ∧
        (∃ b', bankOf m' j.bank = some b' ∧ b'.w = b.w ∧
          ∀ pos, pos < 4096 → nth b'.poison pos false = (nth b.poison pos false || (decide (j.pos ≤ pos) && (term pos).isNone))) ∧
        (∀ n, n ≠ j.bank → bankOf m' n = bankOf m n) ∧
        (j.t + 1 < 128 / k → m'.mma = { j with t := j.t + 1, pos := 0, due := s.now + kSpacing s } :: rest ∧ SameMem s t) ∧
        (128 / k ≤ j.t + 1 → j.qa < 48 → j.qb < 48 → j.qa ≠ j.qb →
          m'.mma = rest.map (fun x => { x with due := max x.due (s.now + kSpacing s) }) ∧
          slotState t c j.qa (descOf s c j.qa).head = 2 ∧ slotState t c j.qb (descOf s c j.qb).head = 2))) ∧
    (∀ j b l, m.drain = some j → bankOf m j.bank = some b →
      let n := drainBytes j.wide j.fmt
      (∀ id, j.addend = some id → firstBad s c (wideBytes (slotBase (descOf s c id) j.addSlot) j.swz j.row) = none) →
      drainRow s c j b m.coma 64 (64 * j.row) = .ok l →
      ∃ t, exec .rowFold s = .next t ∧ EngKept s t c .me ∧ t.events = s.events ∧ SameMem s t ∧
        (∀ i, i < 64 → ∃ x, drainElem s c j b m.coma (64 * j.row + i) = some x ∧
          l[i]? = some (swzByte j.swz (n * (64 * j.row + i)), natBytes n x)) ∧
        { (coreOf t c).me with q := {} } =
          { m with
            q := {}
            coma := m.coma.filter fun e => !(e.bank = j.bank && e.pos / 64 = j.row)
            drain := some { j with row := j.row + 1, outs := j.outs ++ l
                                   poisonOut := j.poisonOut || ((b.poison.drop (64 * j.row)).take 64).any id } }) ∧
    (∀ j b, m.load = some j → bankOf m j.bank = some b → b.lanes.length = 4096 → j.row < 64 →
      let base := slotBase (descOf s c j.src) (descOf s c j.src).head
      let first := if j.pos = 0 then 64 * j.row else j.pos
      let r := loadGo s c base j.swz j.bank (64 * (j.row + 1) - first) first b.lanes m.coma
      firstBad s c (wideBytes base j.swz j.row) = none →
      (∀ p, r.2.2 = .full p → comaWaits m j.bank j.stopFull = true →
        MeActs .macldRow s c fun t => SameMem s t ∧
          (coreOf t c).me.load = some { j with pos := p, start := s.now + 1 - (4 + j.row) }) ∧
      (r.2.2 = .done →
      MeActs .macldRow s c fun t =>
        let m' := (coreOf t c).me
        (∀ pos, first ≤ pos → pos < 64 * (j.row + 1) → comaCount j.bank pos m.coma = 0 →
          accValue m' j.bank pos = (wideVal (wideElem s c base j.swz pos)).1) ∧
        (∀ pos, pos < 4096 → (pos < first ∨ 64 * (j.row + 1) ≤ pos) → accValue m' j.bank pos = accValue m j.bank pos) ∧
        (j.row < 63 → m'.load = some { j with row := j.row + 1, pos := 0 } ∧ SameMem s t) ∧
        (j.row = 63 → j.src < 16 → m'.load = none ∧ slotState t c j.src (descOf s c j.src).head = 2))) ∧
    (∀ j, m.drain = some j → j.out < 48 → j.addend ≠ some j.out → (descOf s c j.out).tail < 64 →
      (∀ id, j.addend = some id → (descOf s c id).head < 64) →
      let d := descOf s c j.out
      let h := hdrOff j.out d.tail
      let base := slotBase d d.tail
      tailEmpty s c j.out d = true → (∀ o ∈ j.outs, base + o.1 + o.2.length ≤ 0x2F0000) →
      ∃ t, exec .commit s = .next t ∧ EngKept s t c .me ∧ t.events = s.events ∧
        (∀ k, ¬ InSystem c k →
          byteAt t k = byteAt (j.outs.foldl (fun u o => storeBytes u (scrKey c (base + o.1)) o.2) s) k) ∧
        let m' := (coreOf t c).me
        slotState t c j.out d.tail = 1 ∧ sysRead t c (h + 4) 4 = j.step % 2^32 ∧ sysRead t c (h + 8) 2 = 3 + 16 * c ∧
        sysRead t c (h + 12) 4 = 4096 * drainBytes j.wide j.fmt ∧
        sysRead t c (h + 2) 2 =
          (if j.poisonOut = true ∧ j.wide = true then 0xF000 else (if j.wide then 11 else j.fmt) * 2^12 + j.swz * 2^8) % 2^16 ∧
        m'.drain = none ∧ m'.banks = tdel m.banks j.bank ∧ m'.coma = m.coma.filter (fun e => e.bank != j.bank) ∧
        m'.q.mark = j.snap ∧ m'.q.markIdx = m.q.markIdx + 1 ∧ m'.q.ordinal = 0 ∧ m'.q.pc = m.q.pc)

/-- In every state in which the command processor runs a program whose next op this is, with fewer than 512 ops done: ADD, SUB, AND, OR, XOR,
ADDI, SHLI, SHRI and LDK write their register (x0 stays zero) and go on; BRZ and BRNZ go on past their skip count or to the next op; LOOP
enters its body with the smaller of its register and bound as count, or skips it on zero; nothing but the command processor changes, and no
other queue. LDM reads and STM writes the 8 bytes of the window that the register plus immediate name, modulo the window's size, rounded
down. EMIT, with fewer than 64 emitted and a type that may be emitted, puts the packet of its two registers in the queue's hand. FAULT
faults the queue with code 6, and its immediate goes out with the event. END ends the run, moves RIDX to the next index outside a block, and
fetches the next packet. -/
def Obligations.GrailoOps : Prop :=
  (∀ w : GrW, GrRuns (.grailoAdd w) (fun r => grWrote r w.d (grReg r w.a + grReg r w.b)) ∧
    GrRuns (.grailoSub w) (fun r => grWrote r w.d (grReg r w.a - grReg r w.b)) ∧
    GrRuns (.grailoAnd w) (fun r => grWrote r w.d (grReg r w.a &&& grReg r w.b)) ∧
    GrRuns (.grailoOr w) (fun r => grWrote r w.d (grReg r w.a ||| grReg r w.b)) ∧
    GrRuns (.grailoXor w) (fun r => grWrote r w.d (grReg r w.a ^^^ grReg r w.b))) ∧
  (∀ w : GrIW, GrRuns (.grailoAddi w) (fun r => grWrote r w.d (grReg r w.a + w.i.signExtend 64))) ∧
  (∀ w : GrSW, GrRuns (.grailoShli w) (fun r => grWrote r w.d (grReg r w.a <<< w.n.toNat)) ∧
    GrRuns (.grailoShri w) (fun r => grWrote r w.d (grReg r w.a >>> w.n.toNat))) ∧
  (∀ w : GrKW, GrRuns (.grLdk w) (fun r => grWrote r w.d ((grReg r w.d <<< 14) ||| w.i.setWidth 64))) ∧
  (∀ w : GrBW, GrRuns (.grBrz w) (fun r => r.goto (if grReg r w.a = 0 then r.pc + 1 + w.n.toNat else r.pc + 1)) ∧
    GrRuns (.grBrnz w) (fun r => r.goto (if grReg r w.a = 0 then r.pc + 1 else r.pc + 1 + w.n.toNat))) ∧
  (∀ w : GrLW, GrRuns (.grLoop w) (fun r =>
    let n := min (grReg r w.a).toNat w.u.toNat
    if n = 0 then r.goto (r.pc + 1 + w.l.toNat) else { r with pc := r.pc + 1, loops := (r.pc + 1, r.pc + 1 + w.l.toNat, n) :: r.loops })) ∧
  ∀ (s : State) (d q : Nat) (r : Grailo),
    let r1 := { r with ops := r.ops + 1 }
    (∀ (w : GrMW) (base size : Nat), lqWindow s d q w.w.toNat = some (base, size) →
      let va := base + (grReg r w.a + w.i.signExtend 64).toNat % size / 8 * 8
      (∀ l s1, GrNext (.grLdm w) s d q r → cpRead d q va 8 (cpServed s d q) = .ok (l, s1) →
        ∃ t, exec (.grLdm w) s = .next t ∧ CpKept s1 t d ∧ (runOf s1 d q ≠ none → runOf t d q = some (grWrote r1 w.d (BitVec.ofNat 64 (bytesNat l))))) ∧
      (∀ s1, GrNext (.grStm w) s d q r → cpWrite d q va (natBytes 8 (grReg r w.d).toNat) (cpServed s d q) = .ok ((), s1) →
        ∃ t, exec (.grStm w) s = .next t ∧ CpKept s1 t d ∧ (runOf s1 d q ≠ none → runOf t d q = some (r1.goto (r.pc + 1))))) ∧
    (∀ w : GrEW, GrNext (.grEmit w) s d q r →
      let b := natBytes 8 (grReg r w.d).toNat ++ natBytes 8 (grReg r w.a).toNat
      r.emits < 64 → recF b 0 1 ∈ [1, 2, 3, 4, 6] →
      ∃ t, exec (.grEmit w) s = .next t ∧ CpKept s t d ∧ (tget? (cpOf t d).q q).bind (·.pkt) = some b ∧
        runOf t d q = some { r1.goto (r.pc + 1) with emits := r.emits + 1 }) ∧
    (∀ w : GrFW, GrNext (.grFault w) s d q r →
      ∃ u, exec (.grFault w) s = .next (sendEvent (lqPart s d q + 1) 0x40
        (numberedBytes 4 (natBytes 4 q) ++ numberedBytes 8 (natBytes 8 (lqRidx s d q)) ++ numberedBytes 16 (natBytes 1 6) ++
          numberedBytes 18 (natBytes 2 w.i.toNat)) u) ∧ tget? (cpOf u d).q q = none ∧
        (mapped (lqRec s d q + 0x68) = true → lqF u d q 0x68 4 = 3 + 2^8 * 6)) ∧
    (GrNext .grailoEnd s d q r →
      ∃ u, exec .grailoEnd s = .next (cpIdle d q (cpFetch d q u)) ∧ runOf u d q = none ∧
        (lqDepth s d q = 0 → lqRidx s d q + 1 < 2^64 → mapped (lqRec s d q + 0x18) = true → lqRidx u d q = lqRidx s d q + 1 ∧ CpKept { s with mem := u.mem } u d))

/-- In every state in which the command processor decodes the packet, with valid flags and fields: SLICE reads its record, is in flight, and the
slice is handed to dispatch. GRAPH with every frame in use waits; else it reads header, edges, checks the records of the slices that need no
other, reads the patch, takes the lowest free frame, instantiates it from template and patch, notes it, and hands over the slices that need
no other. WAIT on a counter goes on once it is at least the threshold, or a value has met it, and else waits; WAIT in memory the same, to be
read again within 4,096 cycles. SIGNAL adds to the counter with saturation, on another die when it arrives there (the queue goes on), or
stores the sign-extended value. CHAIN opens a block of the packets at its address, at most four deep. NOP does nothing else. CUSTOM starts
the queue's program with the packet in x1 and x2. A packet that is done completes with its record, and the next one is fetched; in the ring,
outside a program, RIDX moves to the next index. -/
def Obligations.LaunchPackets : Prop :=
  (∀ (s s0 : State) (d q : Nat) (x : LQueue) (b : List Byte),
    let va := recF b 8 8
    let flags := recF b 1 1
    let part := BitVec.ofNat 3 (lqPart s d q)
    (∀ r s1, Decodes s s0 d 1 q x b → recF b 2 6 = 0 → va % 64 = 0 → cpRead d q va 256 s0 = .ok (r, s1) → badSlice r = false →
      ∃ u, exec .cpSlice s = .next (cpConsume d q u) ∧
        (dieOf u d).disp.pending = (dieOf s1 d).disp.pending ++ [⟨(cpOf s1 d).tok, none, BitVec.ofNat 3 (lqPart s1 d q), q, va, r, none⟩] ∧
        (cpOf u d) = (cpOf (cpFlown s1 d q 1 flags false) d) ∧ SameMem s1 u) ∧
    (∀ h s1 eb s2 s3 patch s4, Decodes s s0 d 2 q x b → recF b 2 2 = 0 → va % 64 = 0 → cpRead d q va 64 s0 = .ok (h, s1) →
      badGraph h = false → cpRead d q (recF h 0x10 8) (4 * recF h 2 2) s1 = .ok (eb, s2) →
      let edges := (chunkNats 4 (recF h 2 2) eb).map fun e => (e % 2^16, e / 2^16)
      let sl := (upto (recF h 0 2)).map fun i => recF h 8 8 + 256 * i
      (∀ e ∈ edges, e.1 < e.2 ∧ e.2 < recF h 0 2) →
      cpSlices d q ((upto sl.length).filterMap fun i => if edges.any fun e => e.2 = i then none else sl[i]?) s2 = .ok ((), s3) →
      let size := 2^(recF h 5 1)
      graphPatch d q size b s3 = .ok (patch, s4) →
      let use := recF h 0x28 8
      ((∀ i, i < max 1 (recF h 4 1) → use / 2^i % 2 = 1) →
        ∃ t, exec .cpGraph s = .next t ∧ CpKept s4 t d ∧
          (tget? (cpOf s4 d).q q ≠ none → (tget? (cpOf t d).q q).bind (·.wait) = some (.graph va))) ∧
      (∀ i tpl s5 s6 s7 s8, i < max 1 (recF h 4 1) → use / 2^i % 2 = 0 → (∀ j, j < i → use / 2^j % 2 = 1) →
        let frame := recF h 0x20 8 + i * size
        cpRead d q (recF h 0x18 8) size s4 = .ok (tpl, s5) → cpWrite d q frame tpl s5 = .ok ((), s6) →
        cpApply d q frame patch s6 = .ok ((), s7) → cpWrite d q (va + 0x28) (natBytes 8 (use + 2^i)) s7 = .ok ((), s8) →
        let g : GraphInst := ⟨(cpOf s8 d).tok, q, BitVec.ofNat 3 (lqPart s8 d q), va, i, frame, sl, edges, [], [], false, false, false⟩
        exec .cpGraph s = .next (cpConsume d q (graphHand d g
          (modCp (cpFlown s8 d q 2 flags false) d fun c => { c with graphs := c.graphs ++ [g] }))))) ∧
    (∀ k i, recF b 4 4 = i + 2^16 * k → i < 2^16 → k < 4 → hssInRange s (lqPart s d q) i = true → hssPoisoned s k i = false →
      recF b 2 2 = 0 →
      (Decodes s s0 d 3 q x b → x.wait.isSome = true ∨ sgn 64 (recF b 8 8) ≤ hssGet s k i → exec .waitHss s = .next (cpDone s0 d q b)) ∧
      (Decodes s s0 d 3 q x b → x.wait = none → hssGet s k i < sgn 64 (recF b 8 8) →
        ∃ t, exec .waitHss s = .next t ∧ CpKept s t d ∧
          (tget? (cpOf t d).q q).bind (·.wait) = some (.hss k i (sgn 64 (recF b 8 8)) false)) ∧
      (Decodes s s0 d 5 q x b → k = d → ∃ u, exec .signalHss s = .next (cpDone u d q b) ∧
        CounterSet s0 u k i (clamp64 (hssGet s k i + sgn 64 (recF b 8 8))) ∧ SameMem s u) ∧
      (Decodes s s0 d 5 q x b → k ≠ d →
        let u := cpFlown s0 d q 4 flags false
        let f : FarSem := ⟨s.now + Config.latHssFar, k, i, .add (BitVec.ofInt 64 (sgn 64 (recF b 8 8))), 32 * d, .L, lqPart s d q, 0, s.reqId,
          some (d, q, (cpOf s d).tok)⟩
        exec .signalHss s = .next (cpConsume d q { u with reqId := s.reqId + 1, farSems := s.farSems ++ [f] }) ∧
          ∀ v : State, hssPoisoned v k i = false → ∃ w, farSignal f v = cpComplete d (cpOf s d).tok 0 w ∧
            CounterSet v w k i (clamp64 (hssGet v k i + sgn 64 (recF b 8 8))) ∧ SameMem v w)) ∧
    (∀ l s1, Decodes s s0 d 4 q x b → recF b 2 2 = 1 → va % 8 = 0 →
      readVia (cpTgt d (lqPart s0 d q)) 2 s0 (32 * d) va 8 = (.ok l, s1) →
      let thr := sgn 32 (recF b 4 4)
      (thr ≤ sgn 64 (bytesNat l) → exec .waitMemory s = .next (cpDone s1 d q b)) ∧
      (sgn 64 (bytesNat l) < thr → ∃ t, exec .waitMemory s = .next t ∧ CpKept s1 t d ∧ (tget? (cpOf s1 d).q q ≠ none →
        (tget? (cpOf t d).q q).bind (·.wait) = some (.mem va thr (s.now + 4096))))) ∧
    (∀ s1, Decodes s s0 d 6 q x b → recF b 2 2 = 1 → va % 8 = 0 →
      cpWrite d q va (natBytes 8 (BitVec.ofInt 64 (sgn 32 (recF b 4 4))).toNat) s0 = .ok ((), s1) →
      exec .signalMemory s = .next (cpDone s1 d q b)) ∧
    (Decodes s s0 d 7 q x b → mapped (lqRec s d q + 0x70 + 16 * lqDepth s d q) = true →
      mapped (lqRec s d q + 0x78 + 16 * lqDepth s d q) = true → recF b 2 2 = 0 → recF b 4 4 ≠ 0 → recF b 4 4 ≤ 2^20 → va % 16 = 0 → lqDepth s d q < 4 →
      ∃ u, exec .cpChain s = .next (cpFetch d q u) ∧ lqF u d q (0x70 + 16 * lqDepth s d q) 8 = va ∧
        lqF u d q (0x78 + 16 * lqDepth s d q) 4 = recF b 4 4 ∧
        tget (cpOf u d).chains q [] = (cpOf s d).tok :: tget (cpOf s d).chains q [] ∧
        (cpOf u d).flights = (cpOf s d).flights ++
          [⟨(cpOf s d).tok, q, part, lqRidx s d q, 5, flags, tget (cpOf s d).chains q [], true, 0⟩]) ∧
    (Decodes s s0 d 8 q x b → recF b 2 14 = 0 → exec .launchNop s = .next (cpDone s0 d q b)) ∧
    (Decodes s s0 d 9 q x b → ∃ t, exec .cpCustom s = .next t ∧ CpKept s t d ∧
      runOf t d q = some { x := [(1, BitVec.ofNat 64 (recF b 0 8)), (2, BitVec.ofNat 64 va)] } ∧
      (tget? (cpOf t d).q q).bind (·.pkt) = none)) ∧
  ∀ (s : State) (d q : Nat) (x : LQueue), tget? (cpOf s d).q q = some x → x.run = none → lqDepth s d q = 0 → lqRidx s d q + 1 < 2^64 →
    x.limit ≤ lqRidx s d q + 1 → mapped (lqRec s d q + 0x18) = true →
    let t := cpConsume d q s
    lqRidx t d q = lqRidx s d q + 1 ∧ tget? (cpOf t d).q q = some { x with pkt := none, wait := none, used := s.now } ∧
      ∀ k, (k < lqRec s d q ∨ lqRec s d q + 256 ≤ k) → byteAt t k = byteAt s k

/-- A fresh knock of a queue's own partition writes KSEQ, latches its index and sets the knock bit, and wakes the package from SLEEP; one whose
sequence is not fresh changes nothing; a peer's or host's knock of another partition's queue is discarded with an event, and so is one in
the clear of a locked interface. KNOCK_SCAN takes the next set bit after the last taken, around, clears it unless a knock sets it in that
cycle, and takes up its queue: a resident queue may fetch up to the latched index and is active. RECONCILE_PASS sets the bit and latches the
index of exactly the idle and active queues whose WIDX is not RIDX. MEMORY_WAIT_REREAD reads the signal of a wait that is due again.
QUEUE_REGISTRATION makes a copy or collective queue's slot valid, where the descriptor names its partition, with no overrun or stop, and
changes no other slot. -/
def Obligations.KnocksAndScans : Prop :=
  ∀ s : State,
    (∀ w : KnockStore,
      let d := w.die.toNat
      let q := w.queue.toNat
      let own : Prop := ∀ p, knockPart w.by_ = some p → p = lqPart s d q
      let n := (w.seq.toNat + 2^32 - lqF s d q 0x6C 4 % 2^32) % 2^32
      let shut : Prop := ∃ fn ide, w.by_ = .host fn ide ∧ fnShut s fn.toNat ide = true
      (shut → exec (.knock w) s = .next (sendEvent (lqPart s d q + 1) 0x21 [] s)) ∧
      (¬ shut → own → 1 ≤ n → n ≤ 2^31 - 1 → mapped (lqRec s d q + 0x6C) = true → ∃ t, exec (.knock w) s = .next t ∧ lqF t d q 0x6C 4 = w.seq.toNat ∧
        tget (cpOf t d).latch q 0 = w.kidx.toNat ∧ q ∈ (cpOf t d).kvec ∧ (∀ k, k ∈ (cpOf s d).kvec → k ∈ (cpOf t d).kvec) ∧
        (∀ k, k ≠ q → tget (cpOf t d).latch k 0 = tget (cpOf s d).latch k 0) ∧ t.power.mode ≠ 2 ∧
        ∀ k, (k < lqRec s d q + 0x6C ∨ lqRec s d q + 0x70 ≤ k) → byteAt t k = byteAt s k) ∧
      (¬ shut → own → (n = 0 ∨ 2^31 ≤ n) → exec (.knock w) s = .next s) ∧
      (¬ shut → ¬ own → (∀ p, w.by_ ≠ .context p) → exec (.knock w) s = .next (sendEvent 0 0x42 [] s))) ∧
    (∀ d : Nat, d < 4 → s.cur = .cp (BitVec.ofNat 2 d) →
      let c := cpOf s d
      (∀ q, q ∈ c.kvec → ((c.scanPos < q ∧ ∀ k ∈ c.kvec, c.scanPos < k → q ≤ k) ∨ ((∀ k ∈ c.kvec, k ≤ c.scanPos) ∧ ∀ k ∈ c.kvec, q ≤ k)) →
        let s1 := modCp s d fun c => { c with kvec := if c.fresh.contains (q, s.now) then c.kvec else without c.kvec q, scanPos := q, scanReady := s.now + 1 }
        exec .knockScan s = .next (cpTakeBit d q s1) ∧
        (∀ x, tget? c.q q = some x → x.load = false → lqF s d q 0x0A 1 % 2 = 1 → lqState s d q < 2 → mapped (lqRec s d q + 0x68) = true →
          ∃ u y, cpTakeBit d q s1 = cpIdle d q (cpFetch d q u) ∧ tget? (cpOf u d).q q = some y ∧ y.limit = lqLimit s d q ∧ y.pkt = x.pkt ∧
            lqState u d q = 1)) ∧
      (∃ t, exec .reconcilePass s = .next t ∧ CpKept s t d ∧ (cpOf t d).recon = s.now ∧
        ∀ q, (q ∈ (cpOf t d).kvec ↔ q ∈ c.kvec ∨ (q < 4096 ∧ lqState s d q ≤ 1 ∧ lqF s d q 0x10 8 ≠ lqRidx s d q)) ∧
          (q < 4096 → lqState s d q ≤ 1 → lqF s d q 0x10 8 ≠ lqRidx s d q → tget (cpOf t d).latch q 0 = lqF s d q 0x10 8 % 2^32)) ∧
      (∀ q b va thr l s1, rereadDue s d = some (q, b, va, thr) →
        readVia (cpTgt d (lqPart s d q)) 2 (modCp s d fun c => { c with ready := s.now + 1 }) (32 * d) va 8 = (.ok l, s1) →
        (thr ≤ sgn 64 (bytesNat l) → exec .memoryWaitReread s = .next (cpDone s1 d q b)) ∧
        (sgn 64 (bytesNat l) < thr → ∃ t, exec .memoryWaitReread s = .next t ∧ CpKept s1 t d ∧ (tget? (cpOf s1 d).q q ≠ none →
          (tget? (cpOf t d).q q).bind (·.wait) = some (.mem va thr (s.now + 4096)))))) ∧
    (∀ c n desc p, ∃ t, exec (.queueRegistration (.copy c n desc p)) s = .next t ∧
      ((∀ l, (unitRead s c.toNat p.toNat desc.toNat 64).1 = .ok l → (qDescOf l).part = p.toNat) →
        tget? (ceOf t c.toNat).slots n.toNat = some ⟨desc, p, false, false, false⟩) ∧
      (∀ k, k ≠ n.toNat → tget? (ceOf t c.toNat).slots k = tget? (ceOf s c.toNat).slots k) ∧ SameMem s t ∧
      ∀ k x, ctxOf t k x = ctxOf s k x) ∧
    (∀ d n desc p, ∃ t, exec (.queueRegistration (.collective d n desc p)) s = .next t ∧
      ((∀ l, (dieRead s d.toNat p.toNat desc.toNat 64).1 = .ok l → (qDescOf l).part = p.toNat) →
        tget? (xeOf t d.toNat).slots n.toNat = some ⟨desc, p, false, false, false⟩) ∧ n.toNat ∉ (xeOf t d.toNat).held ∧
      (∀ k, k ≠ n.toNat → tget? (xeOf t d.toNat).slots k = tget? (xeOf s d.toNat).slots k) ∧ SameMem s t ∧
      ∀ k x, ctxOf t k x = ctxOf s k x)

/-- An idle engine takes the next ready packet of LIN, BOX, CVT, WIN, FILL, PUBLISH or a prefetch: STATUS RUNNING, the checks in their order,
then its first bytes; QUEUE_SCAN does so for a packet that was not announced. A packet in hand goes on: LIN within the own scratchpad copies
the group's bytes to their places and changes no other byte, FILL repeats its 8-byte pattern; the others move the runs that their boxes,
windows and conversions name, a prefetch moves none, a PUBLISH notes its shutter. SECTOR_GROUP_MARK counts the group, issues its landing,
and moves the next group or, with the last, fills the slot, if it has one that is at TAIL and still empty, and enters completion; a slot
that another has filled is waited for. A write of the packet's own record that takes a walk fault is held, one that is refused ends the
packet. After an eclipse the packet goes on from its record. PACKET_COMPLETION goes through its stages: mark once the last landing is
applied, publish or the increment (POISON for a poisoned counter), then the end, which frees the engine. A packet that waits for a slot
beyond STALLTO ends with BUDGET. LANDING adds its sectors to the barrier once. -/
def Obligations.CopyEngineRows : Prop :=
  (∀ (s : State) (c : Nat), c < 128 → s.cur = .ce (BitVec.ofNat 7 c) →
    let e := ceOf s c
    (∀ i k n q d pk, CopyRow i k → e.job = none → nextReady s c (!e.fresh) = some (n, q, d) → readyRow s c q d = k → q.overrun = false →
      d.used ≤ 2^d.logn → (unitRead s c q.part.toNat (d.entry d.ridx) 64).1 = .ok pk → TakesPacket i s s c n q d pk) ∧
    (∀ n q d pk, e.job = none →
      let s1 := (rotation e.last).foldl (ceExamine c) (modCe s c fun e => { e with scan := s.now, fresh := false })
      nextReady s1 c false = some (n, q, d) → q.overrun = false → d.used ≤ 2^d.logn →
      (unitRead s1 c q.part.toNat (d.entry d.ridx) 64).1 = .ok pk → TakesPacket .queueScan s s1 c n q d pk) ∧
    (∀ j, e.job = some j → j.stage = 0 → j.held = false → j.reload = false → j.start = false → j.fin = none →
      let page : Prop := j.kind = 6 ∨ (j.flag 1 = true ∧ j.shut = none ∧ 0 < j.groups)
      (∀ i k, CopyRow i k → rowOfKind j.kind (j.f 1 1) = k → j.flag 3 = false → ¬ page → (j.flag 4 = false ∨ j.slot ≠ none) →
        exec i s = .next (cePutMoves c (j.groupEnd - j.next) (mvGo 140000 s c j.groupEnd j))) ∧
      (∀ i k core id, CopyRow i k → rowOfKind j.kind (j.f 1 1) = k → j.flag 3 = false → ¬ page → j.flag 4 = true → j.slot = none →
        j.slotName c = some (core, id) →
        (tailEmpty s core id (descOf s core id) = true → exec i s = .next (ceMove c { j with slot := some (core, id, (descOf s core id).tail) } s)) ∧
        (tailEmpty s core id (descOf s core id) = false → ∃ t, exec i s = .next t ∧ SameMem s t ∧ (ceOf t c).job = some j ∧
          (ceOf t c).ready = s.now + 1)) ∧
      (rowOfKind j.kind (j.f 1 1) = 7 → j.flag 3 = true → j.flag 4 = false → ¬ page → ∃ t, exec .pfonly s = .next t ∧ SameMem s t ∧
        (ceOf t c).job = some { j with next := j.groupEnd }) ∧
      (∀ i k pa pte u, CopyRow i k → rowOfKind j.kind (j.f 1 1) = k → page → j.daddr < 0xFC * 2^48 → translate s c j.part.toNat true ⟨false, true, false, false⟩ j.daddr = (.ok pa pte, u) → pteShv pte = true →
        ∃ t, exec i s = .next t ∧ SameMem s t ∧ (ceOf t c).job = some { j with shut := some (nbits pte 11 12) }) ∧
      (∀ so do', j.kind = 1 → j.f 1 1 = 0 → j.groups = 0 → j.next = 0 → j.slot = none → j.rdata = none → j.flush = [] → j.buf = [] → j.wr = none → j.saddr = 0xFE * 2^48 + so →
        j.daddr = 0xFE * 2^48 + do' → so + j.len0 ≤ 0x300000 → do' + j.len0 ≤ 0x2F0000 → (so + j.len0 ≤ do' ∨ do' + j.len0 ≤ so) →
        Defined s c so j.len0 → (∀ n, n < j.len0 → frameAt s c (so + n) = none) →
        let m := min j.len0 (2^16)
        badEdge s (scrKey c do') m = false →
        ∃ t, exec .ceLin s = .next t ∧ (ceOf t c).job = some { j with next := m } ∧
          ∀ k, byteAt t k = if scrKey c do' ≤ k ∧ k < scrKey c (do' + m) then byteAt s (scrKey c so + (k - scrKey c do')) else byteAt s k) ∧
      (∀ do', j.kind = 5 → j.f 1 1 = 0 → j.len1 = 1 → j.len2 = 1 → j.groups = 0 → j.next = 0 → j.slot = none → j.flush = [] →
        j.buf = [] → j.wr = none → j.daddr = 0xFE * 2^48 + do' → do' + j.len0 ≤ 0x2F0000 →
        let m := min j.len0 (2^16)
        badEdge s (scrKey c do') m = false →
        ∃ t, exec .ceFill s = .next t ∧ (ceOf t c).job = some { j with next := m } ∧
          ∀ k, byteAt t k = if scrKey c do' ≤ k ∧ k < scrKey c (do' + m) then BitVec.ofNat 8 (j.saddr / 2^(8 * ((k - scrKey c 0) % 8)))
            else byteAt s k) ∧
      (j.outs = [] → j.rd = none → j.refused = none → j.moving j.groupEnd = false → (j.kind = 6 → j.shut ≠ none) →
        (j.flag 4 = true → j.slot ≠ none) →
        let g := if j.kind = 6 then 0 else j.groups + 1
        let n := if j.kind = 6 ∨ j.flag 3 = true then 0 else j.sectors j.groups
        let u := (ceMark s c j g (if j.total ≤ j.next then 1 else 0)).2
        let r := (ceMark s c j g (if j.total ≤ j.next then 1 else 0)).1
        let landed (t : State) : Prop := ((j.flag 5 = false ∨ n = 0) → t.events = u.events) ∧ (j.flag 5 = true → n ≠ 0 → ∃ l : Landing,
          t.events = u.events ++ [⟨.ce (BitVec.ofNat 7 c), some (.landing l)⟩] ∧ l.core.toNat = j.bar / 2^22 % 2^7 ∧
          l.off.toNat = j.bar % 2^22 ∧ l.xe = false ∧ l.src.toNat = c ∧ l.groups = BitVec.ofNat 24 g ∧ l.sectors = n)
        let free : Prop := j.next < j.total ∨ slotTaken s j = false
        (free → r = none → j.total ≤ j.next → ∃ t, exec .sectorGroupMark s = .next t ∧
          (ceOf t c).job = some { j with groups := g, stage := 1 } ∧ landed t ∧ (j.slot = none → SameMem u t) ∧
           ∀ k id x, j.slot = some (k, id, x) → id < 48 → (descOf u k id).tail < 64 → slotState t k id (descOf u k id).tail = 1 ∧
             ∀ key, ¬ InSystem k key → byteAt t key = byteAt u key) ∧
        (free → r = none → j.next < j.total → ∃ v, exec .sectorGroupMark s = .next (ceMove c { j with groups := g, stage := 0 } v) ∧ landed v ∧
          SameMem u v) ∧
        (∀ w a, free → r = some (.walk w, a) → exec .sectorGroupMark s = .next (ceWaitPut c j a w u)) ∧
        (∀ k a, free → r = some (.code k, a) → exec .sectorGroupMark s = .next (ceFail c j (statusOf k) 0 u)) ∧
        (¬ free → (j.limit = 0 ∨ s.now - j.taken.getD s.now ≤ j.limit) → ∃ t, exec .sectorGroupMark s = .next t ∧ SameMem s t ∧
          (ceOf t c).job = some { j with taken := some (j.taken.getD s.now) } ∧ (ceOf t c).ready = s.now + 1) ∧
        (¬ free → j.limit ≠ 0 → j.limit < s.now - j.taken.getD s.now → exec .sectorGroupMark s = .next (ceFail c j 0x1E 0 s))) ∧
      (j.flag 4 = true → j.slot = none → j.limit ≠ 0 → j.limit < s.now - j.since → exec .slotWaitTimeout s = .next (ceFail c j 0x1E 0 s))) ∧
    (∀ j l u, e.job = some j → j.held = false → j.reload = true → j.start = false → j.fin = none → unitRead s c j.part.toNat j.va 64 = (.ok l, u) →
      ∀ i, (i = .packetCompletion ∨ CopyRow i (rowOfKind j.kind (j.f 1 1))) →
        (4 ≤ (j.again l).stage → exec i s = .next (ceRidx c (j.again l) (recF l 2 2) u)) ∧
        ((j.again l).stage < 4 → ∃ t, exec i s = .next t ∧ SameMem u t ∧ (ceOf t c).job = some (j.again l))) ∧
    (∀ j, e.job = some j → j.held = false → j.reload = false → j.start = false → j.fin = none →
      (j.stage = 1 → landingOpen s c = true → exec .packetCompletion s = .next s) ∧
      (j.stage = 1 → landingOpen s c = false → exec .packetCompletion s = .next (ceStage c j 2 s)) ∧
      (j.stage = 2 → j.flag 1 = false →
        ((j.sem = 0xFFFF ∨ j.semd = 0) → exec .packetCompletion s = .next (ceStage c j 3 s)) ∧
        (∀ u, ceUpdate s c j = some u → updateLost u s = true → exec .packetCompletion s = .next (ceFail c j 0x17 0 s)) ∧
        (∀ u, ceUpdate s c j = some u → updateLost u s = false → ∃ v, exec .packetCompletion s = .next (ceStage c j 3 v) ∧ SameMem s v ∧
          v.events = s.events ∧ (ceOf v c).job = some j ∧
          Incremented s v (dieOfCore c) j.sem (5 + 16 * c) (j.queue + 16 * j.seq) (BitVec.ofNat 32 j.groups) j.semd)) ∧
      (∀ sh, j.stage = 2 → j.flag 1 = true → j.asked = false → cePublishing s c j = false → j.shut = some sh → ∃ t, exec .packetCompletion s = .next t ∧
        (ceOf t c).job = some { j with asked := true } ∧ SameMem s t ∧
        t.pubs = s.pubs ++ [⟨BitVec.ofNat 12 sh, j.part, BitVec.ofNat 7 c, j.queue, j.seq, j.groups, false, []⟩]) ∧
      (j.stage = 3 → exec .packetCompletion s = .next (ceEnd c j 2 s))) ∧
    (∀ j st written, e.job = some j → j.held = false → j.fin = some (st, written) →
      exec .packetCompletion s = .next (ceEndAgain c j st written false s)) ∧
    (∀ j n u, ceMark s c j j.groups n = (none, u) → (ceOf (ceStage c j n s) c).job = some { j with stage := n } ∧
      (ceStage c j n s).events = u.events ∧ SameMem u (ceStage c j n s)) ∧
    (∀ (j : CopyJob) (st : Nat) (s1 s2 s4 : State) (qd : CopyQ),
      let j1 := { j with start := false, reload := false }
      cePut s c j1 2 2 st = (none, s1) → ceMark s1 c j1 j.groups 4 = (none, s2) → j.flag 0 = false →
      let s3 := traceCe c j1 0x02 j.seq j.groups 4 s2
      tget? (ceOf s3 c).slots j.queue = some qd → unitWrite s3 c j.part.toNat (qd.desc.toNat + 0x18) (natBytes 8 (j.idx + 1)) = (none, s4) →
      let t := ceEnd c j st s
      SameMem s4 t ∧ (ceOf t c).job = (ceOf s4 c).parked.head? ∧ (ceOf t c).last = j.queue ∧
        ∀ k x, EngOut.copy (BitVec.ofNat 7 c) (BitVec.ofNat 4 j.queue) (BitVec.ofNat 32 j.idx) ∉ (ctxOf t k x).engOut)) ∧
  ∀ (s : State) (l : Landing),
    let c := l.core.toNat
    let o := if l.xe then 0x2F7000 + 16 * l.src.toNat else 0x2F4800 + 16 * l.src.toNat
    let seen : Prop := sysRead s c o 4 = l.seq.toNat ∧ sysRead s c (o + 4) 4 = l.groups.toNat ∧ sysRead s c (o + 8) 1 = l.queue.toNat + 128
    (seen → exec (.landing l) s = .next s) ∧
    (¬ seen → l.off.toNat + 16 ≤ 0x2F0000 → ∃ t, exec (.landing l) s = .next t ∧
      rdN t.mem (scrKey c l.off.toNat) 16 = ((barrierOf (rdN s.mem (scrKey c l.off.toNat) 16)).land l.sectors).bits % 2^128 ∧
      sysRead t c o 4 = l.seq.toNat ∧ sysRead t c (o + 4) 4 = l.groups.toNat ∧ sysRead t c (o + 8) 1 = l.queue.toNat + 128 ∧
      ∀ k, ¬ InSystem c k → (k < scrKey c l.off.toNat ∨ scrKey c l.off.toNat + 16 ≤ k) → byteAt t k = byteAt s k)

/-- A collective engine takes the next ready packet of its kind, or goes on with one that waits; with one rank its contribution reaches the
engine itself. PARTIAL_ARRIVAL takes the oldest contribution: an incomplete collective keeps it, a complete one that agrees gives each
packet its rank's result, and one that does not ends them with MISMATCH. COLLECTIVE_COMPLETION marks the levels, then writes the result,
lands, increments and ends, or ends with the error. FACE_FILL fills a physical face of a committed step by its rule, tags it and notes it
sent, or stages the strip of any other face for its neighbour. STRIP_LANDING writes a strip that may land into its frame, tags the face, and
tells the sender. A grid load that has timed out raises STALE_HALO with TIMEOUT, or faults its engine. -/
def Obligations.CollectiveAndHaloRows : Prop :=
  ∀ (s : State) (d : Nat), d < 4 →
    (s.cur = .xe (BitVec.ofNat 2 d) →
      (∀ i k j, CollRow i k → xeUnsent s d = some j → j.f 0 1 = k → (j.start = false → exec i s = .next (xeLoad d j s)) ∧
        ∀ u, j.start = true → xePut s d j 2 2 1 = (none, u) → exec i s = .next (xeLoad d { j with start := false } u)) ∧
      (∀ i k n q kd, CollRow i k → xeUnsent s d = none → xeNext s d true = some (n, q, .ok kd) → xeKind s d (n, q, .ok kd) = k → q.overrun = false →
        kd.used ≤ 2^kd.logn → ∀ pk, (dieRead s d q.part.toNat (kd.entry kd.ridx) 64).1 = .ok pk →
        ∃ j v, SameMem s v ∧ j.queue = n ∧ j.idx = kd.ridx ∧ j.pkt = pk ∧ j.part = q.part ∧ j.sent = false ∧ j.stages = 0 ∧
          j.result = none ∧ j.status = 2 ∧ exec i s = .next (match xePut v d j 2 2 1 with
            | (some (.walk r, a), u) => xeHold d j a true r u
            | (some (.code w, _), u) => xeEnd d { j with start := false } (statusOf w) u
            | (none, u) => xeLoad d { j with start := false } u)) ∧
      (∀ j l b s1 s2,
        let x := j.contrib []
        let core := recF l 0 8 / 2^12 % 2^7
        1 ≤ x.kind → x.kind ≤ 5 → x.badPkt = false → x.nrank = 1 → dieRead s d j.part.toNat x.group 8 = (.ok l, s1) → l.length = 8 →
        recF l 0 8 / 2^19 = 0 → recF l 0 8 % 2^12 = s.peer.toNat → dieOfCore core = d → coreInPart s j.part.toNat core = true →
        j.flag 5 = false → (j.f 0x3C 2 ≠ 0xFFFF → j.f 0x3E 1 ≠ 0 → hssInRange s j.part.toNat (j.f 0x3C 2) = true ∧ hssPoisoned s d (j.f 0x3C 2) = false) →
        readVia (xeTgt d core j.part.toNat) (x.count * collBytes x.fmt / 64 + 2) s1 (32 * d) (j.f 8 8) (x.count * collBytes x.fmt) = (.ok b, s2) →
        let t := xeLoad d j s
        (xeOf t d).inbox = (xeOf s2 d).inbox ++ [(s2.now, { j with core := some core }.contrib b)] ∧
          tget? (xeOf t d).jobs j.queue = some { j with core := some core, sent := true, table := [recF l 0 8] } ∧
          t.events = s2.events ++ [⟨.xe (BitVec.ofNat 2 d), some .partialArrival⟩]) ∧
      (∀ c x rest, (xeOf s d).inbox = (c, x) :: rest →
        let same (g : Coll) : Bool := g.part == x.part && g.group = x.group && g.inst = x.inst
        let g0 : Coll := ((xeOf s d).colls.find? same).getD ⟨x.part, x.group, x.inst, [], false⟩
        let got := insertContrib c x g0.got
        let bad := g0.bad || g0.got.any fun y => !agree x y.2
        let g : Coll := { g0 with got := got, bad := bad }
        let whole := if bad then g.spent else decide (x.nrank ≤ got.length)
        (x.onward = true → g0.got = [] → exec .partialArrival s = .next (modXe s d fun e => { e with inbox := rest })) ∧
        ((x.onward = false ∨ g0.got ≠ []) → ∃ t, exec .partialArrival s = .next (if x.onward then t else
            (g0.got.filter fun y => y.2.nrank != x.nrank).foldl (fun u y => sendOn d (if x.nrank < y.2.nrank then x else y.2) u) t) ∧
          XeKept s t d ∧ t.events = s.events ∧ (xeOf t d).inbox = rest ∧
          (whole = false → (xeOf t d).colls = (xeOf s d).colls.filter (fun y => !same y) ++ [g] ∧
            (bad = false → (xeOf t d).jobs = (xeOf s d).jobs)) ∧
          (whole = true → (xeOf t d).colls = (xeOf s d).colls.filter (fun y => !same y)) ∧
          ((whole = true ∨ bad = true) → (xeOf t d).jobs = (xeOf s d).jobs.map fun e =>
            if e.2.part = g0.part ∧ e.2.f 0x20 8 = g0.group ∧ e.2.f 0x28 4 = g0.inst ∧ e.2.sent = true ∧ e.2.result = none ∧ e.2.status = 2 then
              (e.1, if bad then { e.2 with status := 0x1D } else
                match collResult e.2.nbv (e.2.f 0x2C 2) (got.map (·.2)) with
                | some l => { e.2 with result := some l }
                | none => { e.2 with status := 0x1B })
            else e))) ∧
      (∀ j st written, xeReady s d = some j → j.fin = some (st, written) →
        exec .collectiveCompletion s = .next (xeEndAgain d j st written false s)) ∧
      (∀ j, xeReady s d = some j → j.fin = none →
        (j.result = none → exec .collectiveCompletion s = .next (xeEnd d j j.status s)) ∧
        (∀ l, j.result = some l →
          (j.stages < collLevels (j.f 0x2E 2) → ∀ u, xePut s d j 0x30 4 (j.stages + 1) = (none, u) → ∃ t, exec .collectiveCompletion s = .next t ∧
            tget? (xeOf t d).jobs j.queue = some { j with stages := j.stages + 1 } ∧ t.events = u.events ∧ SameMem u t) ∧
          (collLevels (j.f 0x2E 2) ≤ j.stages →
            (j.stage = 0 → ∀ u, writeVia (xeTgt d (j.core.getD (32 * d)) j.part.toNat) (l.length / 64 + 2) s (32 * d) j.part.toNat (j.f 0x10 8) l = (none, u) →
              ∃ t, exec .collectiveCompletion s = .next t ∧ SameMem u t ∧
                tget? (xeOf t d).jobs j.queue = some { j with next := l.length, stage := 1 }) ∧
            (j.stage = 1 → ∃ t, exec .collectiveCompletion s = .next t ∧ SameMem s t ∧ XeKept s t d ∧
              tget? (xeOf t d).jobs j.queue = some { j with stage := 2 } ∧ (j.flag 5 = false → t.events = s.events)) ∧
            (j.stage = 2 → (j.f 0x3C 2 = 0xFFFF ∨ j.f 0x3E 1 = 0 ∨ hssPoisoned s d (j.f 0x3C 2) = false) →
              ∃ t, exec .collectiveCompletion s = .next t ∧ SameMem s t ∧ t.events = s.events ∧
              tget? (xeOf t d).jobs j.queue = some { j with stage := 3 } ∧ ((j.f 0x3C 2 = 0xFFFF ∨ j.f 0x3E 1 = 0) → XeKept s t d) ∧
              (j.f 0x3C 2 ≠ 0xFFFF → j.f 0x3E 1 ≠ 0 →
                Incremented s t d (j.f 0x3C 2) (7 + 16 * (32 * d)) (j.queue + 16 * j.seq) (BitVec.ofNat 32 j.stages) (j.f 0x3E 1))) ∧
            (3 ≤ j.stage → exec .collectiveCompletion s = .next (xeEnd d j 2 s))))) ∧
      (∀ (j : XeJob) (st : Nat) (s1 s2 : State) (qd : CopyQ), j.flag 0 = false → (st = 2 ∨ j.barrier s = none) → xePut s d j 2 2 st = (none, s1) →
        tget? (xeOf s1 d).slots j.queue = some qd → dieWrite s1 d j.part.toNat (qd.desc.toNat + 0x18) (natBytes 8 (j.idx + 1)) = (none, s2) →
        let t := xeEnd d j st s
        SameMem s2 t ∧ tget? (xeOf t d).jobs j.queue = none ∧ (xeOf t d).last = j.queue)) ∧
    (s.cur = .he (BitVec.ofNat 2 d) → (dieOf s d).he.full = [] →
      (∀ st g f r, nextStage s d (dieOf s d).he.openStages = .ok (some (st, g, f, r)) →
        let core := mapCore (g.entry st.idx)
        let base := mapBase (g.entry st.idx)
        let s0 := modHe { s with free := s.free + g.frameBytes } d fun h => { h with ready := s.now + 1 }
        (g.physical st.idx f = true →
          let cells := if g.rule f = 5 then [] else (g.region f).map fun i => (i, ruleBytes s g st core base f i)
          (2 ≤ g.rule f → g.rule f ≤ 4 → ∀ i ∈ g.region f, badCell s g st core base (ruleCell g f i) = false) →
          cutCells s g core base cells = false →
          ∀ u r' v w, setTag (dieOfCore core) g st.idx f st.step (tagged core g f (putCells (noteHandled d st f s0) g core base cells)) = (none, u) →
            dieRead u d st.part.toNat (g.state + 64 * st.idx) 64 = (.ok r', v) → setSent d g st.idx f r' v = (none, w) →
            exec .faceFill s = .next w) ∧
        (g.physical st.idx f = false → mapPeer (g.entry (g.neighbour st.idx f)) = s.peer.toNat →
          (∀ i ∈ g.region (opposite f), badCell s g st core base (stripCell g (opposite f) i) = false) → ∃ t x, exec .faceFill s = .next t ∧
          SameMem s t ∧ (dieOf t d).he.strips = (dieOf s d).he.strips ++ [x] ∧ x.grid = st.grid ∧ x.idx = g.neighbour st.idx f ∧
          x.face = opposite f ∧ x.step = st.step ∧
          x.due = s.now + (if dieOfCore (mapCore (g.entry (g.neighbour st.idx f))) = d then Config.latStrip else Config.latStripBridge) ∧
          x.cells = (g.region (opposite f)).map fun i => (i, stepCell s g st core base (stripCell g (opposite f) i))) ∧
        (let q := g.neighbour st.idx f
         g.physical st.idx f = false → mapPeer (g.entry q) ≠ s.peer.toNat →
          (∀ i ∈ g.region (opposite f), badCell s g st core base (stripCell g (opposite f) i) = false) →
          exec .faceFill s = .next (sendStrip d st.part.toNat (mapPeer (g.entry q))
            { part := st.part, grid := st.grid, idx := q, face := opposite f, step := st.step, sender := some (st.idx, f),
              due := s.now + (if dieOfCore (mapCore (g.entry q)) = d then Config.latStrip else Config.latStripBridge)
              cells := (g.region (opposite f)).map fun i => (i, stepCell s g st core base (stripCell g (opposite f) i)) }
            (noteHandled d st f s0))) ∧
        (((g.physical st.idx f = true ∧ ((2 ≤ g.rule f ∧ g.rule f ≤ 4 ∧ ∃ i ∈ g.region f, badCell s g st core base (ruleCell g f i) = true) ∨
              (g.rule f ≠ 5 ∧ cutCells s g core base ((g.region f).map fun i => (i, ruleBytes s g st core base f i)) = true))) ∨
            (g.physical st.idx f = false ∧ ∃ i ∈ g.region (opposite f), badCell s g st core base (stripCell g (opposite f) i) = true)) →
          exec .faceFill s = .next (heFault d (.step st) 0x17 s))) ∧
      (∀ st e va, nextStage s d (dieOf s d).he.openStages = .error (st, e, va) →
        exec .faceFill s = .next (heRefused d st.part.toNat e va false (.step st) s)) ∧
      (∀ x e va, nextStrip s d (dieOf s d).he.openStrips = .error (x, e, va) →
        exec .stripLanding s = .next (heRefused d x.part.toNat e va false (.strip x) s)) ∧
      (∀ x g r, nextStrip s d (dieOf s d).he.openStrips = .ok (some (x, g, r)) →
        let core := mapCore (g.entry x.idx)
        let s0 := modHe (dropStrip d x s) d fun h => { h with ready := s.now + 1 }
        let answer (v : State) : State := match x.sig with
          | some y => queueRsp (ackTx (noteStatus y 0 v) y 0) (noteStatus y 0 v)
          | none => v
        (∀ idx f r' v w, x.done = true → x.sender = some (idx, f) → dieRead s0 d x.part.toNat (g.state + 64 * idx) 64 = (.ok r', v) →
          setSent d g idx f r' v = (none, w) → exec .stripLanding s = .next w) ∧
        (x.done = false → landedBefore r x = true → exec .stripLanding s = .next (answer s0)) ∧
        (x.done = false → landedBefore r x = false → cutCells s g core (mapBase (g.entry x.idx)) (stripCells g x) = true →
          exec .stripLanding s = .next (heFault d (.strip x) 0x17 s0)) ∧
        (x.done = false → landedBefore r x = false → cutCells s g core (mapBase (g.entry x.idx)) (stripCells g x) = false →
        ∀ u, setTag (dieOfCore core) g x.idx x.face x.step
          (tagged core g x.face (putCells s0 g core (mapBase (g.entry x.idx)) (stripCells g x))) = (none, u) →
        (∀ idx f r' v w, x.sender = some (idx, f) → dieRead u d x.part.toNat (g.state + 64 * idx) 64 = (.ok r', v) →
          setSent d g idx f r' v = (none, w) → exec .stripLanding s = .next w) ∧
        (x.sender = none → exec .stripLanding s = .next (answer u))))) ∧
    (s.cur = .he (BitVec.ofNat 2 d) → ∀ o rest, (dieOf s d).he.full = o :: rest → ∃ t, heRetry d s = .next t ∧
      exec .faceFill s = faceFill d (dieOf t d).he.openStages t ∧ exec .stripLanding s = stripLanding d (dieOf t d).he.openStrips t ∧
      (∀ st r, o = .step st → nextStage s d [st] = .ok r → SameMem s t ∧ (dieOf t d).he.full = rest) ∧
      ∀ x r, o = .strip x → nextStrip s d [x] = .ok r → SameMem s t ∧ (dieOf t d).he.full = rest) ∧
    (∀ k y w, s.cur = .ctx k y → (curCtx s).waiting = some w → w.kind = 8 →
      ∃ t, exec .gridLoadTimeout s = .next t ∧ TrapTaken s t 0x0F (w.val ||| BitVec.ofNat 64 (2^36))) ∧
    (∀ k w, s.cur = .ve k → (seqrOf s k.toNat .ve).waiting = some w → w.kind = 8 →
      exec .gridLoadTimeout s = .next (engFault k.toNat .ve 0x0F (w.val ||| BitVec.ofNat 64 (2^36)).toNat 0 s))

/-- SLICE_HANDOVER gives the oldest slice the lowest free entry, its number, deadline, tokens and budget, and asks the firmware for a bind
record; the record of a graph's slice is read then, and one out of range faults its queue. CREW_BIND first releases an ended crew, charged;
else it stops the slice of a crew whose place is lost, and tells the firmware; else it binds the first crew that waits for free cores: at a
first binding every team in one step, with SCY zero, the entries of the record, the parameter, crew and team numbers, and the crew's
counters, set to zero; a saved crew's contexts as they were saved; or else it decides a newcomer's claim: the holder is saved, at once or
once it can be, or its slice stopped. QUANTUM_EXPIRY saves a crew whose place is wanted, and takes frames for it. SLICE_COMPLETE ends the
slice with STATUS 2, or 3 with its code, and frees its entry and cores. BUDGET_EXHAUSTED tells the firmware and parks, stops or dries the
slice. A bind record is written into the slot table, where the firmware's class allows it, and accepted, refused, or ends, extends or
cancels a parked slice. -/
def Obligations.DispatchRows : Prop :=
  ∀ (s : State) (d : Nat), d < 4 → s.cur = .dispatch (BitVec.ofNat 2 d) →
    let rmu (t : State) (e : Nat) : Option Slice := tget? (dispOf t d).rmu e
    let loose (t : State) (l : List Nat) : Prop := ∀ core ∈ l, (coreOf t core).team = none
    (∀ h r e, (dispOf s d).pending = h :: r → freeEntry s d = some e →
      let s1 := modDisp s d fun x => { x with pending := r }
      let taken (h : Handover) : Prop :=
        let p := partOf s h.part.toNat
        let drel := recF h.bytes 0x28 4
        let budget := recF h.bytes 0x30 8
        let sl : Slice := { from_ := h, num := (dispOf s d).handed, since := s.now,
                            deadline := if drel = 2^32 - 1 then 2^64 - 1 else min (2^64 - 1) (diecyc s d + drel),
                            tokens := min (recF h.bytes 0x26 1) p.tokCap, eff := if budget = 0 then p.bcap else min budget p.bcap }
        ∃ t, exec .sliceHandover s = .next t ∧ (dispOf t d).pending = r ∧ (dispOf t d).handed = (dispOf s d).handed + 1 ∧ rmu t e = some sl ∧
          (∀ k, k ≠ e → rmu t k = rmu s k) ∧
          (dieOf t d).fw = (dieOf s d).fw ++ [⟨0x51, [e, (dispOf s d).handed % 2^32, h.part.toNat]⟩]
      (h.node = none → taken h) ∧
      (∀ n g, h.node = some n → (cpOf s d).graphs.find? (fun g => g.tok = h.tok) = some g →
        (∀ b t, readVia (cpTgt d h.part.toNat) 6 s1 (32 * d) h.va 256 = (.ok b, t) →
          (badSlice b = false → taken { h with bytes := b }) ∧ (badSlice b = true → exec .sliceHandover s = .next (lqFault d h.queue 2 t))) ∧
        ∀ x a t, readVia (cpTgt d h.part.toNat) 6 s1 (32 * d) h.va 256 = (.error (x, a), t) →
          exec .sliceHandover s = .next (graphRefused d g x a false (graphTakeBack d g.tok n t)))) ∧
    (∀ e c sl, endedCrew s d = some (e, c) → rmu s e = some sl →
      ∃ u y, SameMem s u ∧ rmu u e = some y ∧ (y.crew c).st = .ended ∧ y.used = sl.used + crewDue s (sl.crew c) ∧ loose u (sl.crew c).cores ∧
        exec .crewBind s = .next (recordWrite d y 0x48 8 (usedNow u y) u)) ∧
    (∀ x, endedCrew s d = none → unsavedCrew s d = none → lostCrew s d = some x → rmu s x.e = some x.sl →
      ∃ u, exec .crewBind s = .next (tellFw d 0x53 [x.e, x.sl.slid] u) ∧ rmu u x.e = none) ∧
    (∀ x, endedCrew s d = none → unsavedCrew s d = none → lostCrew s d = none → nextBind s d = some x → rmu s x.e = some x.sl → x.k = x.sl.crew x.c →
      x.cores.Nodup →
      (x.k.st = .never →
        ∃ t y, exec .crewBind s = .next t ∧ rmu t x.e = some y ∧ (y.crew x.c).st = .bound ∧ (y.crew x.c).cores = x.cores ∧ y.ever = true ∧
          (∀ n core, x.cores[n]? = some core →
            (coreOf t core).team = some ⟨x.e, x.c, n, BitVec.ofNat 3 x.sl.part⟩ ∧ (coreOf t core).scyBase = 0 ∧
            ∀ z, (ctxOf t core z).pc = BitVec.ofNat 64 (x.sl.f (8 * ctxNum z) 8) ∧
              (ctxOf t core z).live = (x.sl.f (8 * ctxNum z) 8 != 0) ∧
              gFinal (ctxOf t core z) 1 = BitVec.ofNat 64 (x.sl.from_.param.getD (x.sl.f 0x18 8)) ∧
              gFinal (ctxOf t core z) 2 = BitVec.ofNat 64 (x.c % 2^16 + 2^16 * n) ∧
              (∀ r, r ≠ 1 → r ≠ 2 → gFinal (ctxOf t core z) r = 0) ∧ (ctxOf t core z).priv = false ∧
              (∀ b, 16 ≤ (partOf s x.sl.part).hssCount → freeRun s d x.sl.part = some b →
                (ctxOf t core z).crewb = BitVec.ofNat 19 (b + 2^16 * d + 2^18)) ∧
              ((partOf s x.sl.part).hssCount < 16 → (ctxOf t core z).crewb = 0)) ∧
          ∀ b, 16 ≤ (partOf s x.sl.part).hssCount → freeRun s d x.sl.part = some b → ∀ i, i < 16 → hssGet t d (b + i) = 0) ∧
      (x.k.st = .saved → x.k.images.map (·.core) = x.cores →
        ∃ t y, exec .crewBind s = .next t ∧ rmu t x.e = some y ∧ (y.crew x.c).st = .bound ∧ (y.crew x.c).cores = x.cores ∧
          ∀ n (im : CoreImage), x.k.images[n]? = some im →
            (coreOf t im.core).team = some ⟨x.e, x.c, n, BitVec.ofNat 3 x.sl.part⟩ ∧ (coreOf t im.core).scyBase = im.scy ∧
            ∀ z, { ctxOf t im.core z with crewb := 0, ready := 0, waiting := none } =
              { (match z with
                  | .L => im.l
                  | .C => im.c
                  | .S => im.s) with crewb := 0, ready := 0, waiting := none })) ∧
    (∀ x e sl c, endedCrew s d = none → unsavedCrew s d = none → lostCrew s d = none → nextBind s d = none → nextDecision s d = some (x, e, sl, c) → x.e ≠ e →
      rmu s e = some sl →
      ∃ t, exec .crewBind s = .next t ∧
        (decision s x.sl sl (sl.crew c) = 2 → ∃ y, rmu t e = some y ∧
          (canSave s (sl.crew c) = true → loose t (sl.crew c).cores ∧ (y.crew c).st = .saved) ∧
          (canSave s (sl.crew c) = false → (y.crew c).saving = true)) ∧
        (decision s x.sl sl (sl.crew c) = 3 → rmu t e = none) ∧
        ((decision s x.sl sl (sl.crew c) = 1 ∨ decision s x.sl sl (sl.crew c) = 4) → rmu t e = some sl ∧ SameMem s t)) ∧
    (∀ e sl c b, swapDue s d = some (e, sl, c, b) → rmu s e = some sl →
      ∃ t y, exec .quantumExpiry s = .next t ∧ rmu t e = some y ∧ (y.crew c).st = .saved ∧
        (y.crew c).images.map (·.core) = (sl.crew c).cores ∧ loose t (sl.crew c).cores ∧
        (partOf t sl.part).frames = (partOf s sl.part).frames - (sl.crew c).cores.length) ∧
    (∀ e sl, doneSlice s d = some (e, sl) → rmu s e = some sl →
      ∃ u, exec .sliceComplete s = .next (sliceEnded d sl.from_ ((if sl.code = 0 then 2 else 3) + 2^8 * sl.code) u) ∧ rmu u e = none ∧
        (∀ r ∈ (dispOf u d).runs, r.slice ≠ e) ∧ ∀ c, (sl.crew c).st = .bound → loose u (sl.crew c).cores) ∧
    (∀ e sl, budgetOut s d = some (e, sl) → rmu s e = some sl →
      (sl.ckpt = true → sl.cancel = false → ∃ t y, exec .budgetExhausted s = .next t ∧ rmu t e = some y ∧ y.parked = true ∧ y.bstop = true ∧
        (dieOf t d).fw = (dieOf s d).fw ++ [⟨0x50, [e, sl.slid]⟩]) ∧
      (sl.ckpt = true → sl.cancel = true → ∃ u, exec .budgetExhausted s = .next (stopSlice d e 0x12 u) ∧ rmu (stopSlice d e 0x12 u) e = none) ∧
      (sl.ckpt = false → sl.kill = true → ∃ u, exec .budgetExhausted s = .next (stopSlice d e 0x10 u) ∧ rmu (stopSlice d e 0x10 u) e = none) ∧
      (sl.ckpt = false → sl.kill = false → ∃ t y, exec .budgetExhausted s = .next t ∧ rmu t e = some y ∧ y.nomore = true ∧ y.code = 0x10 ∧
        (dieOf t d).fw = (dieOf s d).fw ++ [⟨0x50, [e, sl.slid]⟩] ∧
        ∀ c, c < sl.ncrew → (y.crew c).st =
          if (sl.crew c).st = .never ∨ (sl.crew c).st = .saved then .ended else (sl.crew c).st)) ∧
    ∀ (w : BindRecord) (i : Instr) (sl : Slice), (i = .bindRecord w ∨ i = .bindExtend w ∨ i = .bindCancel w) → w.die.toNat = d →
      rmu s w.e.toNat = some sl →
      let e := w.e.toNat
      let at' := (dispOf s d).sltbase + 32 * e
      (fwMay s at' 32 = false → exec i s = .next (fwRefused d at' s)) ∧ (fwMay s at' 32 = true →
      let taken : Slice :=
        { sl with bound := true, home := w.home, dthr := w.dthr.toNat, kmarg := w.kmarg.toNat, cancel := w.ctl.getLsbD 2 }
      (w.ctl.getLsbD 0 = false → ∃ t, exec i s = .next t ∧ rmu t e = some { sl with bound := false, cancel := sl.cancel && w.ctl.getLsbD 2 } ∧ rdN t.mem at' 4 = w.slid.toNat ∧
        rdN t.mem (at' + 4) 4 = w.ctl.toNat ∧ rdN t.mem (at' + 8) 4 = w.home.toNat ∧
        ∀ k, (k < at' ∨ at' + 32 ≤ k) → byteAt t k = byteAt s k) ∧
      (w.ctl.getLsbD 0 = true → badBind s w sl = true → ∃ t, exec i s = .next t ∧ rmu t e = some { sl with bound := false, cancel := sl.cancel && w.ctl.getLsbD 2 } ∧
        rdN t.mem (at' + 4) 4 = w.ctl.toNat - 1 ∧ (dieOf t d).fw = (dieOf s d).fw ++ [⟨0x52, [e, sl.slid]⟩] ∧
        ∀ k, (k < at' ∨ at' + 32 ≤ k) → byteAt t k = byteAt s k) ∧
      (w.ctl.getLsbD 0 = true → badBind s w sl = false →
        ((sl.parked = false ∨ (w.ctl.getLsbD 1 = false ∧ w.ctl.getLsbD 2 = false)) → ∃ t, exec i s = .next t ∧ rmu t e = some taken ∧
          ∀ k, (k < at' ∨ at' + 32 ≤ k) → byteAt t k = byteAt s k) ∧
        (sl.parked = true → w.ctl.getLsbD 2 = false → w.ctl.getLsbD 1 = true →
          let eff := min (partOf s sl.part).bcap (sl.eff + w.extra.toNat)
          ∃ t, exec i s = .next t ∧ rmu t e = some (if eff ≤ usedNow s sl then { taken with eff := eff }
            else { taken with eff := eff, parked := false, bstop := false })) ∧
        (sl.parked = true → w.ctl.getLsbD 2 = true → ∃ t, exec i s = .next t ∧ rmu t e = none)))

/-- PAGE_WALK of a translated address fills the TLBs with what its tables hold, but for a leaf whose address lies outside the map; a walk that
faults adds a waiter to the pending entry of its 64 KiB granule, or, with no older request waiting, takes the lowest entry that is not
pending, or with a full queue holds. A retirement or failure changes only a pending entry, which keeps its fields and gives up what it held:
a held copy, queue, image, halo operation, collective, graph or record is made again, or ends with XLATE, and a held write of a slice record
or an engine's own record is made again or given up. SHUTTER_ENTRY_WRITE sets the entry and every die's copy, unless EN comes with a field
out of range. SHUTTER_PUBLISH of the owner begins on all four dies, of another partition fails the packet with PROT; SEL_CHANGE flips one
die's copy and drops its lines of the new front, the last asking for the acknowledgement; PUBLISH_ACK flips SEL, counts GEN, and records the
key. FETCH_BLOCK_FILL puts the block's 64 bytes into the core's cache, and the other blocks stay, but for one that a full cache gives up.
HOST_SNOOP with data writes the line of 128 bytes of host memory, and else changes nothing. -/
def Obligations.PagingRows : Prop :=
  (∀ (s : State) (w : WalkReq),
    let k := w.unitKind.toNat
    let d := w.die.toNat
    let p := w.part.toNat
    let va := w.va.toNat
    let need : Need := ⟨!w.write && !w.fetch, w.write, w.fetch, false⟩
    let r := if k ≤ 2 ∨ k = 5 then translate s w.core.toNat p true need va else translateDie s d p need va
    ((2^56 ≤ va ∨ 0xFC ≤ va / 2^48 % 2^8) → exec (.pageWalk w) s = .next s) ∧
    (va < 2^56 → va / 2^48 % 2^8 < 0xFC →
      ((∀ n, r.1 ≠ .walkFault n) → exec (.pageWalk w) s = .next r.2 ∧ SameMem s r.2) ∧
      (∀ lvl pte, ¬ (k ≤ 2 ∨ k = 5) → tlbFind (dieOf s d).tlb p va = none → walk s p va = .ok (lvl, pte) → r.1 ≠ .walkFault 3 →
        (dieOf r.2 d).tlb = (⟨w.part, lvl, va / 2^lvlShift lvl, BitVec.ofNat 64 pte⟩ :: (dieOf s d).tlb).take 32768) ∧
      (∀ lvl pte, (k ≤ 2 ∨ k = 5) → tlbFind (coreOf s w.core.toNat).utlb p va = none →
        tlbFind (dieOf s (dieOfCore w.core.toNat)).tlb p va = none → walk s p va = .ok (lvl, pte) → r.1 ≠ .walkFault 3 →
        (coreOf r.2 w.core.toNat).utlb =
          (⟨w.part, lvl, va / 2^lvlShift lvl, BitVec.ofNat 64 pte⟩ :: (coreOf s w.core.toNat).utlb).take 64) ∧
      (∀ n, r.1 = .walkFault n →
        (∀ i, (upto 256).find? (fqMatch (dieOf r.2 d) p va) = some i → ∃ t, exec (.pageWalk w) s = .next t ∧
          (let e := tget (dieOf r.2 d).fq i {}
           tget (dieOf t d).fq i {} = { e with waiters := min 65535 (e.waiters + 1) }) ∧
          ∀ j, j ≠ i → tget (dieOf t d).fq j {} = tget (dieOf r.2 d).fq j {}) ∧
        ((upto 256).find? (fqMatch (dieOf r.2 d) p va) = none →
          (∀ e0 rest, fqWaiters r.2 d = e0 :: rest → e0.isOf k w.core.toNat va = false → exec (.pageWalk w) s = .next r.2) ∧
          (∀ i, (∀ e0 rest, fqWaiters r.2 d = e0 :: rest → e0.isOf k w.core.toNat va = true) → (upto 256).find? (fun i => (tget (dieOf r.2 d).fq i {}).state != 1) = some i → ∃ t, exec (.pageWalk w) s = .next t ∧
            tget (dieOf t d).fq i {} = ⟨w.va, w.part, w.write, w.fetch, n, 1, k, w.core.toNat, (dieOf r.2 d).fqSeq, 1, []⟩ ∧
            (dieOf t d).fqSeq = (dieOf r.2 d).fqSeq + 1 ∧ ∀ j, j ≠ i → tget (dieOf t d).fq j {} = tget (dieOf r.2 d).fq j {}) ∧
          ((upto 256).find? (fun i => (tget (dieOf r.2 d).fq i {}).state != 1) = none → exec (.pageWalk w) s = .next r.2))))) ∧
  (∀ (s : State) (w : FqRet) (i : Instr) (fail : Bool), (i = .fqretRetire w ∧ fail = false) ∨ (i = .fqretFail w ∧ fail = true) →
    let d := w.die.toNat
    let e := tget (dieOf s d).fq w.index.toNat {}
    (e.state ≠ 1 → exec i s = .next (wakeFq s)) ∧
    (e.state = 1 → e.held = [] → ∃ t, exec i s = .next t ∧
      tget (dieOf t d).fq w.index.toNat {} = { e with state := if fail then 3 else 2 } ∧
      (∀ j, j ≠ w.index.toNat → tget (dieOf t d).fq j {} = tget (dieOf s d).fq j {}) ∧ ∀ c x, ctxOf t c x = ctxOf s c x) ∧
    (e.state = 1 → ∃ u, exec i s = .next (e.held.foldl (freeHeld e.part e.va.toNat fail) u) ∧
      tget (dieOf u d).fq w.index.toNat {} = { e with state := if fail then 3 else 2, held := [] } ∧
      (∀ j, j ≠ w.index.toNat → tget (dieOf u d).fq j {} = tget (dieOf s d).fq j {}) ∧ ∀ c x, ctxOf u c x = ctxOf s c x) ∧
    (∀ c j, e.state = 1 → e.held = [.copy c] → (ceOf s c.toNat).job = some j → j.held = true → j.fin = none →
      (fail = false → ∃ t, exec i s = .next t ∧ (ceOf t c.toNat).job = some { j with held := false } ∧
        tget (dieOf t d).fq w.index.toNat {} = { e with state := 2, held := [] }) ∧
      (fail = true → ∃ u, exec i s = .next (ceFail c.toNat { j with held := false } 0x14 0 u) ∧
        tget (dieOf u d).fq w.index.toNat {} = { e with state := 3, held := [] }))) ∧
  (∀ (s : State) (p : BitVec 3) (va : Nat),
    let free (fail : Bool) (h : Held) : State := freeHeld p va fail s h
    (∀ c n q fail, tget? (ceOf s c.toNat).slots n.toNat = some q →
      tget? (ceOf (free fail (.copyQueue c n)) c.toNat).slots n.toNat = some { q with held := false } ∧ SameMem s (free fail (.copyQueue c n))) ∧
    (∀ c j st written fail, (ceOf s c.toNat).job = some j → j.held = true → j.fin = some (st, written) →
      free true (.copy c) = ceEndAgain c.toNat { j with held := false } st written true s ∧ (fail = false →
        (ceOf (free fail (.copy c)) c.toNat).job = some { j with held := false } ∧ SameMem s (free fail (.copy c)))) ∧
    (∀ c e, (seqrOf s c.toNat e).heldImage = true → (seqrOf s c.toNat e).part = p →
      let q := seqrOf s c.toNat e
      (seqrOf (free false (.image c e)) c.toNat e).heldImage = false ∧ SameMem s (free false (.image c e)) ∧
      ∃ u, SameMem s u ∧ (seqrOf u c.toNat e).heldImage = false ∧
        (q.puts = [] → free true (.image c e) = if q.running then engFaultAt c.toNat e q.pc 0x08 va 0 u else notStarted c.toNat e 0x08 u) ∧
        (q.puts ≠ [] → SameMem s (free true (.image c e)) ∧ (seqrOf (free true (.image c e)) c.toNat e).puts = q.puts.tail)) ∧
    (∀ d fail, SameMem s (free fail (.dispatch d)) ∧ (dispOf (free fail (.dispatch d)) d.toNat).held = false ∧
      (dispOf (free fail (.dispatch d)) d.toNat).puts = if fail then (dispOf s d.toNat).puts.tail else (dispOf s d.toNat).puts) ∧
    (∀ d n o, tget? (dieOf s d.toNat).he.held n = some o →
      tget? (dieOf (free false (.halo d n)) d.toNat).he.held n = none ∧ SameMem s (free false (.halo d n)) ∧
      ∃ u, SameMem s u ∧ tget? (dieOf u d.toNat).he.held n = none ∧ free true (.halo d n) = heFault d.toNat o 0x14 u) ∧
    (∀ d n j, tget? (xeOf s d.toNat).jobs n.toNat = some j → j.held = true → j.queue = n.toNat → j.fin = none →
      tget? (xeOf (free false (.collective d n)) d.toNat).jobs n.toNat = some { j with held := false } ∧ SameMem s (free false (.collective d n)) ∧
      free true (.collective d n) = xeEnd d.toNat { j with held := false } 0x14 s) ∧
    (∀ d n q, tget? (xeOf s d.toNat).jobs n.toNat = none → n.toNat ∈ (xeOf s d.toNat).held → tget? (xeOf s d.toNat).slots n.toNat = some q →
      n.toNat ∉ (xeOf (free false (.collective d n)) d.toNat).held ∧ SameMem s (free false (.collective d n)) ∧
      free true (.collective d n) = xqFault d.toNat n.toNat q.part.toNat va s) ∧
    (∀ d q x, tget? (cpOf s d.toNat).q q.toNat = some x → x.held = true →
      tget? (cpOf (free false (.launchQueue d q)) d.toNat).q q.toNat = some { x with held := false } ∧
      SameMem s (free false (.launchQueue d q)) ∧ free true (.launchQueue d q) = lqFault d.toNat q.toNat 7 s) ∧
    (∀ d tok g, (cpOf s d.toNat).graphs.find? (fun g => g.tok = tok) = some g → g.held = true →
      (∃ g', (cpOf (free false (.graph d tok)) d.toNat).graphs.find? (fun g => g.tok = tok) = some g' ∧ g'.held = false ∧ g'.again = true) ∧
      SameMem s (free false (.graph d tok))) ∧
    ∀ d n r, (cpOf s d.toNat).recs.find? (fun r => r.n = n) = some r →
      (∃ r', (cpOf (free false (.record d n)) d.toNat).recs.find? (fun r => r.n = n) = some r' ∧ r'.held = false) ∧
      SameMem s (free false (.record d n)) ∧
      ∃ u, free true (.record d n) = lqFault d.toNat r.queue 7 u ∧ SameMem s u ∧ ∀ e ∈ (cpOf u d.toNat).recs, e.n ≠ n) ∧
  (∀ (s : State) (w : ShutterWrite),
    let c := w.ctl.toNat
    let good : Prop := w.back0.toNat % 2^16 = 0 ∧ w.back1.toNat % 2^16 = 0 ∧ 1 ≤ w.size.toNat ∧ w.size.toNat ≤ 16384 ∧
      ownsAll s (c / 2^2 % 2^3) w.back0.toNat w.size.toNat = true ∧ ownsAll s (c / 2^2 % 2^3) w.back1.toNat w.size.toNat = true
    (c / 2 % 2 = 1 → ¬ good → exec (.shutterEntryWrite w) s = .next s) ∧
    ((c / 2 % 2 = 0 ∨ good) → ∃ t, exec (.shutterEntryWrite w) s = .next t ∧ SameMem s t ∧
      tget t.shutters w.shutter.toNat {} = ⟨w.back0.toNat, w.back1.toNat, w.size.toNat, decide (c % 2 = 1), decide (c / 2 % 2 = 1),
        BitVec.ofNat 3 (c / 2^2), BitVec.ofNat 16 (c / 2^16), none⟩ ∧
      (∀ d, d < 4 → tget (dieOf t d).sel w.shutter.toNat false = decide (c % 2 = 1)) ∧
      ∀ n, n ≠ w.shutter.toNat → tget t.shutters n {} = tget s.shutters n {})) ∧
  (∀ (s : State) (n : ShutterId) (p : Publish), s.pubs.find? (fun p => p.shutter == n) = some p → p.begun = false →
    let sh := tget s.shutters n.toNat {}
    ((sh.en = false ∨ sh.owner ≠ p.part) → ∀ j, pubJob s p = some j →
      exec (.shutterPublish n) s = .next (pubNext p (ceFail p.core.toNat j 0x15 0 s))) ∧
    (sh.en = true → sh.owner = p.part → sh.key = some p.key →
      ∃ t, exec (.shutterPublish n) s = .next t ∧ tget t.shutters n.toNat {} = sh ∧ t.pubs = s.pubs.erase p) ∧
    (sh.en = true → sh.owner = p.part → sh.key ≠ some p.key → ∃ t, exec (.shutterPublish n) s = .next t ∧ SameMem s t ∧
      t.shutters = s.shutters ∧ { p with begun := true, waitingDies := [0, 1, 2, 3] } ∈ t.pubs ∧
      t.events = s.events ++ [⟨.l2dir 0, some (.selChange ⟨0, n⟩)⟩, ⟨.l2dir 1, some (.selChange ⟨1, n⟩)⟩,
        ⟨.l2dir 2, some (.selChange ⟨2, n⟩)⟩, ⟨.l2dir 3, some (.selChange ⟨3, n⟩)⟩])) ∧
  (∀ (s : State) (w : SelChange) (p : Publish),
    s.pubs.find? (fun p => p.shutter == w.shutter && p.begun && p.waitingDies.contains w.die.toNat) = some p →
    let sh := tget s.shutters w.shutter.toNat {}
    let base := if sh.sel then sh.back0 else sh.back1
    ∃ t, exec (.selChange w) s = .next t ∧ SameMem (dropRange w.die.toNat base sh.size s) t ∧
      (∀ line, base ≤ 128 * line → 128 * line < base + sh.size * 2^16 → tget? (dieOf t w.die.toNat).l2 line = none) ∧
      tget (dieOf t w.die.toNat).sel w.shutter.toNat false = !(tget s.shutters w.shutter.toNat {}).sel ∧
      { p with waitingDies := p.waitingDies.filter (· ≠ w.die.toNat) } ∈ t.pubs ∧
      ((∀ k ∈ p.waitingDies, k = w.die.toNat) →
        t.events = s.events ++ [⟨.l2dir (BitVec.ofNat 2 (w.shutter.toNat / 1024)), some (.publishAck w.shutter)⟩]) ∧
      ((∃ k ∈ p.waitingDies, k ≠ w.die.toNat) → t.events = s.events)) ∧
  (∀ (s : State) (n : ShutterId) (p : Publish),
    s.pubs.find? (fun p => p.shutter == n && p.begun && p.waitingDies.isEmpty) = some p →
    let sh := tget s.shutters n.toNat {}
    ∃ t, exec (.publishAck n) s = .next t ∧ t.pubs = s.pubs.erase p ∧
      tget t.shutters n.toNat {} = { sh with sel := !sh.sel, gen := sh.gen + 1, key := some p.key } ∧
      ∀ m, m ≠ n.toNat → tget t.shutters m {} = tget s.shutters m {}) ∧
  (∀ (s : State) (w : FetchFill), ∃ t, exec (.fetchBlockFill w) s = .next t ∧ SameMem s t ∧
    (∀ c x, ctxOf t c x = ctxOf s c x) ∧
    tget? (coreOf t w.core.toNat).icache w.block.toNat =
      some (BitVec.ofNat 512 (bytesNat (blockBytes s (dieOfCore w.core.toNat) (64 * w.block.toNat)))) ∧
    ((coreOf s w.core.toNat).icache.length < icacheCap →
      ∀ b, b ≠ w.block.toNat → tget? (coreOf t w.core.toNat).icache b = tget? (coreOf s w.core.toNat).icache b) ∧
    ∀ b, b ≠ w.block.toNat → tget? (coreOf t w.core.toNat).icache b = none ∨
      tget? (coreOf t w.core.toNat).icache b = tget? (coreOf s w.core.toNat).icache b) ∧
  ∀ (s : State) (w : SnoopLine),
    (w.data = none → exec (.hostSnoop w) s = .next s) ∧
    (∀ v, w.data = some v → ∃ t, exec (.hostSnoop w) s = .next t ∧ Stored s t (2^51 + 128 * w.line.toNat % 2^51) 128 v.toNat ∧
      ∀ c x, ctxOf t c x = ctxOf s c x)

/-- A lit port sends its header flit first in a conjunction, then a marker flit that is owed, which waits for a slot of VC3, then a flit to be
sent again, each with a slot of its VC, else the first queued transaction that may leave, which takes the next LSEQ and a slot and counts in
FLITTX the first time, else an idle flit; a relay sends on what it holds for the partner. Once the marker and the replay are out, the events
of lost light are raised. A boundary advances the conjunction, forgets its counts, notes a partner that sent no header, and takes back what
was not acknowledged; a header gives counts and masks, and from a wrong sender darkens the conjunction. A received flit with a bad CRC is
counted and owes a NAK; one in sequence is acknowledged and moved on, a management flit to the firmware; a gap owes a NAK, a repetition an
acknowledgement; reserved types are discarded. Light, markers, banks, LIVE and PEERID change what R321 and R333 to R336 name.
END_TO_END_ARRIVAL applies the next PKT, holds one ahead, and answers a repetition as before. A signal adds to its counter. A remote request
that its window refuses is answered so; a read carries the bytes, over two entries where it crosses 1 GiB, a write changes them, a knock is
passed on. An answer reaches what waits for it. -/
def Obligations.FabricRows : Prop :=
  (∀ (s : State) (f : PortId),
    let p := portOf s f.toNat
    let others (t : State) : Prop := t.mem = s.mem ∧ t.cores = s.cores ∧ t.dies = s.dies ∧ ∀ g, g ≠ f.toNat → portOf t g = portOf s g
    (portLit s f.toNat = false → exec (.flitTransmit f) s = .next s) ∧
    (portLit s f.toNat = true →
      (p.time = 0 → ∃ t y l, exec (.flitTransmit f) s = .next t ∧ others t ∧ t.fab.sendq = s.fab.sendq ∧
        portOf t f.toNat = { p with out := some (.control y l), time := 1 } ∧ y.typ = 1 ∧ y.vc = 3 ∧ y.tx.src = s.peer ∧
        y.crc = Config.flitCrc (headBits y) l ∧ l.length = 240 ∧ recF l 0 1 = p.conj % 2^8 ∧ recF l 2 2 = advertised s p 0 % 2^16 ∧
        recF l 4 2 = advertised s p 1 % 2^16 ∧ recF l 6 2 = advertised s p 2 % 2^16 ∧ recF l 8 2 = advertised s p 3 % 2^16 ∧
        recF l 16 8 = (portsMask s Port.inService).toNat ∧ recF l 32 16 = p.live.toNat) ∧
      (p.time ≠ 0 → p.marker = true → 0 < tget p.credit 3 0 → ∃ t y l, exec (.flitTransmit f) s = .next (raiseLos f.toNat t) ∧ others t ∧
        t.fab.sendq = s.fab.sendq ∧ y.typ = 9 ∧ y.vc = 3 ∧ y.crc = Config.flitCrc (headBits y) l ∧ l.length = 240 ∧ recF l 0 16 = p.live.toNat ∧
        portOf t f.toNat = { p with out := some (.control y l), time := p.time + 1, marker := false,
                                    credit := tput p.credit 3 (tget p.credit 3 0 - 1) }) ∧
      (p.time ≠ 0 → p.marker = false →
        (∀ x r, usable p = true → 0 < p.replay → p.retry.drop (p.retry.length - p.replay) = x :: r → 0 < tget p.credit x.vc.toNat 0 →
          ∃ t y, exec (.flitTransmit f) s = .next (raiseLos f.toNat t) ∧ others t ∧ t.fab.sendq = s.fab.sendq ∧ (portOf t f.toNat).out = some (.flit y) ∧
            y.lseq = x.lseq ∧ y.vc = x.vc ∧ y.tx = x.tx ∧ y.lack = BitVec.ofNat 12 (p.rxNext + 4095) ∧ y.nak = p.nak ∧ y.crc = sumOf y ∧
            tget (portOf t f.toNat).credit x.vc.toNat 0 = tget p.credit x.vc.toNat 0 - 1 ∧
            (portOf t f.toNat).replay = p.replay - 1 ∧ (portOf t f.toNat).replays = p.replays + 1 ∧ (portOf t f.toNat).retry = p.retry ∧
            (portOf t f.toNat).time = p.time + 1) ∧
        (∀ tx vc relayed, usable p = true → p.replay = 0 → p.retry.length < 1024 → pickTx s f.toNat = some (tx, vc, relayed) →
          ∃ t y, exec (.flitTransmit f) s = .next (raiseLos f.toNat t) ∧ others t ∧ t.fab.sendq = s.fab.sendq.erase tx ∧
            (portOf t f.toNat).out = some (.flit y) ∧ y.lseq = BitVec.ofNat 12 p.lseq ∧ y.vc = BitVec.ofNat 2 vc ∧ y.relayed = relayed ∧
            y.typ = BitVec.ofNat 4 (typeOf tx.kind) ∧ y.tx = tx ∧ y.nak = p.nak ∧ y.crc = sumOf y ∧ (portOf t f.toNat).lseq = (p.lseq + 1) % 4096 ∧
            (portOf t f.toNat).retry.length = p.retry.length + 1 ∧ tget (portOf t f.toNat).credit vc 0 = tget p.credit vc 0 - 1 ∧
            (tx ∉ s.fab.again → (portOf t f.toNat).flitTx = p.flitTx + 1 ∧ (portOf t f.toNat).replays = p.replays) ∧
            (tx ∈ s.fab.again → (portOf t f.toNat).flitTx = p.flitTx ∧ (portOf t f.toNat).replays = p.replays + 1))) ∧
      (p.time ≠ 0 → ((p.marker = true ∧ tget p.credit 3 0 = 0) ∨ (p.marker = false ∧ (usable p = false ∨
            (0 < p.replay ∧ ∀ x r, p.retry.drop (p.retry.length - p.replay) = x :: r → tget p.credit x.vc.toNat 0 = 0) ∨
            (p.replay = 0 ∧ (pickTx s f.toNat = none ∨ 1024 ≤ p.retry.length))))) → ∃ t y, exec (.flitTransmit f) s = .next (raiseLos f.toNat t) ∧
          others t ∧ t.fab.sendq = s.fab.sendq ∧ (portOf t f.toNat).out = some (.flit y) ∧ y.typ = 0 ∧ y.tx.src = s.peer ∧
          y.tx.dest = partner s f.toNat p.conj ∧ y.crc = sumOf y ∧ (portOf t f.toNat).retry = p.retry ∧
          (portOf t f.toNat).lseq = p.lseq ∧ (portOf t f.toNat).time = p.time + 1)) ∧
    ((p.los = [] ∨ p.marker = true ∨ p.replay ≠ 0) → raiseLos f.toNat s = s) ∧
    (p.los ≠ [] → p.marker = false → p.replay = 0 → raiseLos f.toNat s =
      p.los.foldl (fun t g => portEvent 0x30 f.toNat g (onesOf p.live) t) (modPort s f.toNat fun p => { p with los := [] })) ∧
    (∀ (dest : BitVec 12) (e : Tx × BitVec 2), s.fab.relay.find? (fun e => e.1.dest == dest && decide (0 < tget p.credit e.2.toNat 0)) = some e →
      portLit s f.toNat = true → usable p = true → partner s f.toNat p.conj = dest → p.replay = 0 → p.retry.length < 1024 →
      ∃ t y, exec (.relayForward ⟨f, dest⟩) s = .next t ∧ others t ∧ t.fab.relay = s.fab.relay.erase e ∧ t.fab.sendq = s.fab.sendq ∧
        (portOf t f.toNat).out = some (.flit y) ∧ y.vc = e.2 ∧ y.relayed = false ∧ y.tx = e.1 ∧ y.lseq = BitVec.ofNat 12 p.lseq) ∧
    (∀ dest : BitVec 12, (s.fab.relay.find? (fun e => e.1.dest == dest && decide (0 < tget p.credit e.2.toNat 0)) = none ∨ portLit s f.toNat = false ∨
        usable p = false ∨ partner s f.toNat p.conj ≠ dest ∨ p.replay ≠ 0 ∨ 1024 ≤ p.retry.length) → exec (.relayForward ⟨f, dest⟩) s = .next s) ∧
    (∃ t, exec (.conjunctionBoundary ⟨f⟩) s = .next (raiseLos f.toNat t) ∧ others t ∧
      portOf t f.toNat = { p with
        synced := true, conj := if p.synced then (p.conj + 1) % 64 else p.conj, time := 0, hdrSeen := false, wrong := false, adv2 := false,
        credit := [], ret := [], lseq := 0, retry := [], replay := 0, rxNext := 0, ackOwed := false, nak := false, marker := false } ∧
      (∀ x ∈ p.retry, if x.tx.src = s.peer then x.tx ∈ t.fab.sendq else (x.tx, x.vc) ∈ t.fab.relay) ∧
      (∀ x ∈ s.fab.sendq, x ∈ t.fab.sendq) ∧ (∀ x ∈ s.fab.relay, x ∈ t.fab.relay) ∧
      t.fab.masks = s.fab.masks ∧
      (s.peerValid = true → p.inService = true → p.hdrSeen = false → (partner s f.toNat p.conj).toNat ∈ t.fab.silent)) ∧
    (∀ lack, ∃ t, exec (.linkNak ⟨f, lack⟩) s = .next t ∧ others t ∧
      (portOf t f.toNat).retry = p.retry.filter (fun x => decide (1024 ≤ (lack - x.lseq).toNat)) ∧
      (portOf t f.toNat).replay = (portOf t f.toNat).retry.length) ∧
    (∀ m, (s.peerValid = true → p.inService = true → p.hdrSeen = true → p.wrong = false →
        ∃ t, exec (.restripeMarker ⟨f, m⟩) s = .next t ∧ others t ∧
          portOf t f.toNat = { p with rxLive := m, ret := tput p.ret 3 (tget p.ret 3 0 + 1) }) ∧
      ((s.peerValid = false ∨ p.inService = false ∨ p.hdrSeen = false ∨ p.wrong = true) → exec (.restripeMarker ⟨f, m⟩) s = .next s) ∧
      ∃ t, exec (.portLive ⟨f, m⟩) s = .next t ∧ others t ∧ portOf t f.toNat = { p with live := p.live ||| m }) ∧
    (∀ g l, let dark := p.live &&& ~~~(BitVec.ofNat 128 (15 * 2^(16 * g.toNat + 4 * l.toNat)))
      (portLit s f.toNat = true → ∃ t, exec (.lossOfLight ⟨f, g, l⟩) s = .next t ∧ others t ∧
        portOf t f.toNat = { p with live := dark, marker := true, replay := p.retry.length, losCnt := p.losCnt + 1, los := p.los ++ [g.toNat] }) ∧
      (portLit s f.toNat = false → ∃ t, exec (.lossOfLight ⟨f, g, l⟩) s = .next (raiseLos f.toNat t) ∧ others t ∧
        portOf t f.toNat = { p with live := dark, marker := false, replay := 0, losCnt := p.losCnt + 1, los := p.los ++ [g.toNat] })) ∧
    (∀ b n, ∃ t, exec (.bankRetired ⟨f, b, n⟩) s = .next t ∧ t.cores = s.cores ∧
      portOf t f.toNat = { p with banks := withOne p.banks b.toNat, slots := min p.slots n.toNat } ∧
      (portRow p.slots = portRow (portOf t f.toNat).slots → others t))) ∧
  (∀ (s : State) (w : PeerWrite), (w.ivms = none → exec (.peeridWrite w) s = .next { s with peer := w.peer, peerValid := true }) ∧
    ∀ v, w.ivms = some v → exec (.peeridWrite w) s = .next { s with
      peer := w.peer, peerValid := true, rot := { s.rot with svrot := if 1 ≤ v.toNat ∧ v.toNat ≤ 60000 then v else s.rot.svrot } }) ∧
  (∀ (s : State) (h : ConjHeader), s.peerValid = true → (portOf s h.port.toNat).whole = true →
    ∃ t, exec (.conjunctionHeader h) s = .next t ∧ (portOf t h.port.toNat).hdrSeen = true ∧ (portOf t h.port.toNat).conj = h.index.toNat ∧
      (h.sender ≠ partner s h.port.toNat h.index.toNat → (portOf t h.port.toNat).wrong = true ∧ t.fab.masks = s.fab.masks) ∧
      (h.sender = partner s h.port.toNat h.index.toNat → (portOf t h.port.toNat).wrong = false ∧ t.mem = s.mem ∧
        tget t.fab.masks h.sender.toNat (0, 0) = (h.inService, h.vc0Mask) ∧ (portOf t h.port.toNat).rxLive = h.liveMask ∧
        tget (portOf t h.port.toNat).credit 0 0 = h.slots0.toNat ∧ tget (portOf t h.port.toNat).credit 3 0 = h.slots3.toNat)) ∧
  (∀ (s : State) (h : ConjHeader), (s.peerValid = false ∨ (portOf s h.port.toNat).whole = false) → exec (.conjunctionHeader h) s = .next s) ∧
  (∀ (s : State) (w : FlitArrival),
    let p := portOf s w.port.toNat
    let x := w.flit
    ((s.peerValid = false ∨ p.inService = false) → exec (.flitReceive w) s = .next s) ∧ (
    s.peerValid = true → p.inService = true →
    (x.crc ≠ sumOf x → ∃ t, exec (.flitReceive w) s = .next t ∧ t.events = s.events ∧
      portOf t w.port.toNat = { p with crcErr := p.crcErr + 1, nak := p.nak || (p.hdrSeen && !p.wrong) }) ∧
    (x.crc = sumOf x → (p.hdrSeen = false ∨ p.wrong = true ∨ 11 ≤ x.typ.toNat) → exec (.flitReceive w) s = .next s) ∧
    (x.crc = sumOf x → p.hdrSeen = true → p.wrong = false → x.typ.toNat < 11 → ∃ t, exec (.flitReceive w) s = .next t ∧ t.mem = s.mem ∧
      (let q := portOf t w.port.toNat
       q.retry = (if x.ackv = true then p.retry.filter (fun y => decide (1024 ≤ (x.lack - y.lseq).toNat)) else p.retry) ∧
       (x.ackv = true → x.nak = true → q.replay = q.retry.length) ∧
       tget q.credit x.crvc.toNat 0 = tget p.credit x.crvc.toNat 0 + x.crinc.toNat ∧
       (carriedBy x = none → x.typ ≠ 10 → q.rxNext = p.rxNext ∧ q.flitRx = p.flitRx ∧ t.events = s.events ∧ t.fab.relay = s.fab.relay) ∧
       (x.typ = 10 → x.lseq.toNat = p.rxNext → q.rxNext = (p.rxNext + 1) % 4096 ∧ q.ackOwed = true ∧ q.flitRx = p.flitRx ∧
         tget q.ret x.vc.toNat 0 = tget p.ret x.vc.toNat 0 + 1 ∧ t.events = s.events ∧ t.fab.relay = s.fab.relay ∧
         (dieOf t 0).fw = (dieOf s 0).fw ++ [⟨0x10, [w.port.toNat, x.tx.src.toNat]⟩]))) ∧
    (∀ tx, x.crc = sumOf x → p.hdrSeen = true → p.wrong = false → carriedBy x = some tx → x.lseq.toNat = p.rxNext → ∃ t, exec (.flitReceive w) s = .next t ∧ t.mem = s.mem ∧
      (portOf t w.port.toNat).rxNext = (p.rxNext + 1) % 4096 ∧ (portOf t w.port.toNat).ackOwed = true ∧
      (portOf t w.port.toNat).flitRx = p.flitRx + 1 ∧ tget (portOf t w.port.toNat).ret x.vc.toNat 0 = tget p.ret x.vc.toNat 0 + 1 ∧
      (let y := if w.tagOk ∨ tx.enc = false then tx else { tx with status := 0x16 }
       (x.vc = 2 → t.fab.relay = s.fab.relay ++ [(y, x.ovc)] ∧ t.events = s.events) ∧
       (x.vc ≠ 2 → tx.dest = s.peer → t.events = s.events ++
         [⟨.ports, some (if vcOf tx = 1 then .remoteResponse ⟨y⟩ else .endToEndArrival ⟨y⟩)⟩]))) ∧
    (x.crc = sumOf x → p.hdrSeen = true → p.wrong = false → (x.typ = 10 ∨ ∃ tx, carriedBy x = some tx) → x.lseq.toNat ≠ p.rxNext → ∃ t, exec (.flitReceive w) s = .next t ∧ t.events = s.events ∧
      t.fab.relay = s.fab.relay ∧ (portOf t w.port.toNat).rxNext = p.rxNext ∧
      (if (x.lseq - BitVec.ofNat 12 p.rxNext).toNat < 1024 then (portOf t w.port.toNat).nak = true
        else (portOf t w.port.toNat).ackOwed = true)))) ∧
  (∀ (s : State) (x : Tx),
    let n := tget s.fab.rxNext x.src.toNat 0
    (x.pkt = n → x.status = 0 → x.unitKind ≠ 6 → x.unitKind ≠ 7 → (x.kind = .write ∨ x.kind = .read ∨ x.kind = .atomic) →
      (∀ h ∈ s.fab.held, h.src = x.src → h.pkt ≠ n + 1) → ∃ t, exec (.endToEndArrival ⟨x⟩) s = .next t ∧ t.mem = s.mem ∧
        tget t.fab.rxNext x.src.toNat 0 = n + 1 ∧ t.events = s.events ++ [⟨.ports, some (.remoteRequest ⟨x⟩)⟩] ∧ t.fab.sendq = s.fab.sendq) ∧
    (x.pkt = n → ∃ t, exec (.endToEndArrival ⟨x⟩) s = .next t ∧
      ((∀ h ∈ s.fab.held, h.src = x.src → h.pkt ≠ n + 1) →
        t = applyTx x { s with fab := { s.fab with rxNext := tput s.fab.rxNext x.src.toNat (n + 1) } }) ∧
      ((∃ h ∈ s.fab.held, h.src = x.src ∧ h.pkt = n + 1) → t.fab.held.length < s.fab.held.length)) ∧
    (x.pkt = n → x.status = 0 → x.kind = .signal → x.unitKind ≠ 6 → x.unitKind ≠ 7 → (∀ h ∈ s.fab.held, h.src = x.src → h.pkt ≠ n + 1) →
      ∃ t, exec (.endToEndArrival ⟨x⟩) s = .next t ∧ t.mem = s.mem ∧
        t.fab.sendq = s.fab.sendq ++ [ackTx s x (if (sigTarget s x.part.toNat x.operand).isSome then 0 else sigRefused s x.part.toNat x.operand)] ∧
        t.events = s.events ++ (if (sigTarget s x.part.toNat x.operand).isSome then
          [⟨.ports, some (.sigApply ⟨x.src, x.part, x.operand, x.expect⟩)⟩] else [])) ∧
    (x.pkt = n → x.status ≠ 0 → (∀ h ∈ s.fab.held, h.src = x.src → h.pkt ≠ n + 1) → ∃ t, exec (.endToEndArrival ⟨x⟩) s = .next t ∧
      t.mem = s.mem ∧ t.events = s.events ∧ t.fab.sendq = s.fab.sendq ++ [ackTx s x x.status.toNat]) ∧
    (1 ≤ (x.pkt - n).toNat → (x.pkt - n).toNat ≤ 1023 → (∀ h ∈ s.fab.held, h.src = x.src → h.pkt ≠ x.pkt) → s.fab.held.length < 2^18 →
      exec (.endToEndArrival ⟨x⟩) s = .next { s with fab := { s.fab with held := s.fab.held ++ [x] } }) ∧
    (∀ st, 1024 ≤ (x.pkt - n).toNat → heKeeps x s = false → (tget s.fab.rxStatus x.src.toNat []).find? (fun e => e.1 == x.pkt) = some (x.pkt, st) →
      ∃ t, exec (.endToEndArrival ⟨x⟩) s = .next t ∧ t.mem = s.mem ∧ t.events = s.events ∧
        t.fab.sendq = s.fab.sendq ++ [{ x with kind := .ack, src := s.peer, dest := x.src, data := [], status := st }])) ∧
  (∀ (s : State) (w : SigArrival),
    (sigTarget s w.part.toNat w.id = none → exec (.sigApply w) s = .next s) ∧
    (∀ d i, sigTarget s w.part.toNat w.id = some (d, i) → ∃ t, exec (.sigApply w) s = .next t ∧ SameMem s t ∧
      CounterSet s t d i (clamp64 (hssGet s d i + w.delta.toInt)) ∧
      tget (dieOf t d).hssLast i 0 = BitVec.ofNat 32 (9 + 2^11 * w.src.toNat))) ∧
  (∀ (s : State) (x : Tx),
    let place := exportTgt s x.part.toNat x.off.toNat x.len (x.kind != .read) (x.kind == .atomic)
    let back : Tx := { x with src := s.peer, dest := x.src, data := [] }
    (∀ pa pte pb qte k, x.kind = .read → 2^30 < x.off.toNat % 2^30 + x.len → k = 2^30 - x.off.toNat % 2^30 →
      exportRuns s x.part.toNat x.off.toNat x.len false = .ok [(.phys pa pte, k), (.phys pb qte, x.len - k)] →
      hasBad s pa k = false → hasBad s pb (x.len - k) = false → copyable 0 pa pte = false → copyable 0 pb qte = false →
      ∃ t, exec (.remoteRequest ⟨x⟩) s = .next t ∧ t.mem = s.mem ∧
        t.fab.sendq = s.fab.sendq ++ [{ back with kind := .readRsp, status := 0, data := rdBytes s.mem pa k ++ rdBytes s.mem pb (x.len - k) }]) ∧
    ((x.kind = .atomic ∨ x.off.toNat % 2^30 + x.len ≤ 2^30) →
    (place = none → ∃ t y, exec (.remoteRequest ⟨x⟩) s = .next t ∧ t.mem = s.mem ∧ t.fab.sendq = s.fab.sendq ++ [y] ∧ y.dest = x.src ∧
      y.pkt = x.pkt ∧ y.data = [] ∧ y.status = BitVec.ofNat 8 (exportStatus s x.part.toNat x.off.toNat x.len)) ∧
    (∀ c off, place = some (.scr c off) → x.kind = .read → Defined s c off x.len → ∃ t, exec (.remoteRequest ⟨x⟩) s = .next t ∧
      t.mem = s.mem ∧ t.fab.sendq = s.fab.sendq ++ [{ back with kind := .readRsp, status := 0, data := rdBytes s.mem (scrKey c off) x.len }]) ∧
    (∀ c off, place = some (.scr c off) → x.kind = .write → badEdge s (scrKey c off) x.data.length = false →
      ∃ t, exec (.remoteRequest ⟨x⟩) s = .next t ∧ t.fab.sendq = s.fab.sendq ++ [{ back with kind := .ack, status := 0 }] ∧
        ∀ k, byteAt t k = if scrKey c off ≤ k ∧ k < scrKey c off + x.data.length then nth x.data (k - scrKey c off) 0 else byteAt s k) ∧
    (∀ d q, place = some (.knock d q true) → x.kind = .write → ∃ t, exec (.remoteRequest ⟨x⟩) s = .next t ∧ t.mem = s.mem ∧
      t.fab.sendq = s.fab.sendq ++ [{ back with kind := .ack, status := 0 }] ∧
      t.events = s.events ++ [⟨.cp (BitVec.ofNat 2 d), some (.knock ⟨BitVec.ofNat 2 d, BitVec.ofNat 12 q, BitVec.ofNat 32 (bytesNat x.data),
        BitVec.ofNat 32 (bytesNat x.data / 2^32), .peer x.part⟩)⟩]) ∧
    (∀ d q, place = some (.knock d q false) → x.kind = .read → ∃ t, exec (.remoteRequest ⟨x⟩) s = .next t ∧ t.mem = s.mem ∧
      t.fab.sendq = s.fab.sendq ++ [{ back with kind := .readRsp, status := 0, data := List.replicate x.len 0 }]) ∧
    (∀ pa pte, place = some (.phys pa pte) → ((x.kind = .read ∧ hasBad s pa x.len = true) ∨ (x.kind = .atomic ∧ hasBad s pa 8 = true)) →
      ∃ t y, exec (.remoteRequest ⟨x⟩) s = .next t ∧ t.mem = s.mem ∧ t.fab.sendq = s.fab.sendq ++ [y] ∧ y.dest = x.src ∧ y.pkt = x.pkt ∧
        y.data = [] ∧ y.status = 0x17) ∧
    (∀ c off, place = some (.scr c off) → x.kind = .write → badEdge s (scrKey c off) x.data.length = true → ∃ t, exec (.remoteRequest ⟨x⟩) s = .next t ∧
      t.mem = s.mem ∧ t.fab.sendq = s.fab.sendq ++ [{ back with kind := .ack, status := 0x17 }]) ∧
    (∀ pa pte, place = some (.phys pa pte) → x.kind = .read → hasBad s pa x.len = false → ∃ t, exec (.remoteRequest ⟨x⟩) s = .next t ∧
      t.mem = s.mem ∧ t.fab.sendq = s.fab.sendq ++ [{ back with kind := .readRsp, status := 0, data := rdBytes s.mem pa x.len }]) ∧
    (∀ pa pte, place = some (.phys pa pte) → x.kind = .write → ∃ t, exec (.remoteRequest ⟨x⟩) s = .next t ∧
      t.fab.sendq = s.fab.sendq ++ [{ back with kind := .ack, status := 0 }] ∧
      ∀ k, byteAt t k = if pa ≤ k ∧ k < pa + x.data.length then nth x.data (k - pa) 0 else byteAt s k) ∧
    (∀ pa pte, place = some (.phys pa pte) → x.kind = .atomic → hasBad s pa 8 = false → ∃ t, exec (.remoteRequest ⟨x⟩) s = .next t ∧
      t.fab.sendq = s.fab.sendq ++ [{ back with kind := .atomicRsp, status := 0, data := rdBytes s.mem pa 8 }] ∧
      Stored s t pa 8 (atomNew x.aop.toNat (BitVec.ofNat 64 (rdN s.mem pa 8)) x.operand x.expect).toNat))) ∧
  ∀ (s : State) (x : Tx),
    let find (a : Asked) : Bool := a.peer == x.src && a.pkt == x.pkt
    (s.fab.asked.find? find = none → exec (.remoteResponse ⟨x⟩) s = .next s) ∧
    (∀ a, s.fab.asked.find? find = some a → (a.kind = .read ∨ a.kind = .atomic) → x.kind = .ack → x.status = 0 →
      exec (.remoteResponse ⟨x⟩) s = .next s) ∧
    (∀ a, s.fab.asked.find? find = some a → ¬ ((a.kind = .read ∨ a.kind = .atomic) ∧ x.kind = .ack ∧ x.status = 0) → (∃ e ∈ s.farReads, e.id = a.id) →
      ∃ t, exec (.remoteResponse ⟨x⟩) s = .next t ∧ t.mem = s.mem ∧ t.farReads = s.farReads.map fun e =>
        if e.id = a.id then (if x.status = 0 then { e with data := some x.data } else { e with bad := true }) else e) ∧
    (∀ a, s.fab.asked.find? find = some a → (∀ e ∈ s.farReads, e.id ≠ a.id) → ¬ ((a.kind = .read ∨ a.kind = .atomic) ∧ x.kind = .ack ∧ x.status = 0) →
      let u := closeAsked a s
      (a.unitKind = 5 → exec (.remoteResponse ⟨x⟩) s = .next (ceAnswer a x u) ∧ ∀ j, (ceOf s (a.who.toNat % 128)).job = some j →
        (j.rd = some a.id → x.status = 0 → (ceOf (ceAnswer a x u) (a.who.toNat % 128)).job = some { j with rd := none, rdata := some x.data }) ∧
        (j.rd ≠ some a.id → a.id ∈ j.outs → x.status = 0 → (ceOf (ceAnswer a x u) (a.who.toNat % 128)).job =
          some { j with outs := j.outs.filter (· ≠ a.id) }) ∧
        ((j.rd = some a.id ∨ a.id ∈ j.outs) → x.status ≠ 0 → j.refused = none → ∃ y,
          (ceOf (ceAnswer a x u) (a.who.toNat % 128)).job = some y ∧ y.refused = some x.status.toNat)) ∧
      (a.unitKind = 6 → exec (.remoteResponse ⟨x⟩) s = .next (heAcked a.id x.status.toNat u)) ∧
      (a.unitKind = 7 → exec (.remoteResponse ⟨x⟩) s = .next u)) ∧
    (∀ a, s.fab.asked.find? find = some a → (∀ e ∈ s.farReads, e.id ≠ a.id) → a.unitKind ≠ 5 → a.unitKind ≠ 6 → a.unitKind ≠ 7 →
      let core := a.who.toNat % 128
      let z := ctxOfNum (a.who.toNat / 128)
      let y := ctxOf s core z
      ((a.kind = .read ∨ a.kind = .atomic) → x.kind ≠ .ack → y.remote = .sent a.id → (∀ e ∈ y.owed, e.1 ≠ a.id) →
        ∃ t, exec (.remoteResponse ⟨x⟩) s = .next t ∧ (a.id ∉ y.acq → t.mem = s.mem) ∧ t.fab.asked = s.fab.asked.erase a ∧
          (x.status = 0 → (ctxOf t core z).remote = .idle ∧ (ctxOf t core z).got = y.got ++ [bytesNat x.data]) ∧
          (x.status ≠ 0 → (ctxOf t core z).remote = .refused)) ∧
      (∀ w, (a.kind = .read ∨ a.kind = .atomic) → x.kind ≠ .ack → y.remote ≠ .sent a.id → a.id ∉ y.acq →
        (y.pend.filterMap fun p => p.await).find? (fun w => w.id = a.id) = some w →
        ∃ t, exec (.remoteResponse ⟨x⟩) s = .next t ∧ t.mem = s.mem ∧ t.fab.asked = s.fab.asked.erase a ∧
          (x.status = 0 → (ctxOf t core z).pend = y.pend.map fun p =>
            if p.await = some w then { p with val := extendLoad w.sx w.size (bytesNat x.data), await := none } else p) ∧
          (x.status ≠ 0 → (ctxOf t core z).pend = y.pend.filter (fun p => p.await != some w) ∧
            (y.refused = none → (ctxOf t core z).refused = some (w.pc, w.va, if x.kind = .atomic then 0x17 else 0x14)))) ∧
      ((a.kind = .write ∨ a.kind = .signal) → (∃ r ∈ y.reqs, r.due = none ∧ r.id = a.id) → (∀ e ∈ y.owed, e.1 ≠ a.id) → 
        ∃ t, exec (.remoteResponse ⟨x⟩) s = .next t ∧ (a.id ∉ y.acq → t.mem = s.mem) ∧
          (∀ r ∈ (ctxOf t core z).reqs, ¬ (r.due = none ∧ r.id = a.id)) ∧
          (ctxOf t core z).rerrValid = (y.rerrValid || decide (x.status ≠ 0)) ∧
          (ctxOf t core z).rerrVa = if x.status ≠ 0 ∧ y.rerrValid = false then a.va.setWidth 56 else y.rerrVa))

/-- An alarm of an engine that was not eclipsed in the last 1,024 cycles restarts it from its mark and logs kind, unit and action 1, or, with
its mark area lost, stops the slice (5); a further one, or an alarm of a context, resets the core, its contexts at their marks (action 2);
of a die's processor, dispatch or directory, the die (3). WATCHDOG does nothing before its limit. ECLIPSE (a reset of the core where NR =
1), ROTATION_ECLIPSE, CORE_RESET, DIE_RESET do what they name: a rotation is postponed for NR and for a stopped core; a die reset empties
the TLB and takes the queues up again. PACKAGE_RECOVERY empties the caches, clears the cores without a team and retrains the ports;
POWER_ON_RESET gives the reset state, the host's memory apart. A trace record is written where its region stands, if it has a slot. A
period's end clears its slots; a scrub without a slot is put off to the next period. A counter's scrub takes the value that two copies have,
or poisons. A scrub counts a corrected error; an uncorrectable one poisons the full slot, the user table, the vector register or the word of
the line that holds it. An engine's update adds once, and to no poisoned counter. -/
def Obligations.RecoveryRows : Prop :=
  (∀ (s : State) (i : Instr) (kind : Nat), (i = .watchdog ∧ kind = 1 ∧ watchdogDue s s.cur = true) ∨ (i = .parityAlarm ∧ kind = 2) ∨
      (i = .protocolAlarm ∧ kind = 3) →
    (∀ (c : Nat) (e : EngSel), c < 128 → s.cur = engAgent c e → within s (seqrOf s c e).eclAt 1024 = false → nrActive s s.cur = false →
      (engMarkLost s c e = false → ∃ t, exec i s = .next t ∧ EngRestarted s t c e ∧ AlarmLogged s t c kind (engKind e) 1 ∧
        (∀ k x, ctxOf t k x = ctxOf s k x) ∧ (coreOf t c).ecl.toNat = min (2^24 - 1) ((coreOf s c).ecl.toNat + 1)) ∧
      (engMarkLost s c e = true → ∃ t u, exec i s = .next t ∧ AlarmLogged u t c kind (engKind e) 5 ∧ u = loseMark c s)) ∧
    (∀ (c : Nat) (e : EngSel), c < 128 → s.cur = engAgent c e → (within s (seqrOf s c e).eclAt 1024 = true ∨ nrActive s s.cur = true) →
      within s (coreOf s c).resetAt 17000 = false → markLost s c = false →
      ∃ t, exec i s = .next t ∧ CoreRestarted s t c ∧ AlarmLogged s t c 5 (engKind e) 2) ∧
    (∀ a, a = s.cur → ((∃ c, a = .ce c) ∨ (∃ d, a = .he d) ∨ ∃ d, a = .xe d) →
      (within s (lastEclipse s a) 1024 = false → exec i s = .next (logAlarm a kind 1 (eclipseEngine a s))) ∧
      (within s (lastEclipse s a) 1024 = true →
        (∀ c, a = .ce c → within s (coreOf s c.toNat).resetAt 17000 = false → markLost s c.toNat = false →
          ∃ t, exec i s = .next t ∧ CoreRestarted s t c.toNat ∧ AlarmLogged s t c.toNat 5 5 2) ∧
        ((∃ d, a = .he d) ∨ (∃ d, a = .xe d) → within s (dieOf s (agentDie a)).resetAt 4250000 = false →
          exec i s = .next (logAlarm a 5 3 (dieReset (agentDie a) s))))) ∧
    (∀ c x, s.cur = .ctx c x → within s (coreOf s c.toNat).resetAt 17000 = true →
      (within s (dieOf s (dieOfCore c.toNat)).resetAt 4250000 = false →
        exec i s = .next (logAlarm s.cur kind 3 (dieReset (dieOfCore c.toNat) s))) ∧
      (within s (dieOf s (dieOfCore c.toNat)).resetAt 4250000 = true → ∃ t n, exec i s = .next t ∧
        t.events = s.events ++ [⟨.alwaysOn, some (.packageRecovery ⟨n⟩)⟩])) ∧
    (∀ c x, s.cur = .ctx c x → within s (coreOf s c.toNat).resetAt 17000 = false →
      (markLost s c.toNat = false →
        ∃ t, exec i s = .next t ∧ CoreRestarted s t c.toNat ∧ AlarmLogged s t c.toNat kind (ctxNum x) 2) ∧
      (markLost s c.toNat = true → ∃ t u, exec i s = .next t ∧ AlarmLogged u t c.toNat kind (ctxNum x) 5 ∧ u = loseMark c.toNat s)) ∧
    (∀ d, (s.cur = .cp d ∨ s.cur = .dispatch d ∨ s.cur = .l2dir d) → within s (dieOf s d.toNat).resetAt 4250000 = false →
      exec i s = .next (logAlarm s.cur kind 3 (dieReset d.toNat s))) ∧
    (s.cur = .bridge → ∃ t n, exec i s = .next t ∧ t.events = s.events ++ [⟨.alwaysOn, some (.packageRecovery ⟨n⟩)⟩])) ∧
  (∀ s : State, watchdogDue s s.cur = false → exec .watchdog s = .next s) ∧
  (∀ (s : State) (c : Nat) (e : EngSel), c < 128 → s.cur = engAgent c e →
    (nrActive s s.cur = false → engMarkLost s c e = true → exec .eclipse s = .next (loseMark c s)) ∧
    (nrActive s s.cur = false → engMarkLost s c e = false → ∃ t, exec .eclipse s = .next t ∧ EngRestarted s t c e ∧ ∀ k x, ctxOf t k x = ctxOf s k x) ∧
    (nrActive s s.cur = true → within s (coreOf s c).resetAt 17000 = false → markLost s c = false →
      ∃ t, exec .eclipse s = .next t ∧ CoreRestarted s t c ∧ AlarmLogged s t c 5 (engKind e) 2) ∧
    ((nrActive s s.cur = true ∨ (coreOf s c).stopped = true) → exec .rotationEclipse s = .next s) ∧
    (nrActive s s.cur = false → (coreOf s c).stopped = false → engMarkLost s c e = false → ∃ t, exec .rotationEclipse s = .next t ∧ EngRestarted s t c e ∧
      (seqrOf t c e).rotAt = s.now ∧ AlarmLogged s t c 4 (engKind e) 1)) ∧
  (∀ s : State, ((∃ c, s.cur = .ce c) ∨ (∃ d, s.cur = .he d) ∨ ∃ d, s.cur = .xe d) →
    exec .eclipse s = .next (eclipseEngine s.cur s) ∧ lastEclipse (eclipseEngine s.cur s) s.cur = some s.now ∧
    (unitStopped s s.cur = true → exec .rotationEclipse s = .next s) ∧
    (unitStopped s s.cur = false → ∃ t, exec .rotationEclipse s = .next t ∧ lastEclipse t s.cur = some s.now ∧
      rotationAt t s.cur = s.now)) ∧
  (∀ s : State, markLost s (agentCore s.cur) = false → ∃ t, exec .coreReset s = .next t ∧ CoreRestarted s t (agentCore s.cur)) ∧
  (∀ s : State,
    let d := agentDie s.cur
    (∀ i, i < 32 → (coreOf s (32 * d + i)).team = none) → ∃ t, exec .dieReset s = .next t ∧ (dieOf t d).tlb = [] ∧
      (dieOf t d).resetAt = some s.now ∧ (cpOf t d).q = [] ∧ (∀ e ∈ (cpOf s d).q, e.1 ∈ (cpOf t d).kvec) ∧
      (∀ k ∈ (cpOf s d).kvec, k ∈ (cpOf t d).kvec) ∧ (∀ i, i < 32 → (coreOf t (32 * d + i)).utlb = []) ∧
      (dieOf t d).he.eclAt = some s.now ∧ (dieOf t d).xe.eclAt = some s.now ∧ ∀ c x, ctxOf t c x = ctxOf s c x) ∧
  (∀ s : State,
    let d := agentDie s.cur
    (∀ e ∈ (dieOf s d).l2, e.1 < 2^45) → (∀ i, i < 32 → markLost s (32 * d + i) = false) → ∃ t, exec .dieReset s = .next t ∧
      (dieOf t d).tlb = [] ∧ (dieOf t d).resetAt = some s.now ∧ (cpOf t d).q = [] ∧
      (∀ i, i < 32 → (coreOf s (32 * d + i)).team ≠ none → CoreRestarted s t (32 * d + i)) ∧
      ∀ c x, (dieOfCore c ≠ d ∨ (coreOf s c).team = none) → ctxOf t c x = ctxOf s c x) ∧
  (∀ (s : State) (n : Nat), ∃ t, exec (.packageRecovery ⟨n⟩) s = .next t ∧ t.now = s.now ∧
    (∀ d, d < 4 → (dieOf t d).l2 = [] ∧ (dieOf t d).cycAdd = (dieOf s d).cycAdd + n ∧ (dieOf t d).resetAt = some s.now) ∧
    (∀ c, (coreOf t c).l1 = [] ∧ (coreOf t c).icache = []) ∧ (∀ c, (coreOf s c).team = none → coreOf t c = {}) ∧
    ∀ f, f < 64 → (portOf t f).retry = [] ∧ (portOf t f).synced = false ∧ (portOf t f).live = (portOf s f).live ∧
      (portOf t f).banks = (portOf s f).banks) ∧
  (∀ s : State, exec .powerOnReset s = .next { State.reset with
    agenda := s.agenda, free := s.free, mem := s.mem.filter (fun e => isHost e.1), bad := s.bad.filter fun w => isHost (8 * w) }) ∧
  (∀ (s : State) (r : TraceRec) (rest : List TraceRec),
    let d := agentDie s.cur
    let x := dieOf s d
    x.staging = r :: rest →
    (tget s.slotsUsed (slotKey (.trace (BitVec.ofNat 2 d)) r.part.toNat) 0 <
      tget (partOf s r.part.toNat).slots (slotKey (.trace (BitVec.ofNat 2 d)) r.part.toNat) 0 → traceReady s d = true) ∧
    (traceReady s d = false → exec .traceRecordWrite s = .next s) ∧
    (traceReady s d = true → x.dropped = 0 → ∃ t, exec .traceRecordWrite s = .next t ∧ (dieOf t d).staging = rest ∧
      (((partOf s r.part.toNat).trEn = false ∨ x.trSize < 64) → SameMem s t ∧ (dieOf t d).trPos = x.trPos) ∧
      ((partOf s r.part.toNat).trEn = true → 64 ≤ x.trSize →
        rdBytes t.mem (x.trBase + x.trPos) 64 = recBytes (sealRec r) ∧
        (∀ k, (k < x.trBase + x.trPos ∨ x.trBase + x.trPos + 64 ≤ k) → byteAt t k = byteAt s k) ∧
        (dieOf t d).trPos = if x.trPos + 128 ≤ x.trSize then x.trPos + 64 else 0)) ∧
    (traceReady s d = true → x.dropped ≠ 0 → rest.length < 1024 → ∃ t y, exec .traceRecordWrite s = .next t ∧ (dieOf t d).dropped = 0 ∧
      (dieOf t d).staging = rest ++ [y] ∧ y.kind = 0x36 ∧ y.obj = x.dropped ∧
      ((partOf s r.part.toNat).trEn = true → 64 ≤ x.trSize → rdBytes t.mem (x.trBase + x.trPos) 64 = recBytes (sealRec r)))) ∧
  (∀ (s : State) (w : PeriodEnd), ∃ t, exec (.budgetPeriodEnd w) s = .next t ∧ { t with slotsUsed := [] } = { s with slotsUsed := [] } ∧
    ∀ k, tget t.slotsUsed k 0 = if slotRes k = resNum w.res then 0 else tget s.slotsUsed k 0) ∧
  (∀ (s : State) (r : HssRef),
    let d := r.die.toNat
    let i := r.index.toNat
    (scrubFull s d = true → exec (.hssScrub r) s = .next (nextPeriod (.hssScrub r) s)) ∧
    (∀ v, scrubFull s d = false → ((r.copy0 = v ∧ (r.copy1 = v ∨ r.copy2 = v)) ∨ (r.copy0 ≠ v ∧ r.copy1 = v ∧ r.copy2 = v)) →
      ∃ t, exec (.hssScrub r) s = .next t ∧ CounterSet s t d i v.toInt ∧ SameMem s t ∧ hssPoisoned t d i = hssPoisoned s d i) ∧
    (scrubFull s d = false → r.copy0 ≠ r.copy1 → r.copy0 ≠ r.copy2 → r.copy1 ≠ r.copy2 → ∃ t, exec (.hssScrub r) s = .next t ∧ hssPoisoned t d i = true ∧
      SameMem s t ∧ ∀ k j, hssGet t k j = hssGet s k j)) ∧
  (∀ (s : State) (w : ScrubRow),
    (scrubFull s (eccDie w.place) = true → exec (.spScrub w) s = .next (nextPeriod (.spScrub w) s)) ∧ (scrubFull s (eccDie w.place) = false →
    (w.err = .none → ∃ t, exec (.spScrub w) s = .next t ∧ { t with slotsUsed := [] } = { s with slotsUsed := [] }) ∧
    (w.err = .single → ∃ t, exec (.spScrub w) s = .next t ∧ SameMem s t ∧ t.cores = s.cores ∧ t.bad = s.bad ∧
      (dieOf t (eccDie w.place)).corrected = (dieOf s (eccDie w.place)).corrected + 1) ∧
    (w.err = .double → ∃ t, exec (.spScrub w) s = .next t ∧ (∀ k x, ctxOf t k x = ctxOf s k x) ∧
      (∀ c off, w.place = .scratchpad c off →
        let o := off.toNat / 8 * 8
        hasBad t (scrKey c.toNat o) 8 = true ∧ (fullHit s c.toNat o 8 = [] → SameMem s t) ∧
        ∀ id i, fullHit s c.toNat o 8 = [(id, i)] → sysRead t c.toNat (hdrOff id i + 2) 2 = 0xF000 ∧
          ∀ k, (k < scrKey c.toNat (hdrOff id i + 2) ∨ scrKey c.toNat (hdrOff id i + 2) + 2 ≤ k) → byteAt t k = byteAt s k) ∧
      (∀ c n, w.place = .table c n → SameMem s t ∧ ∀ x, tget? (coreOf s c.toNat).ve.tabs n.toNat = some x →
        tget? (coreOf t c.toNat).ve.tabs n.toNat = some { x with poisoned := true }) ∧
      (∀ c r, w.place = .vreg c r → SameMem s t ∧
        tget (coreOf t c.toNat).ve.regs r.toNat {} = { tget (coreOf s c.toNat).ve.regs r.toNat {} with tag := 0xF000 }) ∧
      ∀ d line n, w.place = .l2 d line n → SameMem s t ∧ ∀ x, tget? (dieOf s d.toNat).l2 line.toNat = some x →
        ∃ y, tget? (dieOf t d.toNat).l2 line.toNat = some y ∧ y.data = x.data ∧ y.err.getLsbD n.toNat = true))) ∧
  ∀ (s : State) (u : EngineUpdate),
    let d := u.die.toNat
    let i := u.index.toNat
    (updateIsNew u s = true → hssPoisoned s d i = false → ∃ t, exec (.hssEngineUpdate u) s = .next t ∧ CounterSet s t d i (clamp64 (hssGet s d i + u.delta)) ∧
      tget (dieOf t d).hssLast i 0 = u.last ∧ updateIsNew u t = false ∧ SameMem s t) ∧
    (updateIsNew u s = false ∨ hssPoisoned s d i = true → ∃ t, exec (.hssEngineUpdate u) s = .next t ∧ (∀ k j, hssGet t k j = hssGet s k j) ∧
      (∀ k x, ctxOf t k x = ctxOf s k x) ∧ SameMem s t)

/-- A host request or CXL access that DRAM and its range's owners admit writes its bytes, or answers the bytes it reads; a refused one gets all
ones, a knock word a knock or zeros; a read of BAR0 answers the register, or an error where the function has it not; a management core's
access is refused with a fault logged, or served; an absent VF, or a TDI that is not UNLOCKED without IDE, gets an error of all ones.
EQHEAD, MSI-X moderation, TDISP steps, the doorbell and the BAR0 registers do what R416 to R421 say and wake the package, refused as R416
says; a VF's write of a PF register changes none. Each command is answered with its STAT: a PF's command from a VF 2, an unknown one 1;
PCREATE takes the lowest free id, 5 with none, 3 for bad ranges or slots beyond a period; PDESTROY removes an idle partition, its grids and
its key, and with it the data of its sealed ranges alone; IMPORT refuses a used session or a bad tag without a write; ATTEST and MANIFEST
report, the latter once its slices are complete; PROGREG, DEBUG, HSSREAD, FWLOAD and RECOVER as R421. The power controller compares with the
cap, which PWRCAP clamps; I3C reads and writes it. -/
def Obligations.HostAndManagement : Prop :=
  (∀ (s : State) (w : HostReq) (i : Instr) (cls : Nat) (fn : HostFn),
    let served : Prop := FromHost s ∧ w.reg = none ∧ (w.fn = 0 ∨ ((partOf s (w.fn.toNat - 1)).valid = true ∧ w.bar4 = false)) ∧ tdiShut s w = false
    ∀ pa : Nat, ((i = .hostRequest w ∧ fn = w.fn ∧ served ∧ cls = fnClass w.fn.toNat ∧
        pa = if w.bar4 = true then w.pa.toNat % 2^36 + 2^36 * s.host.p2psel.toNat else w.pa.toNat) ∨
      (i = .cxlMemAccess w ∧ fn = 0 ∧ cls = 9 ∧ pa = w.pa.toNat)) →
    let last := pa + (w.len - 1)
    (∀ d q, (knockAt s pa = some (d, q) ∨ (knockAt s pa = none ∧ knockAt s last = some (d, q))) →
      ∃ t, exec i s = .next t ∧ t.mem = s.mem ∧ t.cores = s.cores ∧ t.dies = s.dies ∧
        (w.write = true → w.len = 8 → pa % 8 = 0 → t.host.replies = (true, []) :: s.host.replies ∧
          t.events = s.events ++ [⟨.cp (BitVec.ofNat 2 d), some (.knock ⟨BitVec.ofNat 2 d, BitVec.ofNat 12 q, BitVec.ofNat 32 (bytesNat w.data),
            BitVec.ofNat 32 (bytesNat w.data / 2^32), .host fn w.ide⟩)⟩]) ∧
        (¬ (w.write = true ∧ w.len = 8 ∧ pa % 8 = 0) → t.events = s.events ∧
          t.host.replies = (true, if w.write then [] else List.replicate w.len 0) :: s.host.replies)) ∧
    (knockAt s pa = none → knockAt s last = none → (rangeCheckAll s pa w.len ⟨cls, true⟩ ≠ none ∨ isDram pa = false ∨ isDram last = false) →
      ∃ t, exec i s = .next t ∧ t.cores = s.cores ∧ t.dies = s.dies ∧ (∀ k, k < 2^51 → byteAt t k = byteAt s k) ∧
        t.host.replies = (false, if w.write then [] else List.replicate w.len 255) :: s.host.replies) ∧
    (HostAdmits s pa w.len cls → w.write = false → hasBad s pa w.len = true → ∃ t l, exec i s = .next t ∧ SameMem s t ∧
      t.host.replies = (false, l) :: s.host.replies ∧ l.length = w.len) ∧
    (HostAdmits s pa w.len cls → (w.write = true → w.data.length = w.len → ∃ t, exec i s = .next t ∧ t.host.replies = (true, []) :: s.host.replies ∧
      (∀ k, byteAt t k = if pa ≤ k ∧ k < pa + w.len then nth w.data (k - pa) 0 else byteAt s k) ∧
      t.cores = s.cores ∧ t.dies = s.dies) ∧
    (w.write = false → hasBad s pa w.len = false → ∃ t, exec i s = .next t ∧
      t.host.replies = (true, rdBytes s.mem pa w.len) :: s.host.replies ∧ t.mem = s.mem ∧ t.cores = s.cores ∧ t.dies = s.dies))) ∧
  (∀ (s : State) (w : HostReq) (r : Bar0View), FromHost s → (w.fn = 0 ∨ ((partOf s (w.fn.toNat - 1)).valid = true ∧ w.bar4 = false)) → tdiShut s w = false →
    w.reg = some r → ∃ t, exec (.hostRequest w) s = .next t ∧ t.cores = s.cores ∧ t.dies = s.dies ∧ t.mem = s.mem ∧
      t.host.replies = (match bar0Get s w.fn.toNat r with
        | some v => (true, natBytes 8 v)
        | none => (false, List.replicate 8 255)) :: s.host.replies) ∧
  (∀ (s : State) (w : HostReq) (d : DieId), s.cur = .mgmt d → w.reg = none →
    let pa := w.pa.toNat
    let refused : Prop := rangeCheckAll s pa w.len ⟨8, false⟩ ≠ none ∨ isDram pa = false ∨ isDram (pa + (w.len - 1)) = false
    let clear (e : Nat) : Prop := (dispOf s e).sltbase = 0 ∨ pa + w.len ≤ (dispOf s e).sltbase ∨ (dispOf s e).sltbase + 2^15 ≤ pa
    (refused → ∃ t, exec (.hostRequest w) s = .next t ∧ SameMem s t ∧ t.cores = s.cores ∧
      (dieOf t d.toNat).fwFaults = pa :: (dieOf s d.toNat).fwFaults ∧
      (dieOf t d.toNat).fwGot = (if w.write then [] else [List.replicate w.len 255]) ++ (dieOf s d.toNat).fwGot) ∧
    (¬ refused → w.write = false → hasBad s pa w.len = false → ∃ t, exec (.hostRequest w) s = .next t ∧ SameMem s t ∧ t.cores = s.cores ∧
      (dieOf t d.toNat).fwGot = rdBytes s.mem pa w.len :: (dieOf s d.toNat).fwGot) ∧
    (¬ refused → w.write = true → w.data.length = w.len →
      exec (.hostRequest w) s = .next (fwStore pa w.data s) ∧
      ((∀ e, e < 4 → clear e) → ∃ t, exec (.hostRequest w) s = .next t ∧ t.cores = s.cores ∧ t.dies = s.dies ∧
        ∀ k, byteAt t k = if pa ≤ k ∧ k < pa + w.len then nth w.data (k - pa) 0 else byteAt s k) ∧
      ∀ e n, e < 4 → (dispOf s e).sltbase ≠ 0 → n < 1024 → pa = (dispOf s e).sltbase + 32 * n + 4 → w.len = 4 → (∀ x, x < 4 → x ≠ e → clear x) →
        exec (.hostRequest w) s = .next (bindSeen (bindAt (storeBytes s pa w.data) e n) (storeBytes s pa w.data)))) ∧
  (∀ (s : State) (w : HostReq), FromHost s → ((w.fn ≠ 0 ∧ ((partOf s (w.fn.toNat - 1)).valid = false ∨ w.bar4 = true)) ∨ tdiShut s w = true) →
    ∃ t, exec (.hostRequest w) s = .next t ∧ t.cores = s.cores ∧ t.dies = s.dies ∧
      t.host.replies = (false, if w.write then [] else List.replicate w.len 255) :: s.host.replies) ∧
  (∀ (s : State) (f : HostFn) (ide : Bool) (i : Instr) (e : EqWrite) (m : DoorWrite) (b : Bar0Write),
    ((i = .eqhead e ∧ e.fn = f ∧ e.ide = ide) ∨ (i = .mbdoor m ∧ m.fn = f ∧ m.ide = ide) ∨ (i = .bar0Write b ∧ b.fn = f ∧ b.ide = ide)) →
    (f ≠ 0 → (partOf s (f.toNat - 1)).valid = false → exec i s = .next (hostReply false [] s)) ∧
    ((f = 0 ∨ (partOf s (f.toNat - 1)).valid = true) → fnShut s f.toNat ide = true →
      exec i s = .next (sendEvent f.toNat 0x21 [] (hostReply false [] s)))) ∧
  (∀ (s : State) (w : EqWrite), (w.fn = 0 ∨ (partOf s (w.fn.toNat - 1)).valid = true) → fnShut s w.fn.toNat w.ide = false →
    let q := { evqOf s w.fn.toNat with head := w.head.toNat % 2^(evqOf s w.fn.toNat).log }
    ∃ t, exec (.eqhead w) s = .next t ∧ t.power.mode ≠ 2 ∧ (evqOf t w.fn.toNat).head = q.head ∧ (∀ k, k ≠ w.fn.toNat → evqOf t k = evqOf s k) ∧
      (q.lost = 0 ∨ q.en = false ∨ q.full = true → SameMem s t ∧ evqOf t w.fn.toNat = q) ∧
      (q.lost ≠ 0 → q.en = true → q.full = false → (evqOf t w.fn.toNat).lost = 0 ∧ (evqOf t w.fn.toNat).tail = (q.tail + 1) % 2^q.log)) ∧
  (∀ (s : State) (f : HostFn),
    let q := evqOf s f.toNat
    ((q.en = true ∧ q.unsent = true ∧ q.mod ≠ 0) → ∃ t, exec (.msixModeration f) s = .next t ∧ SameMem s t ∧
      evqOf t f.toNat = { q with unsent := false } ∧ t.host.msix = (f.toNat, q.vec) :: s.host.msix) ∧
    (¬ (q.en = true ∧ q.unsent = true ∧ q.mod ≠ 0) → exec (.msixModeration f) s = .next s)) ∧
  (∀ (s : State) (w : TdispRequest),
    let p := partOf s w.vf.toNat
    let old := tget s.host.tdi w.vf.toNat .unlocked
    let step : Prop := w.to_ = .unlocked ∨ (old = .unlocked ∧ w.to_ = .locked) ∨ (old = .locked ∧ w.to_ = .run)
    ((p.valid = true ∧ p.isSealed = true ∧ step) → ∃ t, exec (.tdispRequest w) s = .next t ∧ SameMem s t ∧
      ∀ k, tget t.host.tdi k .unlocked = if k = w.vf.toNat then w.to_ else tget s.host.tdi k .unlocked) ∧
    (¬ (p.valid = true ∧ p.isSealed = true ∧ step) → exec (.tdispRequest w) s = .next s)) ∧
  (∀ (s : State) (w : DoorWrite), (w.fn = 0 ∨ (partOf s (w.fn.toNat - 1)).valid = true) → fnShut s w.fn.toNat w.ide = false →
    ∃ t, exec (.mbdoor w) s = .next t ∧ SameMem s t ∧ t.power.mode ≠ 2 ∧
    (let f := w.fn
     let m := mboxOf s f.toNat
     if m.busy = true then mboxOf t f.toNat = { m with ovr := true } ∧ t.host.doorbells = s.host.doorbells
     else mboxOf t f.toNat = { m with done := false, ovr := false, busy := true } ∧ t.host.doorbells = s.host.doorbells ++ [f.toNat])) ∧
  (∀ (s : State) (f : HostFn) (v : Word) (ide : Bool), (f = 0 ∨ (partOf s (f.toNat - 1)).valid = true) → fnShut s f.toNat ide = false →
    let write (r : Bar0Reg) (P : State → Prop) : Prop := ∃ t, exec (.bar0Write ⟨f, r, v, ide⟩) s = .next t ∧ t.power.mode ≠ 2 ∧ P t
    (∀ d : DieId, write (.lqbase d) (fun t => (cpOf t d.toNat).lqbase = if f = 0 then v.toNat % 2^52 / 4096 * 4096 else (cpOf s d.toNat).lqbase) ∧
      write (.fqbase d) (fun t => (dieOf t d.toNat).fqbase = if f = 0 then v.toNat % 2^52 else (dieOf s d.toNat).fqbase) ∧
      write (.sltbase d) (fun t => (dispOf t d.toNat).sltbase = if f = 0 then v.toNat % 2^52 else (dispOf s d.toNat).sltbase)) ∧
    write .eqbase (fun t => (evqOf t f.toNat).base = v.toNat % 2^51 / 4096 * 4096) ∧
    write .eqhead (fun t => (evqOf t f.toNat).head = v.toNat % 2^32 % 2^(evqOf s f.toNat).log) ∧
    write .eqctl (fun t => (evqOf t f.toNat).log = (if 6 ≤ v.toNat % 32 ∧ v.toNat % 32 ≤ 16 then v.toNat % 32 else 6) ∧
      (evqOf t f.toNat).en = decide (v.toNat / 32 % 2 = 1) ∧ (evqOf t f.toNat).vec = v.toNat / 2^6 % 2^11 ∧
      (evqOf t f.toNat).mod = v.toNat / 2^17 % 2^16) ∧
    (∀ o, o + 8 ≤ 4096 → write (.mbRequest o) (fun t => ((mboxOf t f.toNat).req.drop o).take 8 = natBytes 8 v.toNat)) ∧
    write .p2psel (fun t => t.host.p2psel = if f = 0 then v.setWidth 2 else s.host.p2psel) ∧
    write .other (fun t => t.mem = s.mem ∧ t.host = s.host ∧ t.dies = s.dies) ∧
    write .mbdoor (fun t => if (mboxOf s f.toNat).busy = true then (mboxOf t f.toNat).ovr = true else t.host.doorbells = s.host.doorbells ++ [f.toNat]) ∧
    write .pwrcap (fun t => t.power.capw = if f = 0 then max 1000 (min 3000 (v.toNat % 4096)) else s.power.capw)) ∧
  (∀ (s : State) (fn : Nat),
    let body := reqBody s fn
    let p := reqPart fn body
    (∀ i n, fn ≠ 0 → (i = .pcreate ∧ n = 1 ∨ i = .pdestroy ∧ n = 2 ∨ i = .debugCmd ∧ n = 7 ∨ i = .fwload ∧ n = 9 ∨ i = .recover ∧ n = 10) →
      Asks s fn n → ∃ t, exec i s = .next t ∧ AnsweredOnly s t fn 2) ∧
    (∀ n, Asks s fn n → (n = 0 ∨ 10 < n) → ∃ t, exec .unknownCommand s = .next t ∧ AnsweredOnly s t fn 1) ∧
    (Asks s fn 1 → fn = 0 →
      ((∀ k, k < 8 → (partOf s k).valid = true) → ∃ t, exec .pcreate s = .next t ∧ AnsweredOnly s t fn 5) ∧
      (∀ k, k < 8 → (partOf s k).valid = false → (∀ j, j < k → (partOf s j).valid = true) →
        let q := bodyPart s body k
        let bad := badRanges s.ranges (bodyRanges body k) || hssMeets s q.hssBase q.hssCount || overGranted s q
        (bad = true → ∃ t, exec .pcreate s = .next t ∧ AnsweredOnly s t fn 3) ∧
        (bad = false → ∃ t, exec .pcreate s = .next t ∧ Answered s t fn 0 ∧ partOf t k = q ∧ t.ranges = s.ranges ++ bodyRanges body k ∧
          t.rot.created = s.rot.created + 1 ∧ tget? t.rot.keys k = some q.serial ∧ (∀ j, j ≠ k → partOf t j = partOf s j) ∧ SameMem s t ∧
          ∀ d, d < 4 → (dieOf t d).trPos = 0 ∧ (dieOf t d).trCount = 0 ∧ (dieOf t d).trBase = Config.bodyNat body (30 + 2 * d) % 2^38 ∧
            (dieOf t d).trSize = if Config.bodyNat body (31 + 2 * d) % 2^38 = 0 then 2^28 else Config.bodyNat body (31 + 2 * d) % 2^38))) ∧
    (Asks s fn 2 → fn = 0 →
      (((partOf s p).valid = false ∨ partBusy s p = true) → ∃ t, exec .pdestroy s = .next t ∧ AnsweredOnly s t fn 3) ∧
      ((partOf s p).valid = true → partBusy s p = false → ∃ t, exec .pdestroy s = .next t ∧ Answered s t fn 0 ∧ (partOf t p).valid = false ∧
        tget? t.rot.keys p = none ∧ (∀ g ∈ t.ranges, g.owners.getLsbD p = false) ∧ (∀ j, j ≠ p → partOf t j = partOf s j) ∧
        (∀ d, ∀ g ∈ (dieOf t d).he.grids, g.part.toNat ≠ p) ∧
        (∀ c, ∀ b ∈ (coreOf t c).icache, ∀ g ∈ sealedOf s p, 64 * b.1 + 64 ≤ g.base * 2^16 ∨ (g.limit + 1) * 2^16 ≤ 64 * b.1) ∧
        ∀ k, (∀ g ∈ sealedOf s p, k < g.base * 2^16 ∨ (g.limit + 1) * 2^16 ≤ k) → byteAt t k = byteAt s k)) ∧
    (Asks s fn 3 → ∀ h, (dieRead s 0 p (Config.bodyNat body 1) 64).1 = .ok h →
      let va := Config.bodyNat body 1
      let q := partOf s p
      let ses := recF h 0x18 4
      let good := q.valid && !badBlob h && blobOk s p va (64 + recF h 0x10 8) && destOk s p (recF h 8 8) (recF h 0x10 8) &&
        !q.sessions.contains (BitVec.ofNat 32 ses)
      (good = false → ∃ t, exec .importBlob s = .next t ∧ AnsweredOnly s t fn 3) ∧
      (∀ c, good = true → (dieRead s 0 p (va + 64) (recF h 0x10 8)).1 = .ok c →
        (Config.gcmOk q.serial ses (h ++ c) = false → ∃ t, exec .importBlob s = .next t ∧ AnsweredOnly s t fn 4) ∧
        (Config.gcmOk q.serial ses (h ++ c) = true → ∃ t, exec .importBlob s = .next t ∧ Answered s t fn 0 ∧
          (partOf t p).sessions = q.sessions ++ [BitVec.ofNat 32 ses] ∧
          t.mem = (dieWrite s 0 p (recF h 8 8) ((upto (recF h 0x10 8)).map fun i => Config.gcmByte q.serial ses (h ++ c) i)).2.mem))) ∧
    (Asks s fn 4 →
      ((partOf s p).valid = false → ∃ t, exec .attest s = .next t ∧ AnsweredOnly s t fn 3) ∧
      ((partOf s p).valid = true → ∃ t, exec .attest s = .next t ∧ AnsweredOnly s t fn 0 ∧
        ((mboxOf t fn).resp.drop 8).take (reportBytes s p 1 (reqNonce body) 0).length = reportBytes s p 1 (reqNonce body) 0)) ∧
    (Asks s fn 5 →
      let ids := bodyList body 3000 (Config.bodyNat body 2 % 1024)
      (((partOf s p).valid = false ∨ 256 < Config.bodyNat body 1) → ∃ t, exec .manifest s = .next t ∧ AnsweredOnly s t fn 3) ∧
      ((partOf s p).valid = true → Config.bodyNat body 1 ≤ 256 → slicesDone s ids = false → ∃ t, exec .manifest s = .next t ∧
        SameMem s t ∧ mboxOf t fn = mboxOf s fn ∧ t.host.doorbells = s.host.doorbells.tail ++ [fn]) ∧
      (∀ l, (partOf s p).valid = true → Config.bodyNat body 1 ≤ 256 → slicesDone s ids = true →
        declared s p ((upto (Config.bodyNat body 1)).map fun i => (Config.bodyNat body (200 + 2 * i), Config.bodyNat body (201 + 2 * i))) = some l →
        ∃ t, exec .manifest s = .next t ∧ AnsweredOnly s t fn 0)) ∧
    (Asks s fn 6 → ∀ l, (dieRead s 0 p (Config.bodyNat body 1) (Config.bodyNat body 2)).1 = .ok l →
      ((partOf s p).valid = false → ∃ t, exec .progreg s = .next t ∧ AnsweredOnly s t fn 3) ∧
      ((partOf s p).valid = true → ∃ t, exec .progreg s = .next t ∧ Answered s t fn 0 ∧ SameMem s t ∧
        (partOf t p).codeRanges = (partOf s p).codeRanges ++ [(BitVec.ofNat 64 (Config.bodyNat body 1), BitVec.ofNat 64 (Config.bodyNat body 2))] ∧
        Config.sm3 l ∈ (partOf t p).progs)) ∧
    (Asks s fn 7 → fn = 0 →
      let c := Config.bodyNat body 1 % 128
      let at_ := Config.bodyNat body 3
      let n := Config.bodyNat body 4 % 4096
      let shut : Prop := ((coreOf s c).team ≠ none ∧ (partOf s (corePart s c)).isSealed = true) ∨ (coreOf s c).stopped = false ∨
        ∃ q, q < 8 ∧ (partOf s q).valid = true ∧ (partOf s q).isSealed = true ∧ (partOf s q).cores.getLsbD c = true
      (Config.bodyNat body 2 % 4 = 0 → ∃ t, exec .debugCmd s = .next t ∧ Answered s t fn 0 ∧ (coreOf t c).stopped = true) ∧
      (Config.bodyNat body 2 % 4 = 1 → ∃ t, exec .debugCmd s = .next t ∧ Answered s t fn 0 ∧ (coreOf t c).stopped = false) ∧
      (2 ≤ Config.bodyNat body 2 % 4 → shut → ∃ t, exec .debugCmd s = .next t ∧ AnsweredOnly s t fn 3) ∧
      (Config.bodyNat body 2 % 4 = 2 → ¬ shut → ∃ t, exec .debugCmd s = .next t ∧ AnsweredOnly s t fn 0 ∧
        let l := ((dumpCore s c).drop (Config.bodyNat body 3)).take 4088
        ((mboxOf t fn).resp.drop 8).take l.length = l) ∧
      (Config.bodyNat body 2 % 4 = 3 → ¬ shut → ∃ t, exec .debugCmd s = .next t ∧ Answered s t fn 0 ∧
        (at_ ≤ 408 → 416 ≤ at_ + n → (ctxOf t c .L).pc =
          BitVec.ofNat 64 (bytesNat ((upto 8).map fun i => BitVec.ofNat 8 (Config.bodyNat body (5000 + (408 - at_ + i)))))) ∧
        (∀ k x, k ≠ c → ctxOf t k x = ctxOf s k x) ∧
        ((∀ r ∈ imageRanges s c, r.2 ≤ scrKey (c + 1) 0) → ∀ k, (k < scrKey c 0 ∨ scrKey (c + 1) 0 ≤ k) → byteAt t k = byteAt s k))) ∧
    (Asks s fn 8 →
      let i := Config.bodyNat body 1 % 2^16
      let d := Config.bodyNat body 2 % 4
      ((partOf s p).valid = true → hssInRange s p i = true → hssPoisoned s d i = false → ∃ t, exec .hssread s = .next t ∧
        AnsweredOnly s t fn 0 ∧ ((mboxOf t fn).resp.drop 8).take 12 =
          natBytes 8 (BitVec.ofInt 64 (hssGet s d i)).toNat ++ natBytes 4 (tget (dieOf s d).hssLast i 0).toNat) ∧
      (((partOf s p).valid = false ∨ hssInRange s p i = false) → ∃ t, exec .hssread s = .next t ∧ AnsweredOnly s t fn 3)) ∧
    (Asks s fn 9 → fn = 0 →
      (Config.fwOk body = true → ∃ t, exec .fwload s = .next t ∧ Answered s t fn 0 ∧ t.rot.fw = body ∧ t.parts = s.parts ∧ SameMem s t) ∧
      (Config.fwOk body = false → ∃ t, exec .fwload s = .next t ∧ AnsweredOnly s t fn 4)) ∧
    (Asks s fn 10 → fn = 0 → ∃ t n, exec .recover s = .next t ∧ Answered s t fn 0 ∧
      t.events = s.events ++ [⟨.alwaysOn, some (.packageRecovery ⟨n⟩)⟩])) ∧
  ∀ (s : State),
    let p := s.power
    (∀ w : PowerSample, ∃ t, exec (.powerCompare w) s = .next t ∧ t.cores = s.cores ∧ t.dies = s.dies ∧
      let q := if p.capw < w.watts then { p with thr := true, j := min 3 (p.j + 1) }
        else if w.watts < p.capw then { p with thr := false, j := 0 } else p
      t.power = { q with mode := match w.mode with
        | some m => if m = 3 then p.mode else m.toNat
        | none => p.mode }) ∧
    (∀ v : Word, ∃ t, exec (.pwrcap ⟨v⟩) s = .next t ∧ t.cores = s.cores ∧
      t.power = { p with capw := max 1000 (min 3000 (v.toNat % 4096)), mode := if p.mode = 2 then 0 else p.mode }) ∧
    (∃ t, exec (.i3cRequest .readCap) s = .next t ∧ t.power = p ∧ SameMem s t ∧
      t.host.i3c = BitVec.ofNat 64 (p.capw + 2^12 * p.thr.toNat) :: s.host.i3c) ∧
    (∀ v : Word, ∃ t, exec (.i3cRequest (.writeCap v)) s = .next t ∧ t.power = { p with capw := max 1000 (min 3000 (v.toNat % 4096)) }) ∧
    (∃ t n, exec (.i3cRequest .recover) s = .next t ∧ t.events = s.events ++ [⟨.alwaysOn, some (.packageRecovery ⟨n⟩)⟩]) ∧
    ∀ r, (r = .readTemps ∨ r = .readPower) → ∃ t v, exec (.i3cRequest r) s = .next t ∧ t.power = p ∧ SameMem s t ∧
      t.host.i3c = v :: s.host.i3c
end

