-- ==== Sys2Proof/Laws/Memory.lean ====
section
/-! SUPPORT. Laws of byte storage: reading after writing, and the canonical form, which every operation keeps. -/

namespace Sys2Proof.Machine

open Host (Cell)

/-! Reading after writing one byte. -/

/-- A key left out reads zero. -/
theorem bget_bdel_same (m : List Cell) (k : Nat) : bget (bdel m k) k = 0 := by
  induction m with
  | nil => rfl
  | cons e r ih =>
    obtain ⟨a, x⟩ := e
    by_cases h : a = k
    · simp_all [bdel]
    · simp_all [bdel, bget]

/-- Leaving a key out keeps the others. -/
theorem bget_bdel_ne (m : List Cell) {k j : Nat} (h : j ≠ k) : bget (bdel m k) j = bget m j := by
  have h' : ¬ k = j := fun e => h e.symm
  induction m with
  | nil => rfl
  | cons e r ih =>
    obtain ⟨a, x⟩ := e
    by_cases ha : a = k
    · subst ha
      simp_all [bdel, bget]
    · by_cases hj : a = j <;> simp_all [bdel, bget]

/-- An inserted byte is read. -/
theorem bget_bins_same (m : List Cell) (k : Nat) (v : Byte) : bget (bins m k v) k = v := by
  induction m with
  | nil => simp [bins, bget]
  | cons e r ih =>
    obtain ⟨a, x⟩ := e
    simp only [bins]
    split
    · simp [bget]
    · split
      · simp [bget]
      · rename_i h
        have : ¬ a = k := fun e => h e.symm
        simp [bget, this, ih]

/-- Inserting keeps the others. -/
theorem bget_bins_ne (m : List Cell) {k j : Nat} (v : Byte) (h : j ≠ k) : bget (bins m k v) j = bget m j := by
  have h' : ¬ k = j := fun e => h e.symm
  induction m with
  | nil => simp [bins, bget, h']
  | cons e r ih =>
    obtain ⟨a, x⟩ := e
    simp only [bins]
    split
    · simp [bget, h']
    · split
      · rename_i e
        subst e
        simp [bget, h']
      · simp only [bget, ih]

/-- A byte written is read. -/
@[simp] theorem bget_bput_same (m : List Cell) (k : Nat) (v : Byte) : bget (bput m k v) k = v := by
  unfold bput
  split
  · rename_i h
    rw [bget_bdel_same, h]
  · exact bget_bins_same m k v

/-- Writing a byte keeps the others. -/
theorem bget_bput_ne (m : List Cell) {k j : Nat} (v : Byte) (h : j ≠ k) : bget (bput m k v) j = bget m j := by
  unfold bput
  split
  · exact bget_bdel_ne m h
  · exact bget_bins_ne m v h

/-- Writing `n` bytes from `k` keeps every byte outside them. -/
theorem bget_wrN_out (n : Nat) : ∀ (m : List Cell) (k v j : Nat), j < k ∨ k + n ≤ j → bget (wrN m k n v) j = bget m j := by
  induction n with
  | zero => intros; rfl
  | succ n ih =>
    intro m k v j h
    rw [wrN, ih _ _ _ _ (by omega), bget_bput_ne _ _ (by omega)]

/-- The bytes written by `wrN`. -/
theorem bget_wrN_in (n : Nat) : ∀ (m : List Cell) (k v i : Nat), i < n → bget (wrN m k n v) (k + i) = BitVec.ofNat 8 (v / 256^i) := by
  induction n with
  | zero => intro _ _ _ _ h; omega
  | succ n ih =>
    intro m k v i h
    rw [wrN]
    cases i with
    | zero => rw [bget_wrN_out _ _ _ _ _ (by omega)]; simp
    | succ i =>
      have := ih (bput m k (BitVec.ofNat 8 v)) (k + 1) (v / 256) i (by omega)
      rw [show k + (i + 1) = k + 1 + i by omega, this, Nat.div_div_eq_div_mul, Nat.pow_succ, Nat.mul_comm]

/-- Writing a list of bytes keeps every byte outside it. -/
theorem bget_wrBytes_out (l : List Byte) : ∀ (m : List Cell) (k j : Nat), j < k ∨ k + l.length ≤ j →
    bget (wrBytes m k l) j = bget m j := by
  induction l with
  | nil => intros; rfl
  | cons b r ih =>
    intro m k j h
    simp only [List.length_cons] at h
    rw [wrBytes, ih _ _ _ (by omega), bget_bput_ne _ _ (by omega)]

/-- A number that agrees with memory byte by byte is what is read. -/
theorem rdN_congr (n : Nat) : ∀ (m m' : List Cell) (k : Nat), (∀ i, i < n → bget m (k + i) = bget m' (k + i)) →
    rdN m k n = rdN m' k n := by
  induction n with
  | zero => intros; rfl
  | succ n ih =>
    intro m m' k h
    rw [rdN, rdN, ih m m' (k + 1) (fun i hi => by have := h (i + 1) (by omega); rwa [show k + 1 + i = k + (i + 1) by omega])]
    have := h 0 (by omega)
    simp only [Nat.add_zero] at this
    rw [this]

/-- What was written is read, modulo its width. -/
theorem rdN_wrN (n : Nat) : ∀ (m : List Cell) (k v : Nat), rdN (wrN m k n v) k n = v % 256^n := by
  induction n with
  | zero => intro m k v; simp [rdN, Nat.mod_one]
  | succ n ih =>
    intro m k v
    rw [rdN, wrN, bget_wrN_out _ _ _ _ _ (by omega), ih]
    simp only [bget_bput_same, BitVec.toNat_ofNat]
    rw [show (2 : Nat)^8 = 256 by rfl, Nat.pow_succ, Nat.mul_comm (256^n) 256, Nat.mod_mul]

/-! The canonical form. -/

/-- A form above a key is one above every lower key. -/
theorem wfAbove_mono {lo lo' : Nat} (h : lo' ≤ lo) (m : List Cell) (hm : wfAbove lo m = true) : wfAbove lo' m = true := by
  cases m with
  | nil => rfl
  | cons e r =>
    obtain ⟨a, x⟩ := e
    simp only [wfAbove, Bool.and_eq_true, decide_eq_true_eq] at hm ⊢
    exact ⟨⟨by omega, hm.1.2⟩, hm.2⟩

/-- A part of the storage keeps the form. -/
theorem wfAbove_filter (p : Cell → Bool) (m : List Cell) : ∀ lo, wfAbove lo m = true → wfAbove lo (m.filter p) = true := by
  induction m with
  | nil => intro _ _; rfl
  | cons e r ih =>
    intro lo h
    obtain ⟨a, x⟩ := e
    simp only [wfAbove, Bool.and_eq_true, decide_eq_true_eq] at h
    by_cases hp : p (a, x)
    · simp only [List.filter_cons, hp, if_true, wfAbove, Bool.and_eq_true, decide_eq_true_eq]
      exact ⟨h.1, ih a h.2⟩
    · simp only [List.filter_cons, hp, if_false, Bool.false_eq_true]
      exact ih lo (wfAbove_mono (by omega) r h.2)

/-- Inserting above a key keeps the form above it. -/
theorem wfAbove_bins (m : List Cell) (k : Nat) (v : Byte) (hv : v ≠ 0) : ∀ lo, lo < k → wfAbove lo m = true →
    wfAbove lo (bins m k v) = true := by
  induction m with
  | nil => intro lo h _; simpa [bins, wfAbove, h] using hv
  | cons e r ih =>
    intro lo h hm
    obtain ⟨a, x⟩ := e
    simp only [wfAbove, Bool.and_eq_true, decide_eq_true_eq] at hm
    simp only [bins]
    split
    · rename_i hk
      simp only [wfAbove, Bool.and_eq_true, decide_eq_true_eq]
      exact ⟨⟨h, hv⟩, ⟨hk, hm.1.2⟩, hm.2⟩
    · split
      · rename_i _ e
        subst e
        simp only [wfAbove, Bool.and_eq_true, decide_eq_true_eq]
        exact ⟨⟨h, hv⟩, hm.2⟩
      · simp only [wfAbove, Bool.and_eq_true, decide_eq_true_eq]
        exact ⟨hm.1, ih a (by omega) hm.2⟩

/-- A part of the storage keeps the canonical form. -/
theorem wf_filter (p : Cell → Bool) (m : List Cell) (h : Memory.wf m = true) : Memory.wf (m.filter p) = true := by
  induction m with
  | nil => rfl
  | cons e r ih =>
    obtain ⟨a, x⟩ := e
    simp only [Memory.wf, Bool.and_eq_true, decide_eq_true_eq] at h
    by_cases hp : p (a, x)
    · simp only [List.filter_cons, hp, if_true, Memory.wf, Bool.and_eq_true, decide_eq_true_eq]
      exact ⟨h.1, wfAbove_filter p r a h.2⟩
    · simp only [List.filter_cons, hp, if_false, Bool.false_eq_true]
      apply ih
      cases r with
      | nil => rfl
      | cons f t =>
        have := h.2
        simp only [wfAbove, Bool.and_eq_true, decide_eq_true_eq] at this
        simp only [Memory.wf, Bool.and_eq_true, decide_eq_true_eq]
        exact ⟨this.1.2, this.2⟩

/-- Writing a byte keeps the canonical form. -/
theorem wf_bput (m : List Cell) (k : Nat) (v : Byte) (h : Memory.wf m = true) : Memory.wf (bput m k v) = true := by
  unfold bput
  split
  · exact wf_filter _ m h
  · rename_i hv
    cases m with
    | nil => simpa [bins, Memory.wf, wfAbove] using hv
    | cons e r =>
      obtain ⟨a, x⟩ := e
      simp only [Memory.wf, Bool.and_eq_true, decide_eq_true_eq] at h
      simp only [bins]
      split
      · rename_i hk
        simp only [Memory.wf, wfAbove, Bool.and_eq_true, decide_eq_true_eq]
        exact ⟨hv, ⟨hk, h.1⟩, h.2⟩
      · split
        · rename_i _ e
          subst e
          simp only [Memory.wf, Bool.and_eq_true, decide_eq_true_eq]
          exact ⟨hv, h.2⟩
        · simp only [Memory.wf, Bool.and_eq_true, decide_eq_true_eq]
          exact ⟨h.1, wfAbove_bins r k v hv a (by omega) h.2⟩

/-- Writing a number keeps the canonical form. -/
theorem wf_wrN (n : Nat) : ∀ (m : List Cell) (k v : Nat), Memory.wf m = true → Memory.wf (wrN m k n v) = true := by
  induction n with
  | zero => intro m k v h; exact h
  | succ n ih => intro m k v h; exact ih _ _ _ (wf_bput m k _ h)

/-- Writing bytes keeps the canonical form. -/
theorem wf_wrBytes (l : List Byte) : ∀ (m : List Cell) (k : Nat), Memory.wf m = true → Memory.wf (wrBytes m k l) = true := by
  induction l with
  | nil => intro m k h; exact h
  | cons b r ih => intro m k h; exact ih _ _ (wf_bput m k b h)

end Sys2Proof.Machine
end

