-- ==== Sys2Proof/Laws/State.lean ====
section
/-! SUPPORT. Every field of the state after every named update: one lemma per field per update, true by definition. -/

namespace Sys2Proof.Machine

/-! modCore changes cores only. -/

@[simp] theorem modCore_agenda (s : State) (c : Nat) (f : CoreSt → CoreSt) : (modCore s c f).agenda = s.agenda := rfl
@[simp] theorem modCore_events (s : State) (c : Nat) (f : CoreSt → CoreSt) : (modCore s c f).events = s.events := rfl
@[simp] theorem modCore_cur (s : State) (c : Nat) (f : CoreSt → CoreSt) : (modCore s c f).cur = s.cur := rfl
@[simp] theorem modCore_now (s : State) (c : Nat) (f : CoreSt → CoreSt) : (modCore s c f).now = s.now := rfl
@[simp] theorem modCore_free (s : State) (c : Nat) (f : CoreSt → CoreSt) : (modCore s c f).free = s.free := rfl
@[simp] theorem modCore_reqId (s : State) (c : Nat) (f : CoreSt → CoreSt) : (modCore s c f).reqId = s.reqId := rfl
@[simp] theorem modCore_mem (s : State) (c : Nat) (f : CoreSt → CoreSt) : (modCore s c f).mem = s.mem := rfl
@[simp] theorem modCore_bad (s : State) (c : Nat) (f : CoreSt → CoreSt) : (modCore s c f).bad = s.bad := rfl
@[simp] theorem modCore_dies (s : State) (c : Nat) (f : CoreSt → CoreSt) : (modCore s c f).dies = s.dies := rfl
@[simp] theorem modCore_parts (s : State) (c : Nat) (f : CoreSt → CoreSt) : (modCore s c f).parts = s.parts := rfl
@[simp] theorem modCore_ranges (s : State) (c : Nat) (f : CoreSt → CoreSt) : (modCore s c f).ranges = s.ranges := rfl
@[simp] theorem modCore_shutters (s : State) (c : Nat) (f : CoreSt → CoreSt) : (modCore s c f).shutters = s.shutters := rfl
@[simp] theorem modCore_pubs (s : State) (c : Nat) (f : CoreSt → CoreSt) : (modCore s c f).pubs = s.pubs := rfl
@[simp] theorem modCore_peer (s : State) (c : Nat) (f : CoreSt → CoreSt) : (modCore s c f).peer = s.peer := rfl
@[simp] theorem modCore_peerValid (s : State) (c : Nat) (f : CoreSt → CoreSt) : (modCore s c f).peerValid = s.peerValid := rfl
@[simp] theorem modCore_csrOld (s : State) (c : Nat) (f : CoreSt → CoreSt) : (modCore s c f).csrOld = s.csrOld := rfl
@[simp] theorem modCore_fab (s : State) (c : Nat) (f : CoreSt → CoreSt) : (modCore s c f).fab = s.fab := rfl
@[simp] theorem modCore_host (s : State) (c : Nat) (f : CoreSt → CoreSt) : (modCore s c f).host = s.host := rfl
@[simp] theorem modCore_rot (s : State) (c : Nat) (f : CoreSt → CoreSt) : (modCore s c f).rot = s.rot := rfl
@[simp] theorem modCore_power (s : State) (c : Nat) (f : CoreSt → CoreSt) : (modCore s c f).power = s.power := rfl
@[simp] theorem modCore_slotsUsed (s : State) (c : Nat) (f : CoreSt → CoreSt) : (modCore s c f).slotsUsed = s.slotsUsed := rfl
@[simp] theorem modCore_farSems (s : State) (c : Nat) (f : CoreSt → CoreSt) : (modCore s c f).farSems = s.farSems := rfl
@[simp] theorem modCore_genOld (s : State) (c : Nat) (f : CoreSt → CoreSt) : (modCore s c f).genOld = s.genOld := rfl
@[simp] theorem modCore_farReads (s : State) (c : Nat) (f : CoreSt → CoreSt) : (modCore s c f).farReads = s.farReads := rfl

/-! putCtx changes cores only. -/

@[simp] theorem putCtx_agenda (s : State) (c : Nat) (x : CtxSel) (v : Ctx) : (putCtx s c x v).agenda = s.agenda := rfl
@[simp] theorem putCtx_events (s : State) (c : Nat) (x : CtxSel) (v : Ctx) : (putCtx s c x v).events = s.events := rfl
@[simp] theorem putCtx_cur (s : State) (c : Nat) (x : CtxSel) (v : Ctx) : (putCtx s c x v).cur = s.cur := rfl
@[simp] theorem putCtx_now (s : State) (c : Nat) (x : CtxSel) (v : Ctx) : (putCtx s c x v).now = s.now := rfl
@[simp] theorem putCtx_free (s : State) (c : Nat) (x : CtxSel) (v : Ctx) : (putCtx s c x v).free = s.free := rfl
@[simp] theorem putCtx_reqId (s : State) (c : Nat) (x : CtxSel) (v : Ctx) : (putCtx s c x v).reqId = s.reqId := rfl
@[simp] theorem putCtx_mem (s : State) (c : Nat) (x : CtxSel) (v : Ctx) : (putCtx s c x v).mem = s.mem := rfl
@[simp] theorem putCtx_bad (s : State) (c : Nat) (x : CtxSel) (v : Ctx) : (putCtx s c x v).bad = s.bad := rfl
@[simp] theorem putCtx_dies (s : State) (c : Nat) (x : CtxSel) (v : Ctx) : (putCtx s c x v).dies = s.dies := rfl
@[simp] theorem putCtx_parts (s : State) (c : Nat) (x : CtxSel) (v : Ctx) : (putCtx s c x v).parts = s.parts := rfl
@[simp] theorem putCtx_ranges (s : State) (c : Nat) (x : CtxSel) (v : Ctx) : (putCtx s c x v).ranges = s.ranges := rfl
@[simp] theorem putCtx_shutters (s : State) (c : Nat) (x : CtxSel) (v : Ctx) : (putCtx s c x v).shutters = s.shutters := rfl
@[simp] theorem putCtx_pubs (s : State) (c : Nat) (x : CtxSel) (v : Ctx) : (putCtx s c x v).pubs = s.pubs := rfl
@[simp] theorem putCtx_peer (s : State) (c : Nat) (x : CtxSel) (v : Ctx) : (putCtx s c x v).peer = s.peer := rfl
@[simp] theorem putCtx_peerValid (s : State) (c : Nat) (x : CtxSel) (v : Ctx) : (putCtx s c x v).peerValid = s.peerValid := rfl
@[simp] theorem putCtx_csrOld (s : State) (c : Nat) (x : CtxSel) (v : Ctx) : (putCtx s c x v).csrOld = s.csrOld := rfl
@[simp] theorem putCtx_fab (s : State) (c : Nat) (x : CtxSel) (v : Ctx) : (putCtx s c x v).fab = s.fab := rfl
@[simp] theorem putCtx_host (s : State) (c : Nat) (x : CtxSel) (v : Ctx) : (putCtx s c x v).host = s.host := rfl
@[simp] theorem putCtx_rot (s : State) (c : Nat) (x : CtxSel) (v : Ctx) : (putCtx s c x v).rot = s.rot := rfl
@[simp] theorem putCtx_power (s : State) (c : Nat) (x : CtxSel) (v : Ctx) : (putCtx s c x v).power = s.power := rfl
@[simp] theorem putCtx_slotsUsed (s : State) (c : Nat) (x : CtxSel) (v : Ctx) : (putCtx s c x v).slotsUsed = s.slotsUsed := rfl
@[simp] theorem putCtx_farSems (s : State) (c : Nat) (x : CtxSel) (v : Ctx) : (putCtx s c x v).farSems = s.farSems := rfl
@[simp] theorem putCtx_genOld (s : State) (c : Nat) (x : CtxSel) (v : Ctx) : (putCtx s c x v).genOld = s.genOld := rfl
@[simp] theorem putCtx_farReads (s : State) (c : Nat) (x : CtxSel) (v : Ctx) : (putCtx s c x v).farReads = s.farReads := rfl

/-! modCtx changes cores only. -/

@[simp] theorem modCtx_agenda (s : State) (c : Nat) (x : CtxSel) (f : Ctx → Ctx) : (modCtx s c x f).agenda = s.agenda := rfl
@[simp] theorem modCtx_events (s : State) (c : Nat) (x : CtxSel) (f : Ctx → Ctx) : (modCtx s c x f).events = s.events := rfl
@[simp] theorem modCtx_cur (s : State) (c : Nat) (x : CtxSel) (f : Ctx → Ctx) : (modCtx s c x f).cur = s.cur := rfl
@[simp] theorem modCtx_now (s : State) (c : Nat) (x : CtxSel) (f : Ctx → Ctx) : (modCtx s c x f).now = s.now := rfl
@[simp] theorem modCtx_free (s : State) (c : Nat) (x : CtxSel) (f : Ctx → Ctx) : (modCtx s c x f).free = s.free := rfl
@[simp] theorem modCtx_reqId (s : State) (c : Nat) (x : CtxSel) (f : Ctx → Ctx) : (modCtx s c x f).reqId = s.reqId := rfl
@[simp] theorem modCtx_mem (s : State) (c : Nat) (x : CtxSel) (f : Ctx → Ctx) : (modCtx s c x f).mem = s.mem := rfl
@[simp] theorem modCtx_bad (s : State) (c : Nat) (x : CtxSel) (f : Ctx → Ctx) : (modCtx s c x f).bad = s.bad := rfl
@[simp] theorem modCtx_dies (s : State) (c : Nat) (x : CtxSel) (f : Ctx → Ctx) : (modCtx s c x f).dies = s.dies := rfl
@[simp] theorem modCtx_parts (s : State) (c : Nat) (x : CtxSel) (f : Ctx → Ctx) : (modCtx s c x f).parts = s.parts := rfl
@[simp] theorem modCtx_ranges (s : State) (c : Nat) (x : CtxSel) (f : Ctx → Ctx) : (modCtx s c x f).ranges = s.ranges := rfl
@[simp] theorem modCtx_shutters (s : State) (c : Nat) (x : CtxSel) (f : Ctx → Ctx) : (modCtx s c x f).shutters = s.shutters := rfl
@[simp] theorem modCtx_pubs (s : State) (c : Nat) (x : CtxSel) (f : Ctx → Ctx) : (modCtx s c x f).pubs = s.pubs := rfl
@[simp] theorem modCtx_peer (s : State) (c : Nat) (x : CtxSel) (f : Ctx → Ctx) : (modCtx s c x f).peer = s.peer := rfl
@[simp] theorem modCtx_peerValid (s : State) (c : Nat) (x : CtxSel) (f : Ctx → Ctx) : (modCtx s c x f).peerValid = s.peerValid := rfl
@[simp] theorem modCtx_csrOld (s : State) (c : Nat) (x : CtxSel) (f : Ctx → Ctx) : (modCtx s c x f).csrOld = s.csrOld := rfl
@[simp] theorem modCtx_fab (s : State) (c : Nat) (x : CtxSel) (f : Ctx → Ctx) : (modCtx s c x f).fab = s.fab := rfl
@[simp] theorem modCtx_host (s : State) (c : Nat) (x : CtxSel) (f : Ctx → Ctx) : (modCtx s c x f).host = s.host := rfl
@[simp] theorem modCtx_rot (s : State) (c : Nat) (x : CtxSel) (f : Ctx → Ctx) : (modCtx s c x f).rot = s.rot := rfl
@[simp] theorem modCtx_power (s : State) (c : Nat) (x : CtxSel) (f : Ctx → Ctx) : (modCtx s c x f).power = s.power := rfl
@[simp] theorem modCtx_slotsUsed (s : State) (c : Nat) (x : CtxSel) (f : Ctx → Ctx) : (modCtx s c x f).slotsUsed = s.slotsUsed := rfl
@[simp] theorem modCtx_farSems (s : State) (c : Nat) (x : CtxSel) (f : Ctx → Ctx) : (modCtx s c x f).farSems = s.farSems := rfl
@[simp] theorem modCtx_genOld (s : State) (c : Nat) (x : CtxSel) (f : Ctx → Ctx) : (modCtx s c x f).genOld = s.genOld := rfl
@[simp] theorem modCtx_farReads (s : State) (c : Nat) (x : CtxSel) (f : Ctx → Ctx) : (modCtx s c x f).farReads = s.farReads := rfl

/-! modCur changes cores only. -/

@[simp] theorem modCur_agenda (s : State) (f : Ctx → Ctx) : (modCur s f).agenda = s.agenda := rfl
@[simp] theorem modCur_events (s : State) (f : Ctx → Ctx) : (modCur s f).events = s.events := rfl
@[simp] theorem modCur_cur (s : State) (f : Ctx → Ctx) : (modCur s f).cur = s.cur := rfl
@[simp] theorem modCur_now (s : State) (f : Ctx → Ctx) : (modCur s f).now = s.now := rfl
@[simp] theorem modCur_free (s : State) (f : Ctx → Ctx) : (modCur s f).free = s.free := rfl
@[simp] theorem modCur_reqId (s : State) (f : Ctx → Ctx) : (modCur s f).reqId = s.reqId := rfl
@[simp] theorem modCur_mem (s : State) (f : Ctx → Ctx) : (modCur s f).mem = s.mem := rfl
@[simp] theorem modCur_bad (s : State) (f : Ctx → Ctx) : (modCur s f).bad = s.bad := rfl
@[simp] theorem modCur_dies (s : State) (f : Ctx → Ctx) : (modCur s f).dies = s.dies := rfl
@[simp] theorem modCur_parts (s : State) (f : Ctx → Ctx) : (modCur s f).parts = s.parts := rfl
@[simp] theorem modCur_ranges (s : State) (f : Ctx → Ctx) : (modCur s f).ranges = s.ranges := rfl
@[simp] theorem modCur_shutters (s : State) (f : Ctx → Ctx) : (modCur s f).shutters = s.shutters := rfl
@[simp] theorem modCur_pubs (s : State) (f : Ctx → Ctx) : (modCur s f).pubs = s.pubs := rfl
@[simp] theorem modCur_peer (s : State) (f : Ctx → Ctx) : (modCur s f).peer = s.peer := rfl
@[simp] theorem modCur_peerValid (s : State) (f : Ctx → Ctx) : (modCur s f).peerValid = s.peerValid := rfl
@[simp] theorem modCur_csrOld (s : State) (f : Ctx → Ctx) : (modCur s f).csrOld = s.csrOld := rfl
@[simp] theorem modCur_fab (s : State) (f : Ctx → Ctx) : (modCur s f).fab = s.fab := rfl
@[simp] theorem modCur_host (s : State) (f : Ctx → Ctx) : (modCur s f).host = s.host := rfl
@[simp] theorem modCur_rot (s : State) (f : Ctx → Ctx) : (modCur s f).rot = s.rot := rfl
@[simp] theorem modCur_power (s : State) (f : Ctx → Ctx) : (modCur s f).power = s.power := rfl
@[simp] theorem modCur_slotsUsed (s : State) (f : Ctx → Ctx) : (modCur s f).slotsUsed = s.slotsUsed := rfl
@[simp] theorem modCur_farSems (s : State) (f : Ctx → Ctx) : (modCur s f).farSems = s.farSems := rfl
@[simp] theorem modCur_genOld (s : State) (f : Ctx → Ctx) : (modCur s f).genOld = s.genOld := rfl
@[simp] theorem modCur_farReads (s : State) (f : Ctx → Ctx) : (modCur s f).farReads = s.farReads := rfl

/-! modDie changes dies only. -/

@[simp] theorem modDie_agenda (s : State) (d : Nat) (f : Die → Die) : (modDie s d f).agenda = s.agenda := rfl
@[simp] theorem modDie_events (s : State) (d : Nat) (f : Die → Die) : (modDie s d f).events = s.events := rfl
@[simp] theorem modDie_cur (s : State) (d : Nat) (f : Die → Die) : (modDie s d f).cur = s.cur := rfl
@[simp] theorem modDie_now (s : State) (d : Nat) (f : Die → Die) : (modDie s d f).now = s.now := rfl
@[simp] theorem modDie_free (s : State) (d : Nat) (f : Die → Die) : (modDie s d f).free = s.free := rfl
@[simp] theorem modDie_reqId (s : State) (d : Nat) (f : Die → Die) : (modDie s d f).reqId = s.reqId := rfl
@[simp] theorem modDie_mem (s : State) (d : Nat) (f : Die → Die) : (modDie s d f).mem = s.mem := rfl
@[simp] theorem modDie_bad (s : State) (d : Nat) (f : Die → Die) : (modDie s d f).bad = s.bad := rfl
@[simp] theorem modDie_cores (s : State) (d : Nat) (f : Die → Die) : (modDie s d f).cores = s.cores := rfl
@[simp] theorem modDie_parts (s : State) (d : Nat) (f : Die → Die) : (modDie s d f).parts = s.parts := rfl
@[simp] theorem modDie_ranges (s : State) (d : Nat) (f : Die → Die) : (modDie s d f).ranges = s.ranges := rfl
@[simp] theorem modDie_shutters (s : State) (d : Nat) (f : Die → Die) : (modDie s d f).shutters = s.shutters := rfl
@[simp] theorem modDie_pubs (s : State) (d : Nat) (f : Die → Die) : (modDie s d f).pubs = s.pubs := rfl
@[simp] theorem modDie_peer (s : State) (d : Nat) (f : Die → Die) : (modDie s d f).peer = s.peer := rfl
@[simp] theorem modDie_peerValid (s : State) (d : Nat) (f : Die → Die) : (modDie s d f).peerValid = s.peerValid := rfl
@[simp] theorem modDie_csrOld (s : State) (d : Nat) (f : Die → Die) : (modDie s d f).csrOld = s.csrOld := rfl
@[simp] theorem modDie_fab (s : State) (d : Nat) (f : Die → Die) : (modDie s d f).fab = s.fab := rfl
@[simp] theorem modDie_host (s : State) (d : Nat) (f : Die → Die) : (modDie s d f).host = s.host := rfl
@[simp] theorem modDie_rot (s : State) (d : Nat) (f : Die → Die) : (modDie s d f).rot = s.rot := rfl
@[simp] theorem modDie_power (s : State) (d : Nat) (f : Die → Die) : (modDie s d f).power = s.power := rfl
@[simp] theorem modDie_slotsUsed (s : State) (d : Nat) (f : Die → Die) : (modDie s d f).slotsUsed = s.slotsUsed := rfl
@[simp] theorem modDie_farSems (s : State) (d : Nat) (f : Die → Die) : (modDie s d f).farSems = s.farSems := rfl
@[simp] theorem modDie_genOld (s : State) (d : Nat) (f : Die → Die) : (modDie s d f).genOld = s.genOld := rfl
@[simp] theorem modDie_farReads (s : State) (d : Nat) (f : Die → Die) : (modDie s d f).farReads = s.farReads := rfl

/-! modPart changes parts only. -/

@[simp] theorem modPart_agenda (s : State) (p : Nat) (f : Part → Part) : (modPart s p f).agenda = s.agenda := rfl
@[simp] theorem modPart_events (s : State) (p : Nat) (f : Part → Part) : (modPart s p f).events = s.events := rfl
@[simp] theorem modPart_cur (s : State) (p : Nat) (f : Part → Part) : (modPart s p f).cur = s.cur := rfl
@[simp] theorem modPart_now (s : State) (p : Nat) (f : Part → Part) : (modPart s p f).now = s.now := rfl
@[simp] theorem modPart_free (s : State) (p : Nat) (f : Part → Part) : (modPart s p f).free = s.free := rfl
@[simp] theorem modPart_reqId (s : State) (p : Nat) (f : Part → Part) : (modPart s p f).reqId = s.reqId := rfl
@[simp] theorem modPart_mem (s : State) (p : Nat) (f : Part → Part) : (modPart s p f).mem = s.mem := rfl
@[simp] theorem modPart_bad (s : State) (p : Nat) (f : Part → Part) : (modPart s p f).bad = s.bad := rfl
@[simp] theorem modPart_cores (s : State) (p : Nat) (f : Part → Part) : (modPart s p f).cores = s.cores := rfl
@[simp] theorem modPart_dies (s : State) (p : Nat) (f : Part → Part) : (modPart s p f).dies = s.dies := rfl
@[simp] theorem modPart_ranges (s : State) (p : Nat) (f : Part → Part) : (modPart s p f).ranges = s.ranges := rfl
@[simp] theorem modPart_shutters (s : State) (p : Nat) (f : Part → Part) : (modPart s p f).shutters = s.shutters := rfl
@[simp] theorem modPart_pubs (s : State) (p : Nat) (f : Part → Part) : (modPart s p f).pubs = s.pubs := rfl
@[simp] theorem modPart_peer (s : State) (p : Nat) (f : Part → Part) : (modPart s p f).peer = s.peer := rfl
@[simp] theorem modPart_peerValid (s : State) (p : Nat) (f : Part → Part) : (modPart s p f).peerValid = s.peerValid := rfl
@[simp] theorem modPart_csrOld (s : State) (p : Nat) (f : Part → Part) : (modPart s p f).csrOld = s.csrOld := rfl
@[simp] theorem modPart_fab (s : State) (p : Nat) (f : Part → Part) : (modPart s p f).fab = s.fab := rfl
@[simp] theorem modPart_host (s : State) (p : Nat) (f : Part → Part) : (modPart s p f).host = s.host := rfl
@[simp] theorem modPart_rot (s : State) (p : Nat) (f : Part → Part) : (modPart s p f).rot = s.rot := rfl
@[simp] theorem modPart_power (s : State) (p : Nat) (f : Part → Part) : (modPart s p f).power = s.power := rfl
@[simp] theorem modPart_slotsUsed (s : State) (p : Nat) (f : Part → Part) : (modPart s p f).slotsUsed = s.slotsUsed := rfl
@[simp] theorem modPart_farSems (s : State) (p : Nat) (f : Part → Part) : (modPart s p f).farSems = s.farSems := rfl
@[simp] theorem modPart_genOld (s : State) (p : Nat) (f : Part → Part) : (modPart s p f).genOld = s.genOld := rfl
@[simp] theorem modPart_farReads (s : State) (p : Nat) (f : Part → Part) : (modPart s p f).farReads = s.farReads := rfl

/-! modEvq changes host only. -/

@[simp] theorem modEvq_agenda (s : State) (n : Nat) (f : EvQueue → EvQueue) : (modEvq s n f).agenda = s.agenda := rfl
@[simp] theorem modEvq_events (s : State) (n : Nat) (f : EvQueue → EvQueue) : (modEvq s n f).events = s.events := rfl
@[simp] theorem modEvq_cur (s : State) (n : Nat) (f : EvQueue → EvQueue) : (modEvq s n f).cur = s.cur := rfl
@[simp] theorem modEvq_now (s : State) (n : Nat) (f : EvQueue → EvQueue) : (modEvq s n f).now = s.now := rfl
@[simp] theorem modEvq_free (s : State) (n : Nat) (f : EvQueue → EvQueue) : (modEvq s n f).free = s.free := rfl
@[simp] theorem modEvq_reqId (s : State) (n : Nat) (f : EvQueue → EvQueue) : (modEvq s n f).reqId = s.reqId := rfl
@[simp] theorem modEvq_mem (s : State) (n : Nat) (f : EvQueue → EvQueue) : (modEvq s n f).mem = s.mem := rfl
@[simp] theorem modEvq_bad (s : State) (n : Nat) (f : EvQueue → EvQueue) : (modEvq s n f).bad = s.bad := rfl
@[simp] theorem modEvq_cores (s : State) (n : Nat) (f : EvQueue → EvQueue) : (modEvq s n f).cores = s.cores := rfl
@[simp] theorem modEvq_dies (s : State) (n : Nat) (f : EvQueue → EvQueue) : (modEvq s n f).dies = s.dies := rfl
@[simp] theorem modEvq_parts (s : State) (n : Nat) (f : EvQueue → EvQueue) : (modEvq s n f).parts = s.parts := rfl
@[simp] theorem modEvq_ranges (s : State) (n : Nat) (f : EvQueue → EvQueue) : (modEvq s n f).ranges = s.ranges := rfl
@[simp] theorem modEvq_shutters (s : State) (n : Nat) (f : EvQueue → EvQueue) : (modEvq s n f).shutters = s.shutters := rfl
@[simp] theorem modEvq_pubs (s : State) (n : Nat) (f : EvQueue → EvQueue) : (modEvq s n f).pubs = s.pubs := rfl
@[simp] theorem modEvq_peer (s : State) (n : Nat) (f : EvQueue → EvQueue) : (modEvq s n f).peer = s.peer := rfl
@[simp] theorem modEvq_peerValid (s : State) (n : Nat) (f : EvQueue → EvQueue) : (modEvq s n f).peerValid = s.peerValid := rfl
@[simp] theorem modEvq_csrOld (s : State) (n : Nat) (f : EvQueue → EvQueue) : (modEvq s n f).csrOld = s.csrOld := rfl
@[simp] theorem modEvq_fab (s : State) (n : Nat) (f : EvQueue → EvQueue) : (modEvq s n f).fab = s.fab := rfl
@[simp] theorem modEvq_rot (s : State) (n : Nat) (f : EvQueue → EvQueue) : (modEvq s n f).rot = s.rot := rfl
@[simp] theorem modEvq_power (s : State) (n : Nat) (f : EvQueue → EvQueue) : (modEvq s n f).power = s.power := rfl
@[simp] theorem modEvq_slotsUsed (s : State) (n : Nat) (f : EvQueue → EvQueue) : (modEvq s n f).slotsUsed = s.slotsUsed := rfl
@[simp] theorem modEvq_farSems (s : State) (n : Nat) (f : EvQueue → EvQueue) : (modEvq s n f).farSems = s.farSems := rfl
@[simp] theorem modEvq_genOld (s : State) (n : Nat) (f : EvQueue → EvQueue) : (modEvq s n f).genOld = s.genOld := rfl
@[simp] theorem modEvq_farReads (s : State) (n : Nat) (f : EvQueue → EvQueue) : (modEvq s n f).farReads = s.farReads := rfl

/-! A context of a core replaced: the rest of the core. -/

@[simp] theorem setCtx_me (k : CoreSt) (x : CtxSel) (v : Ctx) : (k.setCtx x v).me = k.me := by cases x <;> rfl
@[simp] theorem setCtx_ve (k : CoreSt) (x : CtxSel) (v : Ctx) : (k.setCtx x v).ve = k.ve := by cases x <;> rfl
@[simp] theorem setCtx_ce (k : CoreSt) (x : CtxSel) (v : Ctx) : (k.setCtx x v).ce = k.ce := by cases x <;> rfl
@[simp] theorem setCtx_team (k : CoreSt) (x : CtxSel) (v : Ctx) : (k.setCtx x v).team = k.team := by cases x <;> rfl
@[simp] theorem setCtx_yieldAt (k : CoreSt) (x : CtxSel) (v : Ctx) : (k.setCtx x v).yieldAt = k.yieldAt := by cases x <;> rfl
@[simp] theorem setCtx_scyBase (k : CoreSt) (x : CtxSel) (v : Ctx) : (k.setCtx x v).scyBase = k.scyBase := by cases x <;> rfl
@[simp] theorem setCtx_scyFrom (k : CoreSt) (x : CtxSel) (v : Ctx) : (k.setCtx x v).scyFrom = k.scyFrom := by cases x <;> rfl
@[simp] theorem setCtx_dbg (k : CoreSt) (x : CtxSel) (v : Ctx) : (k.setCtx x v).dbg = k.dbg := by cases x <;> rfl
@[simp] theorem setCtx_stopped (k : CoreSt) (x : CtxSel) (v : Ctx) : (k.setCtx x v).stopped = k.stopped := by cases x <;> rfl
@[simp] theorem setCtx_stopat (k : CoreSt) (x : CtxSel) (v : Ctx) : (k.setCtx x v).stopat = k.stopat := by cases x <;> rfl
@[simp] theorem setCtx_ecl (k : CoreSt) (x : CtxSel) (v : Ctx) : (k.setCtx x v).ecl = k.ecl := by cases x <;> rfl
@[simp] theorem setCtx_crst (k : CoreSt) (x : CtxSel) (v : Ctx) : (k.setCtx x v).crst = k.crst := by cases x <;> rfl
@[simp] theorem setCtx_logw (k : CoreSt) (x : CtxSel) (v : Ctx) : (k.setCtx x v).logw = k.logw := by cases x <;> rfl
@[simp] theorem setCtx_resetAt (k : CoreSt) (x : CtxSel) (v : Ctx) : (k.setCtx x v).resetAt = k.resetAt := by cases x <;> rfl
@[simp] theorem setCtx_icache (k : CoreSt) (x : CtxSel) (v : Ctx) : (k.setCtx x v).icache = k.icache := by cases x <;> rfl
@[simp] theorem setCtx_utlb (k : CoreSt) (x : CtxSel) (v : Ctx) : (k.setCtx x v).utlb = k.utlb := by cases x <;> rfl
@[simp] theorem setCtx_l1 (k : CoreSt) (x : CtxSel) (v : Ctx) : (k.setCtx x v).l1 = k.l1 := by cases x <;> rfl
@[simp] theorem setCtx_spoiled (k : CoreSt) (x : CtxSel) (v : Ctx) : (k.setCtx x v).spoiled = k.spoiled := by cases x <;> rfl
@[simp] theorem setCtx_meMarked (k : CoreSt) (x : CtxSel) (v : Ctx) : (k.setCtx x v).meMarked = k.meMarked := by cases x <;> rfl
@[simp] theorem setCtx_veMarked (k : CoreSt) (x : CtxSel) (v : Ctx) : (k.setCtx x v).veMarked = k.veMarked := by cases x <;> rfl
@[simp] theorem setCtx_ghostStale (k : CoreSt) (x : CtxSel) (v : Ctx) : (k.setCtx x v).ghostStale = k.ghostStale := by cases x <;> rfl
@[simp] theorem setCtx_slotOld (k : CoreSt) (x : CtxSel) (v : Ctx) : (k.setCtx x v).slotOld = k.slotOld := by cases x <;> rfl

/-- The context replaced. -/
@[simp] theorem setCtx_ctx (k : CoreSt) (x : CtxSel) (v : Ctx) : (k.setCtx x v).ctx x = v := by cases x <;> rfl

/-- The other contexts. -/
theorem setCtx_ctx_ne (k : CoreSt) {x y : CtxSel} (v : Ctx) (h : y ≠ x) : (k.setCtx x v).ctx y = k.ctx y := by
  cases x <;> cases y <;> first | rfl | exact absurd rfl h

end Sys2Proof.Machine
end

