-- ==== Sys2Proof/Laws/Tables.lean ====
section
/-! SUPPORT. Laws of the sparse tables. -/

namespace Sys2Proof.Machine

variable {α : Type}

/-- What was put is read. -/
@[simp] theorem tget_tput_same (t : Tab α) (k : Nat) (v d : α) : tget (tput t k v) k d = v := by
  induction t with
  | nil => simp [tput, tget]
  | cons e r ih =>
    obtain ⟨a, x⟩ := e
    simp only [tput]
    split
    · simp [tget]
    · split
      · simp [tget]
      · rename_i h
        have : ¬ a = k := fun e => h e.symm
        simp [tget, this, ih]

/-- Every other entry stays. -/
theorem tget_tput_ne (t : Tab α) {k j : Nat} (v d : α) (h : j ≠ k) : tget (tput t k v) j d = tget t j d := by
  have h' : ¬ k = j := fun e => h e.symm
  induction t with
  | nil => simp [tput, tget, h']
  | cons e r ih =>
    obtain ⟨a, x⟩ := e
    simp only [tput]
    split
    · simp [tget, h']
    · split
      · rename_i e
        subst e
        simp [tget, h']
      · simp only [tget, ih]

/-- What was put is found. -/
@[simp] theorem tget?_tput_same (t : Tab α) (k : Nat) (v : α) : tget? (tput t k v) k = some v := by
  induction t with
  | nil => simp [tput, tget?]
  | cons e r ih =>
    obtain ⟨a, x⟩ := e
    simp only [tput]
    split
    · simp [tget?]
    · split
      · simp [tget?]
      · rename_i h
        have : ¬ a = k := fun e => h e.symm
        simp [tget?, this, ih]

/-- Every other entry is found as before. -/
theorem tget?_tput_ne (t : Tab α) {k j : Nat} (v : α) (h : j ≠ k) : tget? (tput t k v) j = tget? t j := by
  have h' : ¬ k = j := fun e => h e.symm
  induction t with
  | nil => simp [tput, tget?, h']
  | cons e r ih =>
    obtain ⟨a, x⟩ := e
    simp only [tput]
    split
    · simp [tget?, h']
    · split
      · rename_i e
        subst e
        simp [tget?, h']
      · simp only [tget?, ih]

end Sys2Proof.Machine
end

