-- ==== Sys2Proof/Laws/Ops.lean ====
section
/-! SUPPORT. Laws of the named operations: reaching a part of the state after a change, scalar registers and results in flight,
retiring, branching, trapping. -/

namespace Sys2Proof.Machine

open Host (Outcome)

/-! Cores, dies, partitions. -/

@[simp] theorem coreOf_modCore_same (s : State) (c : Nat) (f : CoreSt → CoreSt) : coreOf (modCore s c f) c = f (coreOf s c) := by
  simp [coreOf, modCore]

theorem coreOf_modCore_ne (s : State) {c k : Nat} (f : CoreSt → CoreSt) (h : k ≠ c) : coreOf (modCore s c f) k = coreOf s k :=
  tget_tput_ne _ _ _ h

@[simp] theorem dieOf_modDie_same (s : State) (d : Nat) (f : Die → Die) : dieOf (modDie s d f) d = f (dieOf s d) := by
  simp [dieOf, modDie]

theorem dieOf_modDie_ne (s : State) {d k : Nat} (f : Die → Die) (h : k ≠ d) : dieOf (modDie s d f) k = dieOf s k :=
  tget_tput_ne _ _ _ h

@[simp] theorem partOf_modPart_same (s : State) (p : Nat) (f : Part → Part) : partOf (modPart s p f) p = f (partOf s p) := by
  simp [partOf, modPart]

theorem partOf_modPart_ne (s : State) {p k : Nat} (f : Part → Part) (h : k ≠ p) : partOf (modPart s p f) k = partOf s k :=
  tget_tput_ne _ _ _ h

@[simp] theorem dieOf_modCore (s : State) (c d : Nat) (f : CoreSt → CoreSt) : dieOf (modCore s c f) d = dieOf s d := rfl
@[simp] theorem partOf_modCore (s : State) (c p : Nat) (f : CoreSt → CoreSt) : partOf (modCore s c f) p = partOf s p := rfl
@[simp] theorem coreOf_modDie (s : State) (d c : Nat) (f : Die → Die) : coreOf (modDie s d f) c = coreOf s c := rfl
@[simp] theorem partOf_modDie (s : State) (d p : Nat) (f : Die → Die) : partOf (modDie s d f) p = partOf s p := rfl
@[simp] theorem coreOf_modPart (s : State) (p c : Nat) (f : Part → Part) : coreOf (modPart s p f) c = coreOf s c := rfl
@[simp] theorem dieOf_modPart (s : State) (p d : Nat) (f : Part → Part) : dieOf (modPart s p f) d = dieOf s d := rfl

/-! Contexts. -/

@[simp] theorem ctxOf_putCtx_same (s : State) (c : Nat) (x : CtxSel) (v : Ctx) : ctxOf (putCtx s c x v) c x = v := by
  simp [ctxOf, putCtx]

theorem ctxOf_putCtx_ne (s : State) {c k : Nat} {x y : CtxSel} (v : Ctx) (h : k ≠ c ∨ y ≠ x) :
    ctxOf (putCtx s c x v) k y = ctxOf s k y := by
  unfold ctxOf putCtx
  by_cases hk : k = c
  · subst hk
    rw [coreOf_modCore_same, setCtx_ctx_ne _ _ (h.resolve_left fun e => e rfl)]
  · rw [coreOf_modCore_ne _ _ hk]

@[simp] theorem curCore_modCore (s : State) (c : Nat) (f : CoreSt → CoreSt) : curCore (modCore s c f) = curCore s := rfl
@[simp] theorem curSel_modCore (s : State) (c : Nat) (f : CoreSt → CoreSt) : curSel (modCore s c f) = curSel s := rfl
@[simp] theorem curCore_modCur (s : State) (f : Ctx → Ctx) : curCore (modCur s f) = curCore s := rfl
@[simp] theorem curSel_modCur (s : State) (f : Ctx → Ctx) : curSel (modCur s f) = curSel s := rfl
@[simp] theorem curCore_modDie (s : State) (d : Nat) (f : Die → Die) : curCore (modDie s d f) = curCore s := rfl
@[simp] theorem curSel_modDie (s : State) (d : Nat) (f : Die → Die) : curSel (modDie s d f) = curSel s := rfl
@[simp] theorem curCtx_modDie (s : State) (d : Nat) (f : Die → Die) : curCtx (modDie s d f) = curCtx s := rfl

/-- The issuing context after a change of it. -/
@[simp] theorem curCtx_modCur (s : State) (f : Ctx → Ctx) : curCtx (modCur s f) = f (curCtx s) := by
  show ctxOf (putCtx s (curCore s) (curSel s) (f (ctxOf s (curCore s) (curSel s)))) (curCore s) (curSel s) = _
  rw [ctxOf_putCtx_same]
  rfl

/-- Every other context after it. -/
theorem ctxOf_modCur_ne (s : State) {c : Nat} {x : CtxSel} (f : Ctx → Ctx) (h : c ≠ curCore s ∨ x ≠ curSel s) :
    ctxOf (modCur s f) c x = ctxOf s c x := ctxOf_putCtx_ne s _ h

/-- A change of a context leaves the rest of every core. -/
theorem coreOf_modCur_me (s : State) (f : Ctx → Ctx) (c : Nat) : (coreOf (modCur s f) c).me = (coreOf s c).me := by
  by_cases h : c = curCore s
  · subst h; simp [modCur, modCtx, putCtx]
  · simp [modCur, modCtx, putCtx, coreOf_modCore_ne _ _ h]

theorem coreOf_modCur_ve (s : State) (f : Ctx → Ctx) (c : Nat) : (coreOf (modCur s f) c).ve = (coreOf s c).ve := by
  by_cases h : c = curCore s
  · subst h; simp [modCur, modCtx, putCtx]
  · simp [modCur, modCtx, putCtx, coreOf_modCore_ne _ _ h]

theorem coreOf_modCur_ce (s : State) (f : Ctx → Ctx) (c : Nat) : (coreOf (modCur s f) c).ce = (coreOf s c).ce := by
  by_cases h : c = curCore s
  · subst h; simp [modCur, modCtx, putCtx]
  · simp [modCur, modCtx, putCtx, coreOf_modCore_ne _ _ h]

theorem coreOf_modCur_team (s : State) (f : Ctx → Ctx) (c : Nat) : (coreOf (modCur s f) c).team = (coreOf s c).team := by
  by_cases h : c = curCore s
  · subst h; simp [modCur, modCtx, putCtx]
  · simp [modCur, modCtx, putCtx, coreOf_modCore_ne _ _ h]

/-! Registers (spec/05_registers.md R110, R112). -/

/-- A later result for a register is the one that remains. -/
theorem overlay_append (l : List Pend) (p : Pend) (k : Nat) (v : Word) :
    overlay (l ++ [p]) k v = if p.dst = k then p.val else overlay l k v := by
  induction l generalizing v with
  | nil => simp [overlay]
  | cons q r ih => simp [overlay, ih]

/-- Results for other registers do not matter. -/
theorem overlay_other (l : List Pend) (k : Nat) (v : Word) (h : l.all (fun p => p.dst != k) = true) : overlay l k v = v := by
  induction l generalizing v with
  | nil => rfl
  | cons q r ih =>
    simp only [List.all_cons, Bool.and_eq_true, bne_iff_ne, ne_eq] at h
    simp only [overlay, h.1, if_false]
    exact ih v h.2

/-- g0 reads zero. -/
@[simp] theorem gFinal_zero (x : Ctx) : gFinal x 0 = 0 := rfl

/-- A delivered result is what its register will hold. -/
theorem gFinal_putReg_same (dst : Nat) (v : Word) (lat : Nat) (lock q : Bool) (now : Nat) (x : Ctx) (h : dst ≠ 0) :
    gFinal (putReg dst v lat lock q now x) dst = v := by
  simp only [putReg, h, gFinal, if_false]
  split
  · rename_i hp
    simp only [Bool.and_eq_true] at hp
    change overlay x.pend (physReg x dst) (tget (tput x.g (physReg x dst) v) (physReg x dst) 0) = v
    rw [overlay_other _ _ _ hp.2, tget_tput_same]
  · simp only [decide_false, Bool.false_and, Bool.false_eq_true, if_false]
    rw [overlay_append]
    exact if_pos rfl

/-- Names reach different registers. -/
theorem physReg_ne (x : Ctx) {r d : Nat} (hr : r < 32) (hd : d < 32) (h : r ≠ d) : physReg x r ≠ physReg x d := by
  unfold physReg
  split <;> split <;> omega

/-- Every other register holds what it held. -/
theorem gFinal_putReg_ne (dst : Nat) (v : Word) (lat : Nat) (lock q : Bool) (now : Nat) (x : Ctx) {r : Nat} (hr : r < 32)
    (hd : dst < 32) (h : r ≠ dst) : gFinal (putReg dst v lat lock q now x) r = gFinal x r := by
  by_cases h0 : r = 0
  · subst h0; rfl
  · have hp := physReg_ne x hr hd h
    have hp' : ¬ physReg x dst = physReg x r := fun e => hp e.symm
    simp only [gFinal, h0, if_false, putReg]
    split
    · split
      · rfl
      · change overlay x.pend (physReg x r) (tget (tput x.g (physReg x dst) v) (physReg x r) 0) = _
        rw [tget_tput_ne _ _ _ hp]
    · split
      · rfl
      · rw [overlay_append]
        exact if_neg hp'

/-! Retiring, branching, trapping. -/

/-- A trace record touches the staging of one die. -/
@[simp] theorem mem_traceCtx (k c o a b l : Nat) (s : State) : (traceCtx k c o a b l s).mem = s.mem := rfl
@[simp] theorem cores_traceCtx (k c o a b l : Nat) (s : State) : (traceCtx k c o a b l s).cores = s.cores := rfl
@[simp] theorem cur_traceCtx (k c o a b l : Nat) (s : State) : (traceCtx k c o a b l s).cur = s.cur := rfl
@[simp] theorem now_traceCtx (k c o a b l : Nat) (s : State) : (traceCtx k c o a b l s).now = s.now := rfl
@[simp] theorem parts_traceCtx (k c o a b l : Nat) (s : State) : (traceCtx k c o a b l s).parts = s.parts := rfl
@[simp] theorem curCtx_traceCtx (k c o a b l : Nat) (s : State) : curCtx (traceCtx k c o a b l s) = curCtx s := rfl
@[simp] theorem coreOf_traceCtx (k c o a b l n : Nat) (s : State) : coreOf (traceCtx k c o a b l s) n = coreOf s n := rfl

/-- The end of a wait changes the context's wait alone, in the issuing context. -/
@[simp] theorem curCtx_endWait (s : State) : curCtx (endWait s) = { curCtx s with waiting := none } := by
  unfold endWait
  split
  · rename_i h
    rw [← h]
  · simp only
    split <;> simp

@[simp] theorem mem_endWait (s : State) : (endWait s).mem = s.mem := by
  unfold endWait
  split
  · rfl
  · simp only
    split <;> rfl

@[simp] theorem cur_endWait (s : State) : (endWait s).cur = s.cur := by
  unfold endWait
  split
  · rfl
  · simp only
    split <;> rfl

@[simp] theorem now_endWait (s : State) : (endWait s).now = s.now := by
  unfold endWait
  split
  · rfl
  · simp only
    split <;> rfl

@[simp] theorem parts_endWait (s : State) : (endWait s).parts = s.parts := by
  unfold endWait
  split
  · rfl
  · simp only
    split <;> rfl

/-- What retiring a word does to its context (spec/03_encoding.md R55). -/
@[simp] theorem curCtx_retire (st : Nat) (s : State) : curCtx (retire st s) =
    { curCtx s with waiting := none, pc := (curCtx s).pc + 4, ready := s.now + 1 + st, passAt := passGone (curCtx s), remote := .idle, got := [],
                    used := 0 } := by
  simp [retire, passGone]

@[simp] theorem mem_retire (st : Nat) (s : State) : (retire st s).mem = s.mem := by simp [retire]
@[simp] theorem now_retire (st : Nat) (s : State) : (retire st s).now = s.now := by simp [retire]
@[simp] theorem cur_retire (st : Nat) (s : State) : (retire st s).cur = s.cur := by simp [retire]
@[simp] theorem parts_retire (st : Nat) (s : State) : (retire st s).parts = s.parts := by simp [retire]

/-- What taking a trap does to its context (spec/18_recovery.md R397). -/
@[simp] theorem curCtx_takeTrap (code : Nat) (val : Word) (s : State) : curCtx (takeTrap code val s) =
    { landAll (curCtx s) with
      tcause := BitVec.ofNat 8 code, tpc := (curCtx s).pc, tval := val, ppriv := (curCtx s).priv, priv := true, pc := (curCtx s).tvec,
      ready := s.now + 3, waiting := none, remote := .idle, got := [], used := 0 } := by
  simp [takeTrap, landAll]

@[simp] theorem mem_takeTrap (code : Nat) (val : Word) (s : State) : (takeTrap code val s).mem = s.mem := by simp [takeTrap]
@[simp] theorem now_takeTrap (code : Nat) (val : Word) (s : State) : (takeTrap code val s).now = s.now := by simp [takeTrap]

/-- A register is read while nothing in flight keeps it from being read. -/
theorem gr_ok (r : Nat) (s : State) (h : r = 0 ∨ dueOf (curCtx s).pend (physReg (curCtx s) r) ≤ s.now) :
    gr r s = .ok (gFinal (curCtx s) r, s) := by
  unfold gr
  rcases h with h | h
  · subst h; simp
  · simp [h]

/-- The sources and destinations of a word are free. -/
theorem operands_ok (srcs dsts : List Nat) (s : State) (h : lockAll (curCtx s) (srcs.filter (· != 0) ++ dsts) ≤ s.now)
    (ha : awaited (curCtx s) (srcs.filter (· != 0) ++ dsts) = none) : operands srcs dsts s = .ok ((), s) := by
  unfold operands
  simp only [ha]
  rw [if_neg (by omega)]

/-- A context's word answers a next state whatever its operation does. -/
theorem ctxWord_next (st : BitVec 3) (body : Op Unit) (s : State) : ∃ t, ctxWord st body s = .next t := by
  unfold ctxWord
  split <;> exact ⟨_, rfl⟩

theorem ctxBranch_next (st : BitVec 3) (body : Op (Option Word)) (s : State) : ∃ t, ctxBranch st body s = .next t := by
  unfold ctxBranch
  split <;> exact ⟨_, rfl⟩

theorem ctxFree_next (body : Op Unit) (s : State) : ∃ t, ctxFree body s = .next t := by
  unfold ctxFree
  split <;> exact ⟨_, rfl⟩

/-- A word whose operation succeeds retires. -/
theorem ctxWord_ok {st : BitVec 3} {body : Op Unit} {s t : State} (h : body s = .ok ((), t)) :
    ctxWord st body s = .next (retire st.toNat t) := by
  unfold ctxWord
  rw [h]

end Sys2Proof.Machine
end

