-- ==== Sys2Proof/Laws/PerInstr.lean ====
section
/-! SUPPORT. One statement about every instruction, by constructor: an encoding has 32 or 128 bits and fits in them. -/

namespace Sys2Proof.Laws.Fits

/-- Where the instruction has an encoding, it is a word of 32 bits or a template of 128, and its value fits. -/
def Statement (i : Instr) : Prop := ∀ n v, encode i = some (n, v) → (n = 32 ∨ n = 128) ∧ v < 2^n

/-- A word of 32 bits. -/
theorem of_word {v n k : Nat} (hv : v < 4294967296) (h : some (32, v) = some (n, k)) : (n = 32 ∨ n = 128) ∧ k < 2^n := by
  cases h
  exact ⟨.inl rfl, hv⟩

/-- An event has none. -/
theorem of_event {n v : Nat} {P : Prop} (h : none = some (n, v)) : P := nomatch h

/-- A template. -/
theorem of_template {v n k : Nat} (hv : v < 2^128) (h : some (128, v) = some (n, k)) : (n = 32 ∨ n = 128) ∧ k < 2^n := by
  cases h
  exact ⟨.inr rfl, hv⟩

theorem bitsG3_lt (w : G3) : bitsG3 w < 67108864 := by
  unfold bitsG3
  unfold up
  have := Bool.toNat_lt w.q
  have := w.st.isLt
  have := w.d.isLt
  have := w.a.isLt
  have := w.b.isLt
  omega

theorem bitsG2_lt (w : G2) : bitsG2 w < 67108864 := by
  unfold bitsG2
  unfold up
  have := Bool.toNat_lt w.q
  have := w.st.isLt
  have := w.d.isLt
  have := w.a.isLt
  omega

theorem bitsRiW_lt (w : RiW) : bitsRiW w < 67108864 := by
  unfold bitsRiW
  unfold up
  have := Bool.toNat_lt w.q
  have := w.st.isLt
  have := w.d.isLt
  have := w.a.isLt
  have := w.i.isLt
  omega

theorem bitsShW_lt (w : ShW) : bitsShW w < 67108864 := by
  unfold bitsShW
  unfold up
  have := Bool.toNat_lt w.q
  have := w.st.isLt
  have := w.d.isLt
  have := w.a.isLt
  have := w.n.isLt
  omega

theorem bitsRlW_lt (w : RlW) : bitsRlW w < 67108864 := by
  unfold bitsRlW
  unfold up
  have := Bool.toNat_lt w.q
  have := w.st.isLt
  have := w.d.isLt
  have := w.i.isLt
  omega

theorem bitsLdhiW_lt (w : LdhiW) : bitsLdhiW w < 67108864 := by
  unfold bitsLdhiW
  unfold up
  have := Bool.toNat_lt w.q
  have := w.st.isLt
  have := w.d.isLt
  have := w.i.isLt
  omega

theorem bitsCmpW_lt (w : CmpW) : bitsCmpW w < 67108864 := by
  unfold bitsCmpW
  unfold up
  have := Bool.toNat_lt w.q
  have := w.st.isLt
  have := w.p.isLt
  have := w.c.isLt
  have := w.a.isLt
  have := w.b.isLt
  have := w.n.isLt
  omega

theorem bitsCmpiW_lt (w : CmpiW) : bitsCmpiW w < 67108864 := by
  unfold bitsCmpiW
  unfold up
  have := Bool.toNat_lt w.q
  have := w.st.isLt
  have := w.p.isLt
  have := w.c.isLt
  have := w.a.isLt
  have := w.n.isLt
  have := w.i.isLt
  omega

theorem bitsPlW_lt (w : PlW) : bitsPlW w < 67108864 := by
  unfold bitsPlW
  unfold up
  have := Bool.toNat_lt w.q
  have := w.st.isLt
  have := w.d.isLt
  have := w.a.isLt
  have := w.b.isLt
  omega

theorem bitsPsetW_lt (w : PsetW) : bitsPsetW w < 67108864 := by
  unfold bitsPsetW
  unfold up
  have := Bool.toNat_lt w.q
  have := w.st.isLt
  have := w.a.isLt
  omega

theorem bitsPgetW_lt (w : PgetW) : bitsPgetW w < 67108864 := by
  unfold bitsPgetW
  unfold up
  have := Bool.toNat_lt w.q
  have := w.st.isLt
  have := w.d.isLt
  omega

theorem bitsSelW_lt (w : SelW) : bitsSelW w < 67108864 := by
  unfold bitsSelW
  unfold up
  have := Bool.toNat_lt w.q
  have := w.st.isLt
  have := w.d.isLt
  have := w.a.isLt
  have := w.b.isLt
  have := w.p.isLt
  omega

theorem bitsMfcW_lt (w : MfcW) : bitsMfcW w < 67108864 := by
  unfold bitsMfcW
  unfold up
  have := Bool.toNat_lt w.q
  have := w.st.isLt
  have := w.d.isLt
  have := w.c.isLt
  omega

theorem bitsMtcW_lt (w : MtcW) : bitsMtcW w < 67108864 := by
  unfold bitsMtcW
  unfold up
  have := w.st.isLt
  have := w.a.isLt
  have := w.c.isLt
  omega

theorem bitsLdW_lt (w : LdW) : bitsLdW w < 67108864 := by
  unfold bitsLdW
  unfold up
  have := Bool.toNat_lt w.q
  have := w.st.isLt
  have := w.d.isLt
  have := w.a.isLt
  have := w.z.isLt
  have := w.o.isLt
  have := Bool.toNat_lt w.x
  have := w.i.isLt
  omega

theorem bitsStW_lt (w : StW) : bitsStW w < 67108864 := by
  unfold bitsStW
  unfold up
  have := w.st.isLt
  have := w.t.isLt
  have := w.a.isLt
  have := w.z.isLt
  have := w.o.isLt
  have := w.i.isLt
  omega

theorem bitsLdxW_lt (w : LdxW) : bitsLdxW w < 67108864 := by
  unfold bitsLdxW
  unfold up
  have := Bool.toNat_lt w.q
  have := w.st.isLt
  have := w.d.isLt
  have := w.a.isLt
  have := w.b.isLt
  have := Bool.toNat_lt w.x
  have := w.o.isLt
  have := w.z.isLt
  omega

theorem bitsStxW_lt (w : StxW) : bitsStxW w < 67108864 := by
  unfold bitsStxW
  unfold up
  have := w.st.isLt
  have := w.t.isLt
  have := w.a.isLt
  have := w.b.isLt
  have := w.o.isLt
  have := w.z.isLt
  omega

theorem bitsLdgW_lt (w : LdgW) : bitsLdgW w < 67108864 := by
  unfold bitsLdgW
  unfold up
  have := Bool.toNat_lt w.q
  have := w.st.isLt
  have := w.d.isLt
  have := w.a.isLt
  have := w.b.isLt
  have := w.z.isLt
  omega

theorem bitsAtomW_lt (w : AtomW) : bitsAtomW w < 67108864 := by
  unfold bitsAtomW
  unfold up
  have := w.st.isLt
  have := w.d.isLt
  have := w.a.isLt
  have := w.b.isLt
  have := w.e.isLt
  omega

theorem bitsPrefW_lt (w : PrefW) : bitsPrefW w < 67108864 := by
  unfold bitsPrefW
  unfold up
  have := w.st.isLt
  have := w.a.isLt
  have := w.z.isLt
  have := w.i.isLt
  omega

theorem bitsD3W_lt (w : D3W) : bitsD3W w < 67108864 := by
  unfold bitsD3W
  unfold up
  have := w.st.isLt
  have := w.d.isLt
  have := w.a.isLt
  have := w.b.isLt
  omega

theorem bitsBrW_lt (w : BrW) : bitsBrW w < 67108864 := by
  unfold bitsBrW
  unfold up
  have := w.st.isLt
  have := w.p.isLt
  have := Bool.toNat_lt w.n
  have := w.i.isLt
  omega

theorem bitsJW_lt (w : JW) : bitsJW w < 67108864 := by
  unfold bitsJW
  unfold up
  have := w.st.isLt
  have := w.i.isLt
  omega

theorem bitsA1W_lt (w : A1W) : bitsA1W w < 67108864 := by
  unfold bitsA1W
  unfold up
  have := w.st.isLt
  have := w.a.isLt
  omega

theorem bitsA2W_lt (w : A2W) : bitsA2W w < 67108864 := by
  unfold bitsA2W
  unfold up
  have := w.st.isLt
  have := w.a.isLt
  have := w.b.isLt
  omega

theorem bitsD2W_lt (w : D2W) : bitsD2W w < 67108864 := by
  unfold bitsD2W
  unfold up
  have := w.st.isLt
  have := w.d.isLt
  have := w.a.isLt
  omega

theorem bitsTileDW_lt (w : TileDW) : bitsTileDW w < 67108864 := by
  unfold bitsTileDW
  unfold up
  have := w.st.isLt
  have := w.d.isLt
  have := w.i.isLt
  omega

theorem bitsTileFW_lt (w : TileFW) : bitsTileFW w < 67108864 := by
  unfold bitsTileFW
  unfold up
  have := w.st.isLt
  have := w.d.isLt
  have := w.a.isLt
  have := w.i.isLt
  omega

theorem bitsTileIW_lt (w : TileIW) : bitsTileIW w < 67108864 := by
  unfold bitsTileIW
  unfold up
  have := w.st.isLt
  have := w.i.isLt
  omega

theorem bitsQcfgW_lt (w : QcfgW) : bitsQcfgW w < 67108864 := by
  unfold bitsQcfgW
  unfold up
  have := w.st.isLt
  have := w.a.isLt
  have := w.i.isLt
  omega

theorem bitsTakeW_lt (w : TakeW) : bitsTakeW w < 67108864 := by
  unfold bitsTakeW
  unfold up
  have := w.st.isLt
  have := w.d.isLt
  have := w.b.isLt
  omega

theorem bitsS0W_lt (w : S0W) : bitsS0W w < 67108864 := by
  unfold bitsS0W
  unfold up
  have := w.st.isLt
  omega

theorem bitsSevW_lt (w : SevW) : bitsSevW w < 67108864 := by
  unfold bitsSevW
  unfold up
  have := w.st.isLt
  have := w.m.isLt
  omega

theorem bitsImmW_lt (w : ImmW) : bitsImmW w < 67108864 := by
  unfold bitsImmW
  unfold up
  have := w.st.isLt
  have := w.i.isLt
  omega

theorem bitsFenceW_lt (w : FenceW) : bitsFenceW w < 67108864 := by
  unfold bitsFenceW
  unfold up
  have := w.st.isLt
  have := w.e.isLt
  omega

theorem bitsTlbW_lt (w : TlbW) : bitsTlbW w < 67108864 := by
  unfold bitsTlbW
  unfold up
  have := w.st.isLt
  have := w.r.isLt
  omega

theorem bitsCacheW_lt (w : CacheW) : bitsCacheW w < 67108864 := by
  unfold bitsCacheW
  unfold up
  have := w.st.isLt
  have := w.r.isLt
  have := w.l.isLt
  omega

theorem bitsCacheAllW_lt (w : CacheAllW) : bitsCacheAllW w < 67108864 := by
  unfold bitsCacheAllW
  unfold up
  have := w.st.isLt
  have := w.l.isLt
  omega

theorem bitsEFlags_lt (w : EFlags) : bitsEFlags w < 1048576 := by
  unfold bitsEFlags
  unfold up
  have := Bool.toNat_lt w.q
  have := w.st.isLt
  have := Bool.toNat_lt w.f
  have := Bool.toNat_lt w.l
  omega

theorem bitsEmarkW_lt (w : EmarkW) : bitsEmarkW w < 1048576 := by
  unfold bitsEmarkW
  unfold up
  have := w.m.isLt
  have := Bool.toNat_lt w.fl.q
  have := w.fl.st.isLt
  have := Bool.toNat_lt w.fl.f
  have := Bool.toNat_lt w.fl.l
  omega

theorem bitsEIdW_lt (w : EIdW) : bitsEIdW w < 1048576 := by
  unfold bitsEIdW
  unfold up
  have := w.i.isLt
  have := Bool.toNat_lt w.fl.q
  have := w.fl.st.isLt
  have := Bool.toNat_lt w.fl.f
  have := Bool.toNat_lt w.fl.l
  omega

theorem bitsEsemW_lt (w : EsemW) : bitsEsemW w < 1048576 := by
  unfold bitsEsemW
  unfold up
  have := w.d.isLt
  have := w.e.isLt
  have := Bool.toNat_lt w.fl.q
  have := w.fl.st.isLt
  have := Bool.toNat_lt w.fl.f
  have := Bool.toNat_lt w.fl.l
  omega

theorem bitsTpldW_lt (w : TpldW) : bitsTpldW w < 1048576 := by
  unfold bitsTpldW
  unfold up
  have := w.e.isLt
  have := Bool.toNat_lt w.fl.q
  have := w.fl.st.isLt
  have := Bool.toNat_lt w.fl.f
  have := Bool.toNat_lt w.fl.l
  omega

theorem bitsLexitW_lt (w : LexitW) : bitsLexitW w < 1048576 := by
  unfold bitsLexitW
  unfold up
  have := w.m.isLt
  have := Bool.toNat_lt w.y
  have := w.v.isLt
  have := Bool.toNat_lt w.fl.q
  have := w.fl.st.isLt
  have := Bool.toNat_lt w.fl.f
  have := Bool.toNat_lt w.fl.l
  omega

theorem bitsGrW_lt (w : GrW) : bitsGrW w < 67108864 := by
  unfold bitsGrW
  unfold up
  have := w.d.isLt
  have := w.a.isLt
  have := w.b.isLt
  omega

theorem bitsGrIW_lt (w : GrIW) : bitsGrIW w < 67108864 := by
  unfold bitsGrIW
  unfold up
  have := w.d.isLt
  have := w.a.isLt
  have := w.i.isLt
  omega

theorem bitsGrSW_lt (w : GrSW) : bitsGrSW w < 67108864 := by
  unfold bitsGrSW
  unfold up
  have := w.d.isLt
  have := w.a.isLt
  have := w.n.isLt
  omega

theorem bitsGrKW_lt (w : GrKW) : bitsGrKW w < 67108864 := by
  unfold bitsGrKW
  unfold up
  have := w.d.isLt
  have := w.i.isLt
  omega

theorem bitsGrMW_lt (w : GrMW) : bitsGrMW w < 67108864 := by
  unfold bitsGrMW
  unfold up
  have := w.d.isLt
  have := w.a.isLt
  have := w.w.isLt
  have := w.i.isLt
  omega

theorem bitsGrBW_lt (w : GrBW) : bitsGrBW w < 67108864 := by
  unfold bitsGrBW
  unfold up
  have := w.a.isLt
  have := w.n.isLt
  omega

theorem bitsGrLW_lt (w : GrLW) : bitsGrLW w < 67108864 := by
  unfold bitsGrLW
  unfold up
  have := w.a.isLt
  have := w.l.isLt
  have := w.u.isLt
  omega

theorem bitsGrEW_lt (w : GrEW) : bitsGrEW w < 67108864 := by
  unfold bitsGrEW
  unfold up
  have := w.d.isLt
  have := w.a.isLt
  omega

theorem bitsGrFW_lt (w : GrFW) : bitsGrFW w < 67108864 := by
  unfold bitsGrFW
  have := w.i.isLt
  omega

theorem tplBits_lt (op : Nat) (w : EngW) (h : op < 256) : tplBits op w < 2^128 := by
  unfold tplBits up
  have := w.d.isLt
  have := w.a.isLt
  have := w.b.isLt
  have := w.c.isLt
  have := w.m.isLt
  have := Bool.toNat_lt w.neg
  have := w.fmt.isLt
  have := w.rnd.isLt
  have := w.ovf.isLt
  have := w.mod.isLt
  have := w.immA.isLt
  have := w.immB.isLt
  have := w.addr.isLt
  omega

theorem add (w : G3) : Statement (.add w) := fun _ _ h => of_word (by have := bitsG3_lt w; omega) h
theorem sub (w : G3) : Statement (.sub w) := fun _ _ h => of_word (by have := bitsG3_lt w; omega) h
theorem and (w : G3) : Statement (.and w) := fun _ _ h => of_word (by have := bitsG3_lt w; omega) h
theorem or (w : G3) : Statement (.or w) := fun _ _ h => of_word (by have := bitsG3_lt w; omega) h
theorem xor (w : G3) : Statement (.xor w) := fun _ _ h => of_word (by have := bitsG3_lt w; omega) h
theorem andn (w : G3) : Statement (.andn w) := fun _ _ h => of_word (by have := bitsG3_lt w; omega) h
theorem shl (w : G3) : Statement (.shl w) := fun _ _ h => of_word (by have := bitsG3_lt w; omega) h
theorem shr (w : G3) : Statement (.shr w) := fun _ _ h => of_word (by have := bitsG3_lt w; omega) h
theorem sra (w : G3) : Statement (.sra w) := fun _ _ h => of_word (by have := bitsG3_lt w; omega) h
theorem rol (w : G3) : Statement (.rol w) := fun _ _ h => of_word (by have := bitsG3_lt w; omega) h
theorem mul (w : G3) : Statement (.mul w) := fun _ _ h => of_word (by have := bitsG3_lt w; omega) h
theorem mulh (w : G3) : Statement (.mulh w) := fun _ _ h => of_word (by have := bitsG3_lt w; omega) h
theorem mulhu (w : G3) : Statement (.mulhu w) := fun _ _ h => of_word (by have := bitsG3_lt w; omega) h
theorem madd (w : G3) : Statement (.madd w) := fun _ _ h => of_word (by have := bitsG3_lt w; omega) h
theorem div (w : G3) : Statement (.div w) := fun _ _ h => of_word (by have := bitsG3_lt w; omega) h
theorem divu (w : G3) : Statement (.divu w) := fun _ _ h => of_word (by have := bitsG3_lt w; omega) h
theorem rem (w : G3) : Statement (.rem w) := fun _ _ h => of_word (by have := bitsG3_lt w; omega) h
theorem remu (w : G3) : Statement (.remu w) := fun _ _ h => of_word (by have := bitsG3_lt w; omega) h
theorem min (w : G3) : Statement (.min w) := fun _ _ h => of_word (by have := bitsG3_lt w; omega) h
theorem max (w : G3) : Statement (.max w) := fun _ _ h => of_word (by have := bitsG3_lt w; omega) h
theorem minu (w : G3) : Statement (.minu w) := fun _ _ h => of_word (by have := bitsG3_lt w; omega) h
theorem maxu (w : G3) : Statement (.maxu w) := fun _ _ h => of_word (by have := bitsG3_lt w; omega) h
theorem clz (w : G2) : Statement (.clz w) := fun _ _ h => of_word (by have := bitsG2_lt w; omega) h
theorem ctz (w : G2) : Statement (.ctz w) := fun _ _ h => of_word (by have := bitsG2_lt w; omega) h
theorem popc (w : G2) : Statement (.popc w) := fun _ _ h => of_word (by have := bitsG2_lt w; omega) h
theorem sext (w : G3) : Statement (.sext w) := fun _ _ h => of_word (by have := bitsG3_lt w; omega) h
theorem zext (w : G3) : Statement (.zext w) := fun _ _ h => of_word (by have := bitsG3_lt w; omega) h
theorem bswap (w : G2) : Statement (.bswap w) := fun _ _ h => of_word (by have := bitsG2_lt w; omega) h
theorem addi (w : RiW) : Statement (.addi w) := fun _ _ h => of_word (by have := bitsRiW_lt w; omega) h
theorem andi (w : RiW) : Statement (.andi w) := fun _ _ h => of_word (by have := bitsRiW_lt w; omega) h
theorem ori (w : RiW) : Statement (.ori w) := fun _ _ h => of_word (by have := bitsRiW_lt w; omega) h
theorem xori (w : RiW) : Statement (.xori w) := fun _ _ h => of_word (by have := bitsRiW_lt w; omega) h
theorem shli (w : ShW) : Statement (.shli w) := fun _ _ h => of_word (by have := bitsShW_lt w; omega) h
theorem shri (w : ShW) : Statement (.shri w) := fun _ _ h => of_word (by have := bitsShW_lt w; omega) h
theorem srai (w : ShW) : Statement (.srai w) := fun _ _ h => of_word (by have := bitsShW_lt w; omega) h
theorem roli (w : ShW) : Statement (.roli w) := fun _ _ h => of_word (by have := bitsShW_lt w; omega) h
theorem muli (w : RiW) : Statement (.muli w) := fun _ _ h => of_word (by have := bitsRiW_lt w; omega) h
theorem ldi (w : RlW) : Statement (.ldi w) := fun _ _ h => of_word (by have := bitsRlW_lt w; omega) h
theorem ldhi (w : LdhiW) : Statement (.ldhi w) := fun _ _ h => of_word (by have := bitsLdhiW_lt w; omega) h
theorem cmp (w : CmpW) : Statement (.cmp w) := fun _ _ h => of_word (by have := bitsCmpW_lt w; omega) h
theorem cmpi (w : CmpiW) : Statement (.cmpi w) := fun _ _ h => of_word (by have := bitsCmpiW_lt w; omega) h
theorem plogAnd (w : PlW) : Statement (.plogAnd w) := fun _ _ h => of_word (by have := bitsPlW_lt w; omega) h
theorem plogOr (w : PlW) : Statement (.plogOr w) := fun _ _ h => of_word (by have := bitsPlW_lt w; omega) h
theorem plogXor (w : PlW) : Statement (.plogXor w) := fun _ _ h => of_word (by have := bitsPlW_lt w; omega) h
theorem plogAndn (w : PlW) : Statement (.plogAndn w) := fun _ _ h => of_word (by have := bitsPlW_lt w; omega) h
theorem plogOrn (w : PlW) : Statement (.plogOrn w) := fun _ _ h => of_word (by have := bitsPlW_lt w; omega) h
theorem plogNand (w : PlW) : Statement (.plogNand w) := fun _ _ h => of_word (by have := bitsPlW_lt w; omega) h
theorem plogNor (w : PlW) : Statement (.plogNor w) := fun _ _ h => of_word (by have := bitsPlW_lt w; omega) h
theorem plogXnor (w : PlW) : Statement (.plogXnor w) := fun _ _ h => of_word (by have := bitsPlW_lt w; omega) h
theorem pset (w : PsetW) : Statement (.pset w) := fun _ _ h => of_word (by have := bitsPsetW_lt w; omega) h
theorem pget (w : PgetW) : Statement (.pget w) := fun _ _ h => of_word (by have := bitsPgetW_lt w; omega) h
theorem sel (w : SelW) : Statement (.sel w) := fun _ _ h => of_word (by have := bitsSelW_lt w; omega) h
theorem mfc (w : MfcW) : Statement (.mfc w) := fun _ _ h => of_word (by have := bitsMfcW_lt w; omega) h
theorem mtc (w : MtcW) : Statement (.mtc w) := fun _ _ h => of_word (by have := bitsMtcW_lt w; omega) h
theorem ld (w : LdW) : Statement (.ld w) := fun _ _ h => of_word (by have := bitsLdW_lt w; omega) h
theorem st (w : StW) : Statement (.st w) := fun _ _ h => of_word (by have := bitsStW_lt w; omega) h
theorem ldx (w : LdxW) : Statement (.ldx w) := fun _ _ h => of_word (by have := bitsLdxW_lt w; omega) h
theorem stx (w : StxW) : Statement (.stx w) := fun _ _ h => of_word (by have := bitsStxW_lt w; omega) h
theorem ldg (w : LdgW) : Statement (.ldg w) := fun _ _ h => of_word (by have := bitsLdgW_lt w; omega) h
theorem atomAdd (w : AtomW) : Statement (.atomAdd w) := fun _ _ h => of_word (by have := bitsAtomW_lt w; omega) h
theorem atomAnd (w : AtomW) : Statement (.atomAnd w) := fun _ _ h => of_word (by have := bitsAtomW_lt w; omega) h
theorem atomOr (w : AtomW) : Statement (.atomOr w) := fun _ _ h => of_word (by have := bitsAtomW_lt w; omega) h
theorem atomXor (w : AtomW) : Statement (.atomXor w) := fun _ _ h => of_word (by have := bitsAtomW_lt w; omega) h
theorem atomMin (w : AtomW) : Statement (.atomMin w) := fun _ _ h => of_word (by have := bitsAtomW_lt w; omega) h
theorem atomMax (w : AtomW) : Statement (.atomMax w) := fun _ _ h => of_word (by have := bitsAtomW_lt w; omega) h
theorem atomMinu (w : AtomW) : Statement (.atomMinu w) := fun _ _ h => of_word (by have := bitsAtomW_lt w; omega) h
theorem atomMaxu (w : AtomW) : Statement (.atomMaxu w) := fun _ _ h => of_word (by have := bitsAtomW_lt w; omega) h
theorem atomSwap (w : AtomW) : Statement (.atomSwap w) := fun _ _ h => of_word (by have := bitsAtomW_lt w; omega) h
theorem atomCas (w : AtomW) : Statement (.atomCas w) := fun _ _ h => of_word (by have := bitsAtomW_lt w; omega) h
theorem pref (w : PrefW) : Statement (.pref w) := fun _ _ h => of_word (by have := bitsPrefW_lt w; omega) h
theorem bpref (w : D3W) : Statement (.bpref w) := fun _ _ h => of_word (by have := bitsD3W_lt w; omega) h
theorem br (w : BrW) : Statement (.br w) := fun _ _ h => of_word (by have := bitsBrW_lt w; omega) h
theorem jmp (w : JW) : Statement (.jmp w) := fun _ _ h => of_word (by have := bitsJW_lt w; omega) h
theorem call (w : JW) : Statement (.call w) := fun _ _ h => of_word (by have := bitsJW_lt w; omega) h
theorem jmpr (w : A1W) : Statement (.jmpr w) := fun _ _ h => of_word (by have := bitsA1W_lt w; omega) h
theorem callr (w : A1W) : Statement (.callr w) := fun _ _ h => of_word (by have := bitsA1W_lt w; omega) h
theorem semAdd (w : A2W) : Statement (.semAdd w) := fun _ _ h => of_word (by have := bitsA2W_lt w; omega) h
theorem semWait (w : A2W) : Statement (.semWait w) := fun _ _ h => of_word (by have := bitsA2W_lt w; omega) h
theorem semTry (w : D3W) : Statement (.semTry w) := fun _ _ h => of_word (by have := bitsD3W_lt w; omega) h
theorem semRd (w : D2W) : Statement (.semRd w) := fun _ _ h => of_word (by have := bitsD2W_lt w; omega) h
theorem semSet (w : A2W) : Statement (.semSet w) := fun _ _ h => of_word (by have := bitsA2W_lt w; omega) h
theorem sig (w : A2W) : Statement (.sig w) := fun _ _ h => of_word (by have := bitsA2W_lt w; omega) h
theorem barArr (w : D3W) : Statement (.barArr w) := fun _ _ h => of_word (by have := bitsD3W_lt w; omega) h
theorem barWait (w : A2W) : Statement (.barWait w) := fun _ _ h => of_word (by have := bitsA2W_lt w; omega) h
theorem tbarArr (w : D2W) : Statement (.tbarArr w) := fun _ _ h => of_word (by have := bitsD2W_lt w; omega) h
theorem tbarExp (w : A2W) : Statement (.tbarExp w) := fun _ _ h => of_word (by have := bitsA2W_lt w; omega) h
theorem tbarWait (w : D3W) : Statement (.tbarWait w) := fun _ _ h => of_word (by have := bitsD3W_lt w; omega) h
theorem twaitf (w : TileDW) : Statement (.twaitf w) := fun _ _ h => of_word (by have := bitsTileDW_lt w; omega) h
theorem twaite (w : TileDW) : Statement (.twaite w) := fun _ _ h => of_word (by have := bitsTileDW_lt w; omega) h
theorem tsetf (w : TileFW) : Statement (.tsetf w) := fun _ _ h => of_word (by have := bitsTileFW_lt w; omega) h
theorem tsete (w : TileIW) : Statement (.tsete w) := fun _ _ h => of_word (by have := bitsTileIW_lt w; omega) h
theorem qwaitf (w : TileDW) : Statement (.qwaitf w) := fun _ _ h => of_word (by have := bitsTileDW_lt w; omega) h
theorem qwaite (w : TileDW) : Statement (.qwaite w) := fun _ _ h => of_word (by have := bitsTileDW_lt w; omega) h
theorem qpush (w : TileFW) : Statement (.qpush w) := fun _ _ h => of_word (by have := bitsTileFW_lt w; omega) h
theorem qpop (w : TileIW) : Statement (.qpop w) := fun _ _ h => of_word (by have := bitsTileIW_lt w; omega) h
theorem qcfg (w : QcfgW) : Statement (.qcfg w) := fun _ _ h => of_word (by have := bitsQcfgW_lt w; omega) h
theorem lnchMe (w : A1W) : Statement (.lnchMe w) := fun _ _ h => of_word (by have := bitsA1W_lt w; omega) h
theorem lnchVe (w : A1W) : Statement (.lnchVe w) := fun _ _ h => of_word (by have := bitsA1W_lt w; omega) h
theorem cpy (w : D3W) : Statement (.cpy w) := fun _ _ h => of_word (by have := bitsD3W_lt w; omega) h
theorem spawn (w : D3W) : Statement (.spawn w) := fun _ _ h => of_word (by have := bitsD3W_lt w; omega) h
theorem spawnTake (w : TakeW) : Statement (.spawnTake w) := fun _ _ h => of_word (by have := bitsTakeW_lt w; omega) h
theorem hstep (w : A2W) : Statement (.hstep w) := fun _ _ h => of_word (by have := bitsA2W_lt w; omega) h
theorem hwait (w : A2W) : Statement (.hwait w) := fun _ _ h => of_word (by have := bitsA2W_lt w; omega) h
theorem hqry (w : D3W) : Statement (.hqry w) := fun _ _ h => of_word (by have := bitsD3W_lt w; omega) h
theorem nop (w : S0W) : Statement (.nop w) := fun _ _ h => of_word (by have := bitsS0W_lt w; omega) h
theorem exit (w : S0W) : Statement (.exit w) := fun _ _ h => of_word (by have := bitsS0W_lt w; omega) h
theorem yield (w : S0W) : Statement (.yield w) := fun _ _ h => of_word (by have := bitsS0W_lt w; omega) h
theorem mark (w : S0W) : Statement (.mark w) := fun _ _ h => of_word (by have := bitsS0W_lt w; omega) h
theorem wfe (w : S0W) : Statement (.wfe w) := fun _ _ h => of_word (by have := bitsS0W_lt w; omega) h
theorem sev (w : SevW) : Statement (.sev w) := fun _ _ h => of_word (by have := bitsSevW_lt w; omega) h
theorem trapWord (w : ImmW) : Statement (.trapWord w) := fun _ _ h => of_word (by have := bitsImmW_lt w; omega) h
theorem eret (w : S0W) : Statement (.eret w) := fun _ _ h => of_word (by have := bitsS0W_lt w; omega) h
theorem uiret (w : S0W) : Statement (.uiret w) := fun _ _ h => of_word (by have := bitsS0W_lt w; omega) h
theorem ret (w : S0W) : Statement (.ret w) := fun _ _ h => of_word (by have := bitsS0W_lt w; omega) h
theorem fenceFull (w : FenceW) : Statement (.fenceFull w) := fun _ _ h => of_word (by have := bitsFenceW_lt w; omega) h
theorem fenceAcq (w : FenceW) : Statement (.fenceAcq w) := fun _ _ h => of_word (by have := bitsFenceW_lt w; omega) h
theorem fenceRel (w : FenceW) : Statement (.fenceRel w) := fun _ _ h => of_word (by have := bitsFenceW_lt w; omega) h
theorem fenceEng (w : FenceW) : Statement (.fenceEng w) := fun _ _ h => of_word (by have := bitsFenceW_lt w; omega) h
theorem bkpt (w : ImmW) : Statement (.bkpt w) := fun _ _ h => of_word (by have := bitsImmW_lt w; omega) h
theorem tlbinv (w : TlbW) : Statement (.tlbinv w) := fun _ _ h => of_word (by have := bitsTlbW_lt w; omega) h
theorem cacheInv (w : CacheW) : Statement (.cacheInv w) := fun _ _ h => of_word (by have := bitsCacheW_lt w; omega) h
theorem cacheClean (w : CacheW) : Statement (.cacheClean w) := fun _ _ h => of_word (by have := bitsCacheW_lt w; omega) h
theorem cacheFlush (w : CacheW) : Statement (.cacheFlush w) := fun _ _ h => of_word (by have := bitsCacheW_lt w; omega) h
theorem cacheInvall (w : CacheAllW) : Statement (.cacheInvall w) := fun _ _ h => of_word (by have := bitsCacheAllW_lt w; omega) h
theorem cacheCleanall (w : CacheAllW) : Statement (.cacheCleanall w) := fun _ _ h => of_word (by have := bitsCacheAllW_lt w; omega) h
theorem enop (w : EFlags) : Statement (.enop w) := fun _ _ h => of_word (by have := bitsEFlags_lt w; omega) h
theorem eend (w : EFlags) : Statement (.eend w) := fun _ _ h => of_word (by have := bitsEFlags_lt w; omega) h
theorem emark (w : EmarkW) : Statement (.emark w) := fun _ _ h => of_word (by have := bitsEmarkW_lt w; omega) h
theorem waitf (w : EIdW) : Statement (.waitf w) := fun _ _ h => of_word (by have := bitsEIdW_lt w; omega) h
theorem waite (w : EIdW) : Statement (.waite w) := fun _ _ h => of_word (by have := bitsEIdW_lt w; omega) h
theorem setf (w : EIdW) : Statement (.setf w) := fun _ _ h => of_word (by have := bitsEIdW_lt w; omega) h
theorem sete (w : EIdW) : Statement (.sete w) := fun _ _ h => of_word (by have := bitsEIdW_lt w; omega) h
theorem qpope (w : EIdW) : Statement (.qpope w) := fun _ _ h => of_word (by have := bitsEIdW_lt w; omega) h
theorem qpushe (w : EIdW) : Statement (.qpushe w) := fun _ _ h => of_word (by have := bitsEIdW_lt w; omega) h
theorem esem (w : EsemW) : Statement (.esem w) := fun _ _ h => of_word (by have := bitsEsemW_lt w; omega) h
theorem tpld (w : TpldW) : Statement (.tpld w) := fun _ _ h => of_word (by have := bitsTpldW_lt w; omega) h
theorem lexit (w : LexitW) : Statement (.lexit w) := fun _ _ h => of_word (by have := bitsLexitW_lt w; omega) h
theorem efence (w : EFlags) : Statement (.efence w) := fun _ _ h => of_word (by have := bitsEFlags_lt w; omega) h
theorem vadd (w : EngW) : Statement (.vadd w) := fun _ _ h => of_template (tplBits_lt _ _ (by decide)) h
theorem vsub (w : EngW) : Statement (.vsub w) := fun _ _ h => of_template (tplBits_lt _ _ (by decide)) h
theorem vmul (w : EngW) : Statement (.vmul w) := fun _ _ h => of_template (tplBits_lt _ _ (by decide)) h
theorem vfma (w : EngW) : Statement (.vfma w) := fun _ _ h => of_template (tplBits_lt _ _ (by decide)) h
theorem vfms (w : EngW) : Statement (.vfms w) := fun _ _ h => of_template (tplBits_lt _ _ (by decide)) h
theorem vfnma (w : EngW) : Statement (.vfnma w) := fun _ _ h => of_template (tplBits_lt _ _ (by decide)) h
theorem vmin (w : EngW) : Statement (.vmin w) := fun _ _ h => of_template (tplBits_lt _ _ (by decide)) h
theorem vmax (w : EngW) : Statement (.vmax w) := fun _ _ h => of_template (tplBits_lt _ _ (by decide)) h
theorem vabs (w : EngW) : Statement (.vabs w) := fun _ _ h => of_template (tplBits_lt _ _ (by decide)) h
theorem vneg (w : EngW) : Statement (.vneg w) := fun _ _ h => of_template (tplBits_lt _ _ (by decide)) h
theorem vdiv (w : EngW) : Statement (.vdiv w) := fun _ _ h => of_template (tplBits_lt _ _ (by decide)) h
theorem vsqrt (w : EngW) : Statement (.vsqrt w) := fun _ _ h => of_template (tplBits_lt _ _ (by decide)) h
theorem vrcp (w : EngW) : Statement (.vrcp w) := fun _ _ h => of_template (tplBits_lt _ _ (by decide)) h
theorem vrsq (w : EngW) : Statement (.vrsq w) := fun _ _ h => of_template (tplBits_lt _ _ (by decide)) h
theorem vand (w : EngW) : Statement (.vand w) := fun _ _ h => of_template (tplBits_lt _ _ (by decide)) h
theorem vor (w : EngW) : Statement (.vor w) := fun _ _ h => of_template (tplBits_lt _ _ (by decide)) h
theorem vxor (w : EngW) : Statement (.vxor w) := fun _ _ h => of_template (tplBits_lt _ _ (by decide)) h
theorem vshl (w : EngW) : Statement (.vshl w) := fun _ _ h => of_template (tplBits_lt _ _ (by decide)) h
theorem vshr (w : EngW) : Statement (.vshr w) := fun _ _ h => of_template (tplBits_lt _ _ (by decide)) h
theorem vsra (w : EngW) : Statement (.vsra w) := fun _ _ h => of_template (tplBits_lt _ _ (by decide)) h
theorem vmulh (w : EngW) : Statement (.vmulh w) := fun _ _ h => of_template (tplBits_lt _ _ (by decide)) h
theorem vcmp (w : EngW) : Statement (.vcmp w) := fun _ _ h => of_template (tplBits_lt _ _ (by decide)) h
theorem vsel (w : EngW) : Statement (.vsel w) := fun _ _ h => of_template (tplBits_lt _ _ (by decide)) h
theorem vclass (w : EngW) : Statement (.vclass w) := fun _ _ h => of_template (tplBits_lt _ _ (by decide)) h
theorem vcvt (w : EngW) : Statement (.vcvt w) := fun _ _ h => of_template (tplBits_lt _ _ (by decide)) h
theorem vqmx (w : EngW) : Statement (.vqmx w) := fun _ _ h => of_template (tplBits_lt _ _ (by decide)) h
theorem vdqmx (w : EngW) : Statement (.vdqmx w) := fun _ _ h => of_template (tplBits_lt _ _ (by decide)) h
theorem vpack (w : EngW) : Statement (.vpack w) := fun _ _ h => of_template (tplBits_lt _ _ (by decide)) h
theorem vunpk (w : EngW) : Statement (.vunpk w) := fun _ _ h => of_template (tplBits_lt _ _ (by decide)) h
theorem vrsum (w : EngW) : Statement (.vrsum w) := fun _ _ h => of_template (tplBits_lt _ _ (by decide)) h
theorem vrmax (w : EngW) : Statement (.vrmax w) := fun _ _ h => of_template (tplBits_lt _ _ (by decide)) h
theorem vrmin (w : EngW) : Statement (.vrmin w) := fun _ _ h => of_template (tplBits_lt _ _ (by decide)) h
theorem vscan (w : EngW) : Statement (.vscan w) := fun _ _ h => of_template (tplBits_lt _ _ (by decide)) h
theorem vperm (w : EngW) : Statement (.vperm w) := fun _ _ h => of_template (tplBits_lt _ _ (by decide)) h
theorem vbcast (w : EngW) : Statement (.vbcast w) := fun _ _ h => of_template (tplBits_lt _ _ (by decide)) h
theorem vslide (w : EngW) : Statement (.vslide w) := fun _ _ h => of_template (tplBits_lt _ _ (by decide)) h
theorem vmov (w : EngW) : Statement (.vmov w) := fun _ _ h => of_template (tplBits_lt _ _ (by decide)) h
theorem vldi (w : EngW) : Statement (.vldi w) := fun _ _ h => of_template (tplBits_lt _ _ (by decide)) h
theorem vtint (w : EngW) : Statement (.vtint w) := fun _ _ h => of_template (tplBits_lt _ _ (by decide)) h
theorem vtld (w : EngW) : Statement (.vtld w) := fun _ _ h => of_template (tplBits_lt _ _ (by decide)) h
theorem vld (w : EngW) : Statement (.vld w) := fun _ _ h => of_template (tplBits_lt _ _ (by decide)) h
theorem vst (w : EngW) : Statement (.vst w) := fun _ _ h => of_template (tplBits_lt _ _ (by decide)) h
theorem vlds (w : EngW) : Statement (.vlds w) := fun _ _ h => of_template (tplBits_lt _ _ (by decide)) h
theorem vsts (w : EngW) : Statement (.vsts w) := fun _ _ h => of_template (tplBits_lt _ _ (by decide)) h
theorem vgath (w : EngW) : Statement (.vgath w) := fun _ _ h => of_template (tplBits_lt _ _ (by decide)) h
theorem vscat (w : EngW) : Statement (.vscat w) := fun _ _ h => of_template (tplBits_lt _ _ (by decide)) h
theorem vldt (w : EngW) : Statement (.vldt w) := fun _ _ h => of_template (tplBits_lt _ _ (by decide)) h
theorem vstt (w : EngW) : Statement (.vstt w) := fun _ _ h => of_template (tplBits_lt _ _ (by decide)) h
theorem vldg (w : EngW) : Statement (.vldg w) := fun _ _ h => of_template (tplBits_lt _ _ (by decide)) h
theorem vstg (w : EngW) : Statement (.vstg w) := fun _ _ h => of_template (tplBits_lt _ _ (by decide)) h
theorem vdefer (w : EngW) : Statement (.vdefer w) := fun _ _ h => of_template (tplBits_lt _ _ (by decide)) h
theorem vdrain (w : EngW) : Statement (.vdrain w) := fun _ _ h => of_template (tplBits_lt _ _ (by decide)) h
theorem vtqry (w : EngW) : Statement (.vtqry w) := fun _ _ h => of_template (tplBits_lt _ _ (by decide)) h
theorem mand (w : EngW) : Statement (.mand w) := fun _ _ h => of_template (tplBits_lt _ _ (by decide)) h
theorem mor (w : EngW) : Statement (.mor w) := fun _ _ h => of_template (tplBits_lt _ _ (by decide)) h
theorem mxor (w : EngW) : Statement (.mxor w) := fun _ _ h => of_template (tplBits_lt _ _ (by decide)) h
theorem mnot (w : EngW) : Statement (.mnot w) := fun _ _ h => of_template (tplBits_lt _ _ (by decide)) h
theorem mpopc (w : EngW) : Statement (.mpopc w) := fun _ _ h => of_template (tplBits_lt _ _ (by decide)) h
theorem vmbxRead (w : EngW) : Statement (.vmbxRead w) := fun _ _ h => of_template (tplBits_lt _ _ (by decide)) h
theorem vmbxWrite (w : EngW) : Statement (.vmbxWrite w) := fun _ _ h => of_template (tplBits_lt _ _ (by decide)) h
theorem mma (w : EngW) : Statement (.mma w) := fun _ _ h => of_template (tplBits_lt _ _ (by decide)) h
theorem mdrn (w : EngW) : Statement (.mdrn w) := fun _ _ h => of_template (tplBits_lt _ _ (by decide)) h
theorem mdrnp (w : EngW) : Statement (.mdrnp w) := fun _ _ h => of_template (tplBits_lt _ _ (by decide)) h
theorem macld (w : EngW) : Statement (.macld w) := fun _ _ h => of_template (tplBits_lt _ _ (by decide)) h
theorem mclr (w : EngW) : Statement (.mclr w) := fun _ _ h => of_template (tplBits_lt _ _ (by decide)) h
theorem mcoma (w : EngW) : Statement (.mcoma w) := fun _ _ h => of_template (tplBits_lt _ _ (by decide)) h
theorem grailoEnd : Statement .grailoEnd := fun _ _ h => of_word (by decide) h
theorem grailoAdd (w : GrW) : Statement (.grailoAdd w) := fun _ _ h => of_word (by have := bitsGrW_lt w; omega) h
theorem grailoSub (w : GrW) : Statement (.grailoSub w) := fun _ _ h => of_word (by have := bitsGrW_lt w; omega) h
theorem grailoAnd (w : GrW) : Statement (.grailoAnd w) := fun _ _ h => of_word (by have := bitsGrW_lt w; omega) h
theorem grailoOr (w : GrW) : Statement (.grailoOr w) := fun _ _ h => of_word (by have := bitsGrW_lt w; omega) h
theorem grailoXor (w : GrW) : Statement (.grailoXor w) := fun _ _ h => of_word (by have := bitsGrW_lt w; omega) h
theorem grailoAddi (w : GrIW) : Statement (.grailoAddi w) := fun _ _ h => of_word (by have := bitsGrIW_lt w; omega) h
theorem grailoShli (w : GrSW) : Statement (.grailoShli w) := fun _ _ h => of_word (by have := bitsGrSW_lt w; omega) h
theorem grailoShri (w : GrSW) : Statement (.grailoShri w) := fun _ _ h => of_word (by have := bitsGrSW_lt w; omega) h
theorem grLdk (w : GrKW) : Statement (.grLdk w) := fun _ _ h => of_word (by have := bitsGrKW_lt w; omega) h
theorem grLdm (w : GrMW) : Statement (.grLdm w) := fun _ _ h => of_word (by have := bitsGrMW_lt w; omega) h
theorem grStm (w : GrMW) : Statement (.grStm w) := fun _ _ h => of_word (by have := bitsGrMW_lt w; omega) h
theorem grBrz (w : GrBW) : Statement (.grBrz w) := fun _ _ h => of_word (by have := bitsGrBW_lt w; omega) h
theorem grBrnz (w : GrBW) : Statement (.grBrnz w) := fun _ _ h => of_word (by have := bitsGrBW_lt w; omega) h
theorem grLoop (w : GrLW) : Statement (.grLoop w) := fun _ _ h => of_word (by have := bitsGrLW_lt w; omega) h
theorem grEmit (w : GrEW) : Statement (.grEmit w) := fun _ _ h => of_word (by have := bitsGrEW_lt w; omega) h
theorem grFault (w : GrFW) : Statement (.grFault w) := fun _ _ h => of_word (by have := bitsGrFW_lt w; omega) h
theorem landing (w : Landing) : Statement (.landing w) := fun _ _ h => of_event h
theorem shutterPublish (w : ShutterId) : Statement (.shutterPublish w) := fun _ _ h => of_event h
theorem selChange (w : SelChange) : Statement (.selChange w) := fun _ _ h => of_event h
theorem publishAck (w : ShutterId) : Statement (.publishAck w) := fun _ _ h => of_event h
theorem logResponse (w : LogResponse) : Statement (.logResponse w) := fun _ _ h => of_event h
theorem bprefComplete (w : BprefDone) : Statement (.bprefComplete w) := fun _ _ h => of_event h
theorem sigApply (w : SigArrival) : Statement (.sigApply w) := fun _ _ h => of_event h
theorem hssEngineUpdate (w : EngineUpdate) : Statement (.hssEngineUpdate w) := fun _ _ h => of_event h
theorem knock (w : KnockStore) : Statement (.knock w) := fun _ _ h => of_event h
theorem packageRecovery (w : Recovery) : Statement (.packageRecovery w) := fun _ _ h => of_event h
theorem flitTransmit (w : PortId) : Statement (.flitTransmit w) := fun _ _ h => of_event h
theorem relayForward (w : RelayRef) : Statement (.relayForward w) := fun _ _ h => of_event h
theorem msixModeration (w : HostFn) : Statement (.msixModeration w) := fun _ _ h => of_event h
theorem budgetPeriodEnd (w : PeriodEnd) : Statement (.budgetPeriodEnd w) := fun _ _ h => of_event h
theorem remoteRequest (w : RemoteReq) : Statement (.remoteRequest w) := fun _ _ h => of_event h
theorem remoteResponse (w : RemoteRsp) : Statement (.remoteResponse w) := fun _ _ h => of_event h
theorem endToEndArrival (w : E2eArrival) : Statement (.endToEndArrival w) := fun _ _ h => of_event h
theorem mbdoor (w : DoorWrite) : Statement (.mbdoor w) := fun _ _ h => of_event h
theorem resultWritten : Statement .resultWritten := fun _ _ h => of_event h
theorem kStep : Statement .kStep := fun _ _ h => of_event h
theorem rowFold : Statement .rowFold := fun _ _ h => of_event h
theorem commit : Statement .commit := fun _ _ h => of_event h
theorem macldRow : Statement .macldRow := fun _ _ h => of_event h
theorem launchStart : Statement .launchStart := fun _ _ h => of_event h
theorem levelEntry : Statement .levelEntry := fun _ _ h => of_event h
theorem iterationMark : Statement .iterationMark := fun _ _ h => of_event h
theorem launchEnd : Statement .launchEnd := fun _ _ h => of_event h
theorem engf : Statement .engf := fun _ _ h => of_event h
theorem acceptance : Statement .acceptance := fun _ _ h => of_event h
theorem automaticMark : Statement .automaticMark := fun _ _ h => of_event h
theorem budgetTrap : Statement .budgetTrap := fun _ _ h => of_event h
theorem scyStopat : Statement .scyStopat := fun _ _ h => of_event h
theorem watchdog : Statement .watchdog := fun _ _ h => of_event h
theorem parityAlarm : Statement .parityAlarm := fun _ _ h => of_event h
theorem protocolAlarm : Statement .protocolAlarm := fun _ _ h => of_event h
theorem eclipse : Statement .eclipse := fun _ _ h => of_event h
theorem rotationEclipse : Statement .rotationEclipse := fun _ _ h => of_event h
theorem coreReset : Statement .coreReset := fun _ _ h => of_event h
theorem dieReset : Statement .dieReset := fun _ _ h => of_event h
theorem powerOnReset : Statement .powerOnReset := fun _ _ h => of_event h
theorem ceLin : Statement .ceLin := fun _ _ h => of_event h
theorem ceBox : Statement .ceBox := fun _ _ h => of_event h
theorem ceCvt : Statement .ceCvt := fun _ _ h => of_event h
theorem ceWin : Statement .ceWin := fun _ _ h => of_event h
theorem ceFill : Statement .ceFill := fun _ _ h => of_event h
theorem cePublish : Statement .cePublish := fun _ _ h => of_event h
theorem pfonly : Statement .pfonly := fun _ _ h => of_event h
theorem sectorGroupMark : Statement .sectorGroupMark := fun _ _ h => of_event h
theorem packetCompletion : Statement .packetCompletion := fun _ _ h => of_event h
theorem slotWaitTimeout : Statement .slotWaitTimeout := fun _ _ h => of_event h
theorem queueScan : Statement .queueScan := fun _ _ h => of_event h
theorem allred : Statement .allred := fun _ _ h => of_event h
theorem redscat : Statement .redscat := fun _ _ h => of_event h
theorem allgath : Statement .allgath := fun _ _ h => of_event h
theorem bcast : Statement .bcast := fun _ _ h => of_event h
theorem all2all : Statement .all2all := fun _ _ h => of_event h
theorem partialArrival : Statement .partialArrival := fun _ _ h => of_event h
theorem collectiveCompletion : Statement .collectiveCompletion := fun _ _ h => of_event h
theorem faceFill : Statement .faceFill := fun _ _ h => of_event h
theorem stripLanding : Statement .stripLanding := fun _ _ h => of_event h
theorem gridLoadTimeout : Statement .gridLoadTimeout := fun _ _ h => of_event h
theorem knockScan : Statement .knockScan := fun _ _ h => of_event h
theorem reconcilePass : Statement .reconcilePass := fun _ _ h => of_event h
theorem cpSlice : Statement .cpSlice := fun _ _ h => of_event h
theorem cpGraph : Statement .cpGraph := fun _ _ h => of_event h
theorem waitHss : Statement .waitHss := fun _ _ h => of_event h
theorem waitMemory : Statement .waitMemory := fun _ _ h => of_event h
theorem signalHss : Statement .signalHss := fun _ _ h => of_event h
theorem signalMemory : Statement .signalMemory := fun _ _ h => of_event h
theorem cpChain : Statement .cpChain := fun _ _ h => of_event h
theorem launchNop : Statement .launchNop := fun _ _ h => of_event h
theorem cpCustom : Statement .cpCustom := fun _ _ h => of_event h
theorem memoryWaitReread : Statement .memoryWaitReread := fun _ _ h => of_event h
theorem sliceHandover : Statement .sliceHandover := fun _ _ h => of_event h
theorem crewBind : Statement .crewBind := fun _ _ h => of_event h
theorem quantumExpiry : Statement .quantumExpiry := fun _ _ h => of_event h
theorem budgetExhausted : Statement .budgetExhausted := fun _ _ h => of_event h
theorem sliceComplete : Statement .sliceComplete := fun _ _ h => of_event h
theorem pcreate : Statement .pcreate := fun _ _ h => of_event h
theorem pdestroy : Statement .pdestroy := fun _ _ h => of_event h
theorem importBlob : Statement .importBlob := fun _ _ h => of_event h
theorem attest : Statement .attest := fun _ _ h => of_event h
theorem manifest : Statement .manifest := fun _ _ h => of_event h
theorem progreg : Statement .progreg := fun _ _ h => of_event h
theorem debugCmd : Statement .debugCmd := fun _ _ h => of_event h
theorem hssread : Statement .hssread := fun _ _ h => of_event h
theorem fwload : Statement .fwload := fun _ _ h => of_event h
theorem recover : Statement .recover := fun _ _ h => of_event h
theorem unknownCommand : Statement .unknownCommand := fun _ _ h => of_event h
theorem traceRecordWrite : Statement .traceRecordWrite := fun _ _ h => of_event h
theorem requestAcknowledged : Statement .requestAcknowledged := fun _ _ h => of_event h
theorem pageWalk (w : WalkReq) : Statement (.pageWalk w) := fun _ _ h => of_event h
theorem fqretRetire (w : FqRet) : Statement (.fqretRetire w) := fun _ _ h => of_event h
theorem fqretFail (w : FqRet) : Statement (.fqretFail w) := fun _ _ h => of_event h
theorem hostRequest (w : HostReq) : Statement (.hostRequest w) := fun _ _ h => of_event h
theorem cxlMemAccess (w : HostReq) : Statement (.cxlMemAccess w) := fun _ _ h => of_event h
theorem hssScrub (w : HssRef) : Statement (.hssScrub w) := fun _ _ h => of_event h
theorem spScrub (w : ScrubRow) : Statement (.spScrub w) := fun _ _ h => of_event h
theorem conjunctionBoundary (w : ConjBoundary) : Statement (.conjunctionBoundary w) := fun _ _ h => of_event h
theorem conjunctionHeader (w : ConjHeader) : Statement (.conjunctionHeader w) := fun _ _ h => of_event h
theorem flitReceive (w : FlitArrival) : Statement (.flitReceive w) := fun _ _ h => of_event h
theorem linkNak (w : NakArrival) : Statement (.linkNak w) := fun _ _ h => of_event h
theorem lossOfLight (w : LightLoss) : Statement (.lossOfLight w) := fun _ _ h => of_event h
theorem restripeMarker (w : PortMask) : Statement (.restripeMarker w) := fun _ _ h => of_event h
theorem bankRetired (w : BankRef) : Statement (.bankRetired w) := fun _ _ h => of_event h
theorem portLive (w : PortMask) : Statement (.portLive w) := fun _ _ h => of_event h
theorem bindRecord (w : BindRecord) : Statement (.bindRecord w) := fun _ _ h => of_event h
theorem bindExtend (w : BindRecord) : Statement (.bindExtend w) := fun _ _ h => of_event h
theorem bindCancel (w : BindRecord) : Statement (.bindCancel w) := fun _ _ h => of_event h
theorem eqhead (w : EqWrite) : Statement (.eqhead w) := fun _ _ h => of_event h
theorem powerCompare (w : PowerSample) : Statement (.powerCompare w) := fun _ _ h => of_event h
theorem pwrcap (w : CapWrite) : Statement (.pwrcap w) := fun _ _ h => of_event h
theorem i3cRequest (w : I3cRequest) : Statement (.i3cRequest w) := fun _ _ h => of_event h
theorem fetchBlockFill (w : FetchFill) : Statement (.fetchBlockFill w) := fun _ _ h => of_event h
theorem peeridWrite (w : PeerWrite) : Statement (.peeridWrite w) := fun _ _ h => of_event h
theorem shutterEntryWrite (w : ShutterWrite) : Statement (.shutterEntryWrite w) := fun _ _ h => of_event h
theorem queueRegistration (w : QueueReg) : Statement (.queueRegistration w) := fun _ _ h => of_event h
theorem hostSnoop (w : SnoopLine) : Statement (.hostSnoop w) := fun _ _ h => of_event h
theorem tdispRequest (w : TdispRequest) : Statement (.tdispRequest w) := fun _ _ h => of_event h
theorem bar0Write (w : Bar0Write) : Statement (.bar0Write w) := fun _ _ h => of_event h

end Sys2Proof.Laws.Fits
end

