-- ==== Sys2Proof/Tests/Slice0.lean ====
section
/-! SUPPORT. Tests: words written out from the spec's encodings decode to what they stand for, encodings that the spec does not assign are refused, single
words give the results of the spec's examples, and every statement's hypotheses are met together by a concrete state. -/

namespace Sys2Proof.Tests

open Sys2Proof Sys2Proof.Machine

set_option Elab.async false

/-! Small states. -/

/-- The state that a word leaves, or, where it leaves none, the state before it. -/
def after (i : Instr) (s : State) : State :=
  match exec i s with
  | .next t => t
  | _ => s

/-- A state follows. -/
def goesOn (o : Host.Outcome State Fault Refusal) : Bool :=
  match o with
  | .next _ => true
  | _ => false

/-- A computation succeeds with a value of which `p` holds. -/
def okWith {ε α : Type} (x : Except ε α) (p : α → Bool) : Bool :=
  match x with
  | .ok a => p a
  | .error _ => false

/-- A value is there, and `p` holds of it. -/
def someWith {α : Type} (x : Option α) (p : α → Bool) : Bool :=
  match x with
  | some a => p a
  | none => false

/-- Context L of core 0 runs at VA 0 of partition 0, with these registers; its first page is device memory from PA 0. -/
def cx (g : Tab Word) : State := modCore (placeCtx 0 State.reset) 0 fun k => { k with l := { k.l with g := g } }

/-- The same with privilege. -/
def px (g : Tab Word) : State := modCore (cx g) 0 fun k => { k with l := { k.l with priv := true } }

/-- A word of three registers: g3 from g1 and g2. -/
def w312 : G3 := ⟨false, 0, 3, 1, 2⟩
/-- A word of two registers: g3 from g1. -/
def w31 : G2 := ⟨false, 0, 3, 1⟩
/-- A word of no register. -/
def w0 : S0W := ⟨0⟩

/-! Decoding: words assembled from the layouts of the spec. -/

/-- MAJ 0x01, MIN as R52. -/
theorem test_decode_alu_1 :
    decodeD 0x07531F00 = some (.add ⟨true, 5, 9, 17, 30⟩) ∧
    decodeD 0x07531F01 = some (.sub ⟨true, 5, 9, 17, 30⟩) ∧
    decodeD 0x07531F02 = some (.and ⟨true, 5, 9, 17, 30⟩) ∧
    decodeD 0x07531F03 = some (.or ⟨true, 5, 9, 17, 30⟩) ∧
    decodeD 0x07531F04 = some (.xor ⟨true, 5, 9, 17, 30⟩) ∧
    decodeD 0x07531F05 = some (.andn ⟨true, 5, 9, 17, 30⟩) ∧
    decodeD 0x07531F06 = some (.shl ⟨true, 5, 9, 17, 30⟩) ∧
    decodeD 0x07531F07 = some (.shr ⟨true, 5, 9, 17, 30⟩) ∧
    decodeD 0x07531F08 = some (.sra ⟨true, 5, 9, 17, 30⟩) ∧
    decodeD 0x07531F09 = some (.rol ⟨true, 5, 9, 17, 30⟩) ∧
    decodeD 0x07531F0A = some (.mul ⟨true, 5, 9, 17, 30⟩) ∧
    decodeD 0x07531F0B = some (.mulh ⟨true, 5, 9, 17, 30⟩) ∧
    decodeD 0x07531F0C = some (.mulhu ⟨true, 5, 9, 17, 30⟩) ∧
    decodeD 0x07531F0D = some (.madd ⟨true, 5, 9, 17, 30⟩) := by decide

/-- MAJ 0x01, MIN as R52. -/
theorem test_decode_alu_2 :
    decodeD 0x07531F0E = some (.div ⟨true, 5, 9, 17, 30⟩) ∧
    decodeD 0x07531F0F = some (.divu ⟨true, 5, 9, 17, 30⟩) ∧
    decodeD 0x07531F10 = some (.rem ⟨true, 5, 9, 17, 30⟩) ∧
    decodeD 0x07531F11 = some (.remu ⟨true, 5, 9, 17, 30⟩) ∧
    decodeD 0x07531F12 = some (.min ⟨true, 5, 9, 17, 30⟩) ∧
    decodeD 0x07531F13 = some (.max ⟨true, 5, 9, 17, 30⟩) ∧
    decodeD 0x07531F14 = some (.minu ⟨true, 5, 9, 17, 30⟩) ∧
    decodeD 0x07531F15 = some (.maxu ⟨true, 5, 9, 17, 30⟩) ∧
    decodeD 0x07531016 = some (.clz ⟨true, 5, 9, 17⟩) ∧
    decodeD 0x07531017 = some (.ctz ⟨true, 5, 9, 17⟩) ∧
    decodeD 0x07531018 = some (.popc ⟨true, 5, 9, 17⟩) ∧
    decodeD 0x07531119 = some (.sext ⟨true, 5, 9, 17, 2⟩) ∧
    decodeD 0x0753111A = some (.zext ⟨true, 5, 9, 17, 2⟩) ∧
    decodeD 0x0753101B = some (.bswap ⟨true, 5, 9, 17⟩) := by decide

/-- RI and RL. -/
theorem test_decode_immediates :
    decodeD 0x089318A5 = some (.addi ⟨false, 2, 9, 17, 0x8A5⟩) ∧
    decodeD 0x0C9318A5 = some (.andi ⟨false, 2, 9, 17, 0x8A5⟩) ∧
    decodeD 0x109318A5 = some (.ori ⟨false, 2, 9, 17, 0x8A5⟩) ∧
    decodeD 0x149318A5 = some (.xori ⟨false, 2, 9, 17, 0x8A5⟩) ∧
    decodeD 0x1C9318A5 = some (.muli ⟨false, 2, 9, 17, 0x8A5⟩) ∧
    decodeD 0x18931029 = some (.shli ⟨false, 2, 9, 17, 41⟩) ∧
    decodeD 0x18931429 = some (.shri ⟨false, 2, 9, 17, 41⟩) ∧
    decodeD 0x18931829 = some (.srai ⟨false, 2, 9, 17, 41⟩) ∧
    decodeD 0x18931C29 = some (.roli ⟨false, 2, 9, 17, 41⟩) ∧
    decodeD 0x2253ABCD = some (.ldi ⟨true, 1, 9, 0x1ABCD⟩) ∧
    decodeD 0x2652ABCD = some (.ldhi ⟨true, 1, 9, 0xABCD⟩) ∧
    decodeD 0x3ED2000A = some (.mfc ⟨true, 3, 9, 0x00A⟩) ∧
    decodeD 0x40C11001 = some (.mtc ⟨3, 17, 1⟩) := by decide

/-- CMP, CMPI, PL, PXFER, SEL. -/
theorem test_decode_predicates :
    decodeD 0x292D1F60 = some (.cmp ⟨false, 4, 5, 2, 17, 30, 6⟩) ∧
    decodeD 0x2F2F1FA5 = some (.cmpi ⟨true, 4, 5, 3, 17, 7, 0x1A5⟩) ∧
    decodeD 0x32756000 = some (.plogAnd ⟨true, 1, 6, 5, 3⟩) ∧
    decodeD 0x32756400 = some (.plogOr ⟨true, 1, 6, 5, 3⟩) ∧
    decodeD 0x32756800 = some (.plogXor ⟨true, 1, 6, 5, 3⟩) ∧
    decodeD 0x32756C00 = some (.plogAndn ⟨true, 1, 6, 5, 3⟩) ∧
    decodeD 0x32757000 = some (.plogOrn ⟨true, 1, 6, 5, 3⟩) ∧
    decodeD 0x32757400 = some (.plogNand ⟨true, 1, 6, 5, 3⟩) ∧
    decodeD 0x32757800 = some (.plogNor ⟨true, 1, 6, 5, 3⟩) ∧
    decodeD 0x32757C00 = some (.plogXnor ⟨true, 1, 6, 5, 3⟩) ∧
    decodeD 0x36411000 = some (.pset ⟨true, 1, 17⟩) ∧
    decodeD 0x36520001 = some (.pget ⟨true, 1, 9⟩) ∧
    decodeD 0x3A531F50 = some (.sel ⟨true, 1, 9, 17, 30, 5⟩) := by decide

/-- M, A and the G3 accesses. -/
theorem test_decode_memory_1 :
    decodeD 0x469318D5 = some (.ld ⟨true, 2, 9, 17, 2, 0, true, 0x55⟩) ∧
    decodeD 0x48931D55 = some (.st ⟨2, 9, 17, 3, 1, 0x55⟩) ∧
    decodeD 0x4C931F1B = some (.ldx ⟨false, 2, 9, 17, 30, true, 2, 3⟩) ∧
    decodeD 0x50931F06 = some (.stx ⟨2, 9, 17, 30, 1, 2⟩) ∧
    decodeD 0x56931F03 = some (.ldg ⟨true, 2, 9, 17, 30, 3⟩) ∧
    decodeD 0x5C81142A = some (.pref ⟨2, 17, 1, 0x2A⟩) ∧
    decodeD 0x60931F00 = some (.bpref ⟨2, 9, 17, 30⟩) ∧
    decodeD 0x58931F04 = some (.atomAdd ⟨2, 9, 17, 30, 4⟩) ∧
    decodeD 0x58931F0C = some (.atomAnd ⟨2, 9, 17, 30, 4⟩) ∧
    decodeD 0x58931F14 = some (.atomOr ⟨2, 9, 17, 30, 4⟩) ∧
    decodeD 0x58931F1C = some (.atomXor ⟨2, 9, 17, 30, 4⟩) ∧
    decodeD 0x58931F24 = some (.atomMin ⟨2, 9, 17, 30, 4⟩) ∧
    decodeD 0x58931F2C = some (.atomMax ⟨2, 9, 17, 30, 4⟩) ∧
    decodeD 0x58931F34 = some (.atomMinu ⟨2, 9, 17, 30, 4⟩) := by decide

/-- M, A and the G3 accesses. -/
theorem test_decode_memory_2 :
    decodeD 0x58931F3C = some (.atomMaxu ⟨2, 9, 17, 30, 4⟩) ∧
    decodeD 0x58931F44 = some (.atomSwap ⟨2, 9, 17, 30, 4⟩) ∧
    decodeD 0x58931F4C = some (.atomCas ⟨2, 9, 17, 30, 4⟩) := by decide

/-- B, J and S. -/
theorem test_decode_control_1 :
    decodeD 0x646EABCD = some (.br ⟨1, 5, true, 0x2ABCD⟩) ∧
    decodeD 0x686ABCDE = some (.jmp ⟨1, 0x2ABCDE⟩) ∧
    decodeD 0x6C6ABCDE = some (.call ⟨1, 0x2ABCDE⟩) ∧
    decodeD 0x70411000 = some (.jmpr ⟨1, 17⟩) ∧
    decodeD 0x74411000 = some (.callr ⟨1, 17⟩) ∧
    decodeD 0x01800000 = some (.nop ⟨6⟩) ∧
    decodeD 0x01810000 = some (.exit ⟨6⟩) ∧
    decodeD 0x01820000 = some (.yield ⟨6⟩) ∧
    decodeD 0x01830000 = some (.mark ⟨6⟩) ∧
    decodeD 0x01840000 = some (.wfe ⟨6⟩) ∧
    decodeD 0x01870000 = some (.eret ⟨6⟩) ∧
    decodeD 0x01880000 = some (.uiret ⟨6⟩) ∧
    decodeD 0x01890000 = some (.ret ⟨6⟩) ∧
    decodeD 0x01850005 = some (.sev ⟨6, 5⟩) := by decide

/-- B, J and S. -/
theorem test_decode_control_2 :
    decodeD 0x0186BEEF = some (.trapWord ⟨6, 0xBEEF⟩) ∧
    decodeD 0x018BBEEF = some (.bkpt ⟨6, 0xBEEF⟩) ∧
    decodeD 0x018C0011 = some (.tlbinv ⟨6, 17⟩) ∧
    decodeD 0x018A0050 = some (.fenceFull ⟨6, 5⟩) ∧
    decodeD 0x018A0051 = some (.fenceAcq ⟨6, 5⟩) ∧
    decodeD 0x018A0052 = some (.fenceRel ⟨6, 5⟩) ∧
    decodeD 0x018A0053 = some (.fenceEng ⟨6, 5⟩) ∧
    decodeD 0x018D0450 = some (.cacheInv ⟨6, 17, 1⟩) ∧
    decodeD 0x018D0451 = some (.cacheClean ⟨6, 17, 1⟩) ∧
    decodeD 0x018D0452 = some (.cacheFlush ⟨6, 17, 1⟩) ∧
    decodeD 0x018D0013 = some (.cacheInvall ⟨6, 1⟩) ∧
    decodeD 0x018D0014 = some (.cacheCleanall ⟨6, 1⟩) := by decide

/-- SEM to HALO, RT. -/
theorem test_decode_sync_1 :
    decodeD 0x78C11F00 = some (.semAdd ⟨3, 17, 30⟩) ∧
    decodeD 0x78C11F01 = some (.semWait ⟨3, 17, 30⟩) ∧
    decodeD 0x78D31F02 = some (.semTry ⟨3, 9, 17, 30⟩) ∧
    decodeD 0x78D31003 = some (.semRd ⟨3, 9, 17⟩) ∧
    decodeD 0x78C11F04 = some (.semSet ⟨3, 17, 30⟩) ∧
    decodeD 0x7CC11F00 = some (.sig ⟨3, 17, 30⟩) ∧
    decodeD 0x80D31F00 = some (.barArr ⟨3, 9, 17, 30⟩) ∧
    decodeD 0x80C11F01 = some (.barWait ⟨3, 17, 30⟩) ∧
    decodeD 0x80D31002 = some (.tbarArr ⟨3, 9, 17⟩) ∧
    decodeD 0x80C11F03 = some (.tbarExp ⟨3, 17, 30⟩) ∧
    decodeD 0x80D31F04 = some (.tbarWait ⟨3, 9, 17, 30⟩) ∧
    decodeD 0x88C11000 = some (.lnchMe ⟨3, 17⟩) ∧
    decodeD 0x88C11001 = some (.lnchVe ⟨3, 17⟩) ∧
    decodeD 0x8CD31F00 = some (.cpy ⟨3, 9, 17, 30⟩) := by decide

/-- SEM to HALO, RT. -/
theorem test_decode_sync_2 :
    decodeD 0x90D31F00 = some (.spawn ⟨3, 9, 17, 30⟩) ∧
    decodeD 0x90D20F00 = some (.spawnTake ⟨3, 9, 30⟩) ∧
    decodeD 0x94C11F00 = some (.hstep ⟨3, 17, 30⟩) ∧
    decodeD 0x94C11F01 = some (.hwait ⟨3, 17, 30⟩) ∧
    decodeD 0x94D31F02 = some (.hqry ⟨3, 9, 17, 30⟩) ∧
    decodeD 0x84D20AC0 = some (.twaitf ⟨3, 9, 0x2B⟩) ∧
    decodeD 0x84D20AC1 = some (.twaite ⟨3, 9, 0x2B⟩) ∧
    decodeD 0x84D31AC2 = some (.tsetf ⟨3, 9, 17, 0x2B⟩) ∧
    decodeD 0x84C00AC3 = some (.tsete ⟨3, 0x2B⟩) ∧
    decodeD 0x84D20AC4 = some (.qwaitf ⟨3, 9, 0x2B⟩) ∧
    decodeD 0x84D20AC5 = some (.qwaite ⟨3, 9, 0x2B⟩) ∧
    decodeD 0x84D31AC6 = some (.qpush ⟨3, 9, 17, 0x2B⟩) ∧
    decodeD 0x84C00AC7 = some (.qpop ⟨3, 0x2B⟩) ∧
    decodeD 0x84C11AC8 = some (.qcfg ⟨3, 17, 0x2B⟩) := by decide

/-- template index 63, R65. -/
theorem test_decode_engine_control :
    decodeEc 0xFC000036 = some (.enop ⟨true, 5, true, false⟩) ∧
    decodeEc 0xFC100036 = some (.eend ⟨true, 5, true, false⟩) ∧
    decodeEc 0xFC202976 = some (.emark ⟨0xA5, ⟨true, 5, true, false⟩⟩) ∧
    decodeEc 0xFCC00036 = some (.efence ⟨true, 5, true, false⟩) ∧
    decodeEc 0xFC9294F6 = some (.esem ⟨0xA5, 3, ⟨true, 5, true, false⟩⟩) ∧
    decodeEc 0xFCA00F76 = some (.tpld ⟨61, ⟨true, 5, true, false⟩⟩) ∧
    decodeEc 0xFCB01B76 = some (.lexit ⟨6, true, 5, ⟨true, 5, true, false⟩⟩) ∧
    decodeEc 0xFC300AF6 = some (.waitf ⟨0x2B, ⟨true, 5, true, false⟩⟩) ∧
    decodeEc 0xFC400AF6 = some (.waite ⟨0x2B, ⟨true, 5, true, false⟩⟩) ∧
    decodeEc 0xFC500AF6 = some (.setf ⟨0x2B, ⟨true, 5, true, false⟩⟩) ∧
    decodeEc 0xFC600AF6 = some (.sete ⟨0x2B, ⟨true, 5, true, false⟩⟩) ∧
    decodeEc 0xFC700AF6 = some (.qpope ⟨0x2B, ⟨true, 5, true, false⟩⟩) ∧
    decodeEc 0xFC800AF6 = some (.qpushe ⟨0x2B, ⟨true, 5, true, false⟩⟩) := by decide

/-- R357, and ops of the worked example there. -/
theorem test_decode_grailo_1 :
    decodeGr 0x00000000 = some (.grailoEnd) ∧
    decodeGr 0x065B4000 = some (.grailoAdd ⟨9, 6, 13⟩) ∧
    decodeGr 0x0A5B4000 = some (.grailoSub ⟨9, 6, 13⟩) ∧
    decodeGr 0x0E5B4000 = some (.grailoAnd ⟨9, 6, 13⟩) ∧
    decodeGr 0x125B4000 = some (.grailoOr ⟨9, 6, 13⟩) ∧
    decodeGr 0x165B4000 = some (.grailoXor ⟨9, 6, 13⟩) ∧
    decodeGr 0x1A582ABC = some (.grailoAddi ⟨9, 6, 0x2ABC⟩) ∧
    decodeGr 0x1E580029 = some (.grailoShli ⟨9, 6, 41⟩) ∧
    decodeGr 0x22580029 = some (.grailoShri ⟨9, 6, 41⟩) ∧
    decodeGr 0x26402ABC = some (.grLdk ⟨9, 0x2ABC⟩) ∧
    decodeGr 0x2A58EABC = some (.grLdm ⟨9, 6, 3, 0x2ABC⟩) ∧
    decodeGr 0x2E58EABC = some (.grStm ⟨9, 6, 3, 0x2ABC⟩) ∧
    decodeGr 0x301803AB = some (.grBrz ⟨6, 0x3AB⟩) ∧
    decodeGr 0x341803AB = some (.grBrnz ⟨6, 0x3AB⟩) := by decide

/-- R357, and ops of the worked example there. -/
theorem test_decode_grailo_2 :
    decodeGr 0x38183D9B = some (.grLoop ⟨6, 61, 0x9B⟩) ∧
    decodeGr 0x3E580000 = some (.grEmit ⟨9, 6⟩) ∧
    decodeGr 0x40002ABC = some (.grFault ⟨0x2ABC⟩) ∧
    decodeGr 0x1CC40020 = some (.grailoShli ⟨3, 1, 32⟩) ∧
    decodeGr 0x380C0210 = some (.grLoop ⟨3, 2, 16⟩) ∧
    decodeGr 0x3D080000 = some (.grEmit ⟨4, 2⟩) := by decide

/-- templates of R63 with the OPs of R69. -/
theorem test_decode_vector_1 :
    decodeVe 0x01430182FF7148000000000000000000 ⟨true, 5, true, false⟩ = some (.vadd ⟨0x43, 0x01, 0x82, 0xFF, 3, true, 1, 2, 1, 0x00, 0x0, 0x0, 0x0, ⟨true, 5, true, false⟩⟩) ∧
    decodeVe 0x02430182FF7148000000000000000000 ⟨true, 5, true, false⟩ = some (.vsub ⟨0x43, 0x01, 0x82, 0xFF, 3, true, 1, 2, 1, 0x00, 0x0, 0x0, 0x0, ⟨true, 5, true, false⟩⟩) ∧
    decodeVe 0x03430182FF7148000000000000000000 ⟨true, 5, true, false⟩ = some (.vmul ⟨0x43, 0x01, 0x82, 0xFF, 3, true, 1, 2, 1, 0x00, 0x0, 0x0, 0x0, ⟨true, 5, true, false⟩⟩) ∧
    decodeVe 0x0B430182FF7148000000000000000000 ⟨true, 5, true, false⟩ = some (.vdiv ⟨0x43, 0x01, 0x82, 0xFF, 3, true, 1, 2, 1, 0x00, 0x0, 0x0, 0x0, ⟨true, 5, true, false⟩⟩) ∧
    decodeVe 0x04430182527148000000000000000000 ⟨true, 5, true, false⟩ = some (.vfma ⟨0x43, 0x01, 0x82, 0x52, 3, true, 1, 2, 1, 0x00, 0x0, 0x0, 0x0, ⟨true, 5, true, false⟩⟩) ∧
    decodeVe 0x05430182527148000000000000000000 ⟨true, 5, true, false⟩ = some (.vfms ⟨0x43, 0x01, 0x82, 0x52, 3, true, 1, 2, 1, 0x00, 0x0, 0x0, 0x0, ⟨true, 5, true, false⟩⟩) ∧
    decodeVe 0x06430182527148000000000000000000 ⟨true, 5, true, false⟩ = some (.vfnma ⟨0x43, 0x01, 0x82, 0x52, 3, true, 1, 2, 1, 0x00, 0x0, 0x0, 0x0, ⟨true, 5, true, false⟩⟩) ∧
    decodeVe 0x07430182FF7500000000000000000000 ⟨true, 5, true, false⟩ = some (.vmin ⟨0x43, 0x01, 0x82, 0xFF, 3, true, 5, 0, 0, 0x00, 0x0, 0x0, 0x0, ⟨true, 5, true, false⟩⟩) ∧
    decodeVe 0x08430182FF7500000000000000000000 ⟨true, 5, true, false⟩ = some (.vmax ⟨0x43, 0x01, 0x82, 0xFF, 3, true, 5, 0, 0, 0x00, 0x0, 0x0, 0x0, ⟨true, 5, true, false⟩⟩) ∧
    decodeVe 0x094301FFFF7500000000000000000000 ⟨true, 5, true, false⟩ = some (.vabs ⟨0x43, 0x01, 0xFF, 0xFF, 3, true, 5, 0, 0, 0x00, 0x0, 0x0, 0x0, ⟨true, 5, true, false⟩⟩) ∧
    decodeVe 0x0A4301FFFF7500000000000000000000 ⟨true, 5, true, false⟩ = some (.vneg ⟨0x43, 0x01, 0xFF, 0xFF, 3, true, 5, 0, 0, 0x00, 0x0, 0x0, 0x0, ⟨true, 5, true, false⟩⟩) ∧
    decodeVe 0x0C4301FFFF7148000000000000000000 ⟨true, 5, true, false⟩ = some (.vsqrt ⟨0x43, 0x01, 0xFF, 0xFF, 3, true, 1, 2, 1, 0x00, 0x0, 0x0, 0x0, ⟨true, 5, true, false⟩⟩) ∧
    decodeVe 0x0D4301FFFF7148000000000000000000 ⟨true, 5, true, false⟩ = some (.vrcp ⟨0x43, 0x01, 0xFF, 0xFF, 3, true, 1, 2, 1, 0x00, 0x0, 0x0, 0x0, ⟨true, 5, true, false⟩⟩) ∧
    decodeVe 0x0E4301FFFF7148000000000000000000 ⟨true, 5, true, false⟩ = some (.vrsq ⟨0x43, 0x01, 0xFF, 0xFF, 3, true, 1, 2, 1, 0x00, 0x0, 0x0, 0x0, ⟨true, 5, true, false⟩⟩) := by decide

/-- templates of R63 with the OPs of R69. -/
theorem test_decode_vector_2 :
    decodeVe 0x10430182FF7500000000000000000000 ⟨true, 5, true, false⟩ = some (.vand ⟨0x43, 0x01, 0x82, 0xFF, 3, true, 5, 0, 0, 0x00, 0x0, 0x0, 0x0, ⟨true, 5, true, false⟩⟩) ∧
    decodeVe 0x11430182FF7500000000000000000000 ⟨true, 5, true, false⟩ = some (.vor ⟨0x43, 0x01, 0x82, 0xFF, 3, true, 5, 0, 0, 0x00, 0x0, 0x0, 0x0, ⟨true, 5, true, false⟩⟩) ∧
    decodeVe 0x12430182FF7500000000000000000000 ⟨true, 5, true, false⟩ = some (.vxor ⟨0x43, 0x01, 0x82, 0xFF, 3, true, 5, 0, 0, 0x00, 0x0, 0x0, 0x0, ⟨true, 5, true, false⟩⟩) ∧
    decodeVe 0x13430182FF7500000000000000000000 ⟨true, 5, true, false⟩ = some (.vshl ⟨0x43, 0x01, 0x82, 0xFF, 3, true, 5, 0, 0, 0x00, 0x0, 0x0, 0x0, ⟨true, 5, true, false⟩⟩) ∧
    decodeVe 0x14430182FF7500000000000000000000 ⟨true, 5, true, false⟩ = some (.vshr ⟨0x43, 0x01, 0x82, 0xFF, 3, true, 5, 0, 0, 0x00, 0x0, 0x0, 0x0, ⟨true, 5, true, false⟩⟩) ∧
    decodeVe 0x15430182FF7500000000000000000000 ⟨true, 5, true, false⟩ = some (.vsra ⟨0x43, 0x01, 0x82, 0xFF, 3, true, 5, 0, 0, 0x00, 0x0, 0x0, 0x0, ⟨true, 5, true, false⟩⟩) ∧
    decodeVe 0x16430182FF7500000000000000000000 ⟨true, 5, true, false⟩ = some (.vmulh ⟨0x43, 0x01, 0x82, 0xFF, 3, true, 5, 0, 0, 0x00, 0x0, 0x0, 0x0, ⟨true, 5, true, false⟩⟩) ∧
    decodeVe 0x18620182FF7500000004000000000000 ⟨true, 5, true, false⟩ = some (.vcmp ⟨0x62, 0x01, 0x82, 0xFF, 3, true, 5, 0, 0, 0x00, 0x4, 0x0, 0x0, ⟨true, 5, true, false⟩⟩) ∧
    decodeVe 0x19430182650500000000000000000000 ⟨true, 5, true, false⟩ = some (.vsel ⟨0x43, 0x01, 0x82, 0x65, 0, false, 5, 0, 0, 0x00, 0x0, 0x0, 0x0, ⟨true, 5, true, false⟩⟩) ∧
    decodeVe 0x1A6201FFFF7100000155000000000000 ⟨true, 5, true, false⟩ = some (.vclass ⟨0x62, 0x01, 0xFF, 0xFF, 3, true, 1, 0, 0, 0x00, 0x155, 0x0, 0x0, ⟨true, 5, true, false⟩⟩) ∧
    decodeVe 0x204301FFFF7248010001000000000000 ⟨true, 5, true, false⟩ = some (.vcvt ⟨0x43, 0x01, 0xFF, 0xFF, 3, true, 2, 2, 1, 0x01, 0x1, 0x0, 0x0, ⟨true, 5, true, false⟩⟩) ∧
    decodeVe 0x214301FFFF0840010002000000000000 ⟨true, 5, true, false⟩ = some (.vqmx ⟨0x43, 0x01, 0xFF, 0xFF, 0, false, 8, 2, 0, 0x01, 0x2, 0x0, 0x0, ⟨true, 5, true, false⟩⟩) ∧
    decodeVe 0x224301FFFF0248010008000000000000 ⟨true, 5, true, false⟩ = some (.vdqmx ⟨0x43, 0x01, 0xFF, 0xFF, 0, false, 2, 2, 1, 0x01, 0x8, 0x0, 0x0, ⟨true, 5, true, false⟩⟩) ∧
    decodeVe 0x23430102FF0200010000000000000000 ⟨true, 5, true, false⟩ = some (.vpack ⟨0x43, 0x01, 0x02, 0xFF, 0, false, 2, 0, 0, 0x01, 0x0, 0x0, 0x0, ⟨true, 5, true, false⟩⟩) := by decide

/-- templates of R63 with the OPs of R69. -/
theorem test_decode_vector_3 :
    decodeVe 0x24430102FF0200010000000000000000 ⟨true, 5, true, false⟩ = some (.vunpk ⟨0x43, 0x01, 0x02, 0xFF, 0, false, 2, 0, 0, 0x01, 0x0, 0x0, 0x0, ⟨true, 5, true, false⟩⟩) ∧
    decodeVe 0x284301FFFF7148000000000000000000 ⟨true, 5, true, false⟩ = some (.vrsum ⟨0x43, 0x01, 0xFF, 0xFF, 3, true, 1, 2, 1, 0x00, 0x0, 0x0, 0x0, ⟨true, 5, true, false⟩⟩) ∧
    decodeVe 0x294301FFFF7500000000000000000000 ⟨true, 5, true, false⟩ = some (.vrmax ⟨0x43, 0x01, 0xFF, 0xFF, 3, true, 5, 0, 0, 0x00, 0x0, 0x0, 0x0, ⟨true, 5, true, false⟩⟩) ∧
    decodeVe 0x2A4301FFFF7500000000000000000000 ⟨true, 5, true, false⟩ = some (.vrmin ⟨0x43, 0x01, 0xFF, 0xFF, 3, true, 5, 0, 0, 0x00, 0x0, 0x0, 0x0, ⟨true, 5, true, false⟩⟩) ∧
    decodeVe 0x2B4301FFFF7148000000000000000000 ⟨true, 5, true, false⟩ = some (.vscan ⟨0x43, 0x01, 0xFF, 0xFF, 3, true, 1, 2, 1, 0x00, 0x0, 0x0, 0x0, ⟨true, 5, true, false⟩⟩) ∧
    decodeVe 0x30430102FF7500000000000000000000 ⟨true, 5, true, false⟩ = some (.vperm ⟨0x43, 0x01, 0x02, 0xFF, 3, true, 5, 0, 0, 0x00, 0x0, 0x0, 0x0, ⟨true, 5, true, false⟩⟩) ∧
    decodeVe 0x314301FFFF7500000007000000000000 ⟨true, 5, true, false⟩ = some (.vbcast ⟨0x43, 0x01, 0xFF, 0xFF, 3, true, 5, 0, 0, 0x00, 0x7, 0x0, 0x0, ⟨true, 5, true, false⟩⟩) ∧
    decodeVe 0x32430102FF750000FFF9000000000000 ⟨true, 5, true, false⟩ = some (.vslide ⟨0x43, 0x01, 0x02, 0xFF, 3, true, 5, 0, 0, 0x00, 0xFFF9, 0x0, 0x0, ⟨true, 5, true, false⟩⟩) ∧
    decodeVe 0x334301FFFF7500000000000000000000 ⟨true, 5, true, false⟩ = some (.vmov ⟨0x43, 0x01, 0xFF, 0xFF, 3, true, 5, 0, 0, 0x00, 0x0, 0x0, 0x0, ⟨true, 5, true, false⟩⟩) ∧
    decodeVe 0x3443FFFFFF750000BEEFDEAD00000000 ⟨true, 5, true, false⟩ = some (.vldi ⟨0x43, 0xFF, 0xFF, 0xFF, 3, true, 5, 0, 0, 0x00, 0xBEEF, 0xDEAD, 0x0, ⟨true, 5, true, false⟩⟩) ∧
    decodeVe 0x384301FFFF7148000003000000000000 ⟨true, 5, true, false⟩ = some (.vtint ⟨0x43, 0x01, 0xFF, 0xFF, 3, true, 1, 2, 1, 0x00, 0x3, 0x0, 0x0, ⟨true, 5, true, false⟩⟩) ∧
    decodeVe 0x39FFFFFFFF0000000005000060001230 ⟨true, 5, true, false⟩ = some (.vtld ⟨0xFF, 0xFF, 0xFF, 0xFF, 0, false, 0, 0, 0, 0x00, 0x5, 0x0, 0x60001230, ⟨true, 5, true, false⟩⟩) ∧
    decodeVe 0x4043FFFFFF7500000000000040001240 ⟨true, 5, true, false⟩ = some (.vld ⟨0x43, 0xFF, 0xFF, 0xFF, 3, true, 5, 0, 0, 0x00, 0x0, 0x0, 0x40001240, ⟨true, 5, true, false⟩⟩) ∧
    decodeVe 0x41FF01FFFF7500000000000040001240 ⟨true, 5, true, false⟩ = some (.vst ⟨0xFF, 0x01, 0xFF, 0xFF, 3, true, 5, 0, 0, 0x00, 0x0, 0x0, 0x40001240, ⟨true, 5, true, false⟩⟩) := by decide

/-- templates of R63 with the OPs of R69. -/
theorem test_decode_vector_4 :
    decodeVe 0x4243FFFFFF7500000000FFF840001240 ⟨true, 5, true, false⟩ = some (.vlds ⟨0x43, 0xFF, 0xFF, 0xFF, 3, true, 5, 0, 0, 0x00, 0x0, 0xFFF8, 0x40001240, ⟨true, 5, true, false⟩⟩) ∧
    decodeVe 0x43FF01FFFF7500000000FFF840001240 ⟨true, 5, true, false⟩ = some (.vsts ⟨0xFF, 0x01, 0xFF, 0xFF, 3, true, 5, 0, 0, 0x00, 0x0, 0xFFF8, 0x40001240, ⟨true, 5, true, false⟩⟩) ∧
    decodeVe 0x4443FF02FF7500000000000040001240 ⟨true, 5, true, false⟩ = some (.vgath ⟨0x43, 0xFF, 0x02, 0xFF, 3, true, 5, 0, 0, 0x00, 0x0, 0x0, 0x40001240, ⟨true, 5, true, false⟩⟩) ∧
    decodeVe 0x45FF0102FF7500000000000040001240 ⟨true, 5, true, false⟩ = some (.vscat ⟨0xFF, 0x01, 0x02, 0xFF, 3, true, 5, 0, 0, 0x00, 0x0, 0x0, 0x40001240, ⟨true, 5, true, false⟩⟩) ∧
    decodeVe 0x46432BFFFF7500120002000000000000 ⟨true, 5, true, false⟩ = some (.vldt ⟨0x43, 0x2B, 0xFF, 0xFF, 3, true, 5, 0, 0, 0x12, 0x2, 0x0, 0x0, ⟨true, 5, true, false⟩⟩) ∧
    decodeVe 0x472B01FFFF7500120002000000000000 ⟨true, 5, true, false⟩ = some (.vstt ⟨0x2B, 0x01, 0xFF, 0xFF, 3, true, 5, 0, 0, 0x12, 0x2, 0x0, 0x0, ⟨true, 5, true, false⟩⟩) ∧
    decodeVe 0x4843FFFF827500060006000240001240 ⟨true, 5, true, false⟩ = some (.vldg ⟨0x43, 0xFF, 0xFF, 0x82, 3, true, 5, 0, 0, 0x06, 0x6, 0x2, 0x40001240, ⟨true, 5, true, false⟩⟩) ∧
    decodeVe 0x49FF01FFFF7500000006000040001240 ⟨true, 5, true, false⟩ = some (.vstg ⟨0xFF, 0x01, 0xFF, 0xFF, 3, true, 5, 0, 0, 0x00, 0x6, 0x0, 0x40001240, ⟨true, 5, true, false⟩⟩) ∧
    decodeVe 0x50050102FF0100000002000000000000 ⟨true, 5, true, false⟩ = some (.vdefer ⟨0x05, 0x01, 0x02, 0xFF, 0, false, 1, 0, 0, 0x00, 0x2, 0x0, 0x0, ⟨true, 5, true, false⟩⟩) ∧
    decodeVe 0x514305FFFF0100000004000000000000 ⟨true, 5, true, false⟩ = some (.vdrain ⟨0x43, 0x05, 0xFF, 0xFF, 0, false, 1, 0, 0, 0x00, 0x4, 0x0, 0x0, ⟨true, 5, true, false⟩⟩) ∧
    decodeVe 0x524305FFFF0500000000000000000000 ⟨true, 5, true, false⟩ = some (.vtqry ⟨0x43, 0x05, 0xFF, 0xFF, 0, false, 5, 0, 0, 0x00, 0x0, 0x0, 0x0, ⟨true, 5, true, false⟩⟩) ∧
    decodeVe 0x58626364FF0500000000000000000000 ⟨true, 5, true, false⟩ = some (.mand ⟨0x62, 0x63, 0x64, 0xFF, 0, false, 5, 0, 0, 0x00, 0x0, 0x0, 0x0, ⟨true, 5, true, false⟩⟩) ∧
    decodeVe 0x59626364FF0500000000000000000000 ⟨true, 5, true, false⟩ = some (.mor ⟨0x62, 0x63, 0x64, 0xFF, 0, false, 5, 0, 0, 0x00, 0x0, 0x0, 0x0, ⟨true, 5, true, false⟩⟩) ∧
    decodeVe 0x5A626364FF0500000000000000000000 ⟨true, 5, true, false⟩ = some (.mxor ⟨0x62, 0x63, 0x64, 0xFF, 0, false, 5, 0, 0, 0x00, 0x0, 0x0, 0x0, ⟨true, 5, true, false⟩⟩) := by decide

/-- templates of R63 with the OPs of R69. -/
theorem test_decode_vector_5 :
    decodeVe 0x5B6263FFFF0500000000000000000000 ⟨true, 5, true, false⟩ = some (.mnot ⟨0x62, 0x63, 0xFF, 0xFF, 0, false, 5, 0, 0, 0x00, 0x0, 0x0, 0x0, ⟨true, 5, true, false⟩⟩) ∧
    decodeVe 0x5C4363FFFF0500000000000000000000 ⟨true, 5, true, false⟩ = some (.mpopc ⟨0x43, 0x63, 0xFF, 0xFF, 0, false, 5, 0, 0, 0x00, 0x0, 0x0, 0x0, ⟨true, 5, true, false⟩⟩) ∧
    decodeVe 0x6043FFFFFF0500000003000000000000 ⟨true, 5, true, false⟩ = some (.vmbxRead ⟨0x43, 0xFF, 0xFF, 0xFF, 0, false, 5, 0, 0, 0x00, 0x3, 0x0, 0x0, ⟨true, 5, true, false⟩⟩) ∧
    decodeVe 0x60FF01FFFF0500010003000000000000 ⟨true, 5, true, false⟩ = some (.vmbxWrite ⟨0xFF, 0x01, 0xFF, 0xFF, 0, false, 5, 0, 0, 0x01, 0x3, 0x0, 0x0, ⟨true, 5, true, false⟩⟩) ∧
    decodeVe 0x380240FFFF0200000000000000000000 ⟨true, 5, true, false⟩ = some (.vtint ⟨0x02, 0x40, 0xFF, 0xFF, 0, false, 2, 0, 0, 0x00, 0x0, 0x0, 0x0, ⟨true, 5, true, false⟩⟩) := by decide

/-- templates with the OPs of R70. -/
theorem test_decode_matrix :
    decodeMe 0x01020506FF0900030040000000000000 ⟨true, 5, true, false⟩ = some (.mma ⟨0x02, 0x05, 0x06, 0xFF, 0, false, 9, 0, 0, 0x03, 0x40, 0x0, 0x0, ⟨true, 5, true, false⟩⟩) ∧
    decodeMe 0x022B0207FF0148000000000000000000 ⟨true, 5, true, false⟩ = some (.mdrn ⟨0x2B, 0x02, 0x07, 0xFF, 0, false, 1, 2, 1, 0x00, 0x0, 0x0, 0x0, ⟨true, 5, true, false⟩⟩) ∧
    decodeMe 0x032B02FFFF0B00000000000000000000 ⟨true, 5, true, false⟩ = some (.mdrnp ⟨0x2B, 0x02, 0xFF, 0xFF, 0, false, 11, 0, 0, 0x00, 0x0, 0x0, 0x0, ⟨true, 5, true, false⟩⟩) ∧
    decodeMe 0x04022BFFFF0B00000000000000000000 ⟨true, 5, true, false⟩ = some (.macld ⟨0x02, 0x2B, 0xFF, 0xFF, 0, false, 11, 0, 0, 0x00, 0x0, 0x0, 0x0, ⟨true, 5, true, false⟩⟩) ∧
    decodeMe 0x0502FFFFFF0000000000000000000000 ⟨true, 5, true, false⟩ = some (.mclr ⟨0x02, 0xFF, 0xFF, 0xFF, 0, false, 0, 0, 0, 0x00, 0x0, 0x0, 0x0, ⟨true, 5, true, false⟩⟩) ∧
    decodeMe 0x06FFFFFFFF0000000000000000000000 ⟨true, 5, true, false⟩ = some (.mcoma ⟨0xFF, 0xFF, 0xFF, 0xFF, 0, false, 0, 0, 0, 0x00, 0x0, 0x0, 0x0, ⟨true, 5, true, false⟩⟩) := by decide

/-! Witnesses: the hypotheses of each statement, met together by a concrete state. -/

/-- WordsRoundTrip: a control word, an engine control word, an op. -/
theorem witness_WordsRoundTrip :
    (wellFormed (.add w312) = true ∧ encode (.add w312) = some (32, 0x04061100)) ∧
    (wellFormed (.enop ⟨false, 0, false, false⟩) = true ∧ encode (.enop ⟨false, 0, false, false⟩) = some (32, 0xFC000000)) ∧
    (wellFormed (.grLdk ⟨1, 0x3FFF⟩) = true ∧ encode (.grLdk ⟨1, 0x3FFF⟩) = some (32, 0x24403FFF)) := by decide

/-- TemplatesRoundTrip: a template of each engine. -/
theorem witness_TemplatesRoundTrip :
    (wellFormed (.vadd ⟨1, 2, 3, 0xFF, 0, false, 1, 0, 0, 0, 0, 0, 0, ⟨false, 0, false, false⟩⟩) = true ∧
      encode (.vadd ⟨1, 2, 3, 0xFF, 0, false, 1, 0, 0, 0, 0, 0, 0, ⟨false, 0, false, false⟩⟩) =
        some (128, 0x01010203FF0100000000000000000000)) ∧
    (wellFormed (.mclr ⟨1, 0xFF, 0xFF, 0xFF, 0, false, 0, 0, 0, 0, 0, 0, 0, ⟨false, 0, false, false⟩⟩) = true ∧
      encode (.mclr ⟨1, 0xFF, 0xFF, 0xFF, 0, false, 0, 0, 0, 0, 0, 0, 0, ⟨false, 0, false, false⟩⟩) =
        some (128, 0x0501FFFFFF0000000000000000000000)) := by decide

/-- StepKeepsMemoryForm: a state with bytes listed, in which a step follows. -/
theorem witness_StepKeepsMemoryForm :
    Memory.wf (placeCtx 0x04061100 State.reset).mem = true ∧ (placeCtx 0x04061100 State.reset).mem ≠ [] ∧
      goesOn (step (placeCtx 0x04061100 State.reset)) = true := by decide +kernel

/-- StepRunsTheDecodedWord: a word that decodes; one of an unassigned major (63); an address that no table maps. -/
theorem witness_StepRunsTheDecodedWord :
    (let s := placeCtx 0x04061100 State.reset
     s.agenda = [] ∧ s.events = [] ∧ someWith (nextDue s) (fun d => d.ev == ⟨.ctx 0 .L, none⟩) = true ∧ boundaryRow s = none ∧
       okWith (fetchWord s) (fun r => r.1 == 0x04061100) = true ∧ decodeD 0x04061100 = some (.add w312)) ∧
    (let s := placeCtx 0xFC000000 State.reset
     someWith (nextDue s) (fun d => d.ev == ⟨.ctx 0 .L, none⟩) = true ∧ boundaryRow s = none ∧
       okWith (fetchWord s) (fun r => r.1 == 0xFC000000) = true ∧ decodeD 0xFC000000 = none) ∧
    (let s := modCore (cx []) 0 fun k => { k with utlb := [], icache := [] }
     someWith (nextDue s) (fun d => d.ev == ⟨.ctx 0 .L, none⟩) = true ∧ boundaryRow s = none ∧ okWith (fetchWord s) (fun _ => true) = false) := by
  decide +kernel

/-- FetchReadsTheBlock: the block cached; no block cached and no copy of the line. -/
theorem witness_FetchReadsTheBlock :
    okWith (fetchPa (curCtx (cx [])).pc (cx [])) (fun r => r.1 == 0 && (tget? (coreOf r.2 (curCore r.2)).icache 0).isSome) = true ∧
    (let s := modCore (cx []) 0 fun k => { k with icache := [] }
     okWith (fetchPa (curCtx s).pc s) (fun r => r.1 == 0 && (tget? (coreOf r.2 (curCore r.2)).icache 0).isNone && !hasBad r.2 0 4 &&
       (tget? (dieOf r.2 0).l2 0).isNone) = true) := by decide +kernel

/-- AluResults: sources and destination free, with a value, with zero, with a source that is g0 and a destination that is g0. -/
theorem witness_AluResults :
    Readable (cx [(1, 5), (2, 7)]) [1, 2] [3] ∧ Readable (cx []) [1, 2, 3] [3] ∧ Readable (cx []) [0, 0] [0] ∧
    (let x := reg (cx [(1, 5)]) 1
     x.toNat / 2^(63 - 61) = 1 ∧ x.toNat % 2^(0 + 1) = 2^0) ∧ reg (cx []) 1 = 0 := by
  unfold Readable FreeToRead reg; decide +kernel

/-- DivideResults: 7 / 2, with quotient 3 of two bits; a division by zero; (-2^63) / (-1), whose unsigned quotient is 0. -/
theorem witness_DivideResults :
    Readable (cx [(1, 7), (2, 2)]) [1, 2] [3] ∧ ((7 : Int).tdiv 2).natAbs < 2^2 ∧ 2^(2 - 1) ≤ ((7 : Int).tdiv 2).natAbs ∧
    (7 : Nat) / 2 < 2^2 ∧ 2^(2 - 1) ≤ (7 : Nat) / 2 ∧
    Readable (cx [(1, 7)]) [1, 2] [3] ∧ reg (cx [(1, 7)]) 2 = 0 ∧
    Readable (cx [(1, 0x8000000000000000), (2, 0xFFFFFFFFFFFFFFFF)]) [1, 2] [3] ∧
    reg (cx [(1, 0x8000000000000000), (2, 0xFFFFFFFFFFFFFFFF)]) 1 = 0x8000000000000000 ∧
    (0x8000000000000000 : Nat) / 0xFFFFFFFFFFFFFFFF < 2^0 := by
  unfold Readable FreeToRead reg; decide +kernel

/-- ImmediateResults and CsrReads: one source, or none, and a destination. -/
theorem witness_ImmediateResults : Readable (cx [(1, 5)]) [1] [3] ∧ Readable (cx [(1, 5)]) [] [3] ∧ Readable (cx [(3, 5)]) [3] [3] := by
  unfold Readable FreeToRead; decide +kernel

/-- CompareWords: two sources free; the conditions at equal operands (0, 3, 5, 7) and at 5 and 7 (1, 2, 4, 6), and one that fails. -/
theorem witness_CompareWords : Readable (cx [(1, 5), (2, 7)]) [1, 2] [] := by
  unfold Readable FreeToRead; decide +kernel
theorem witness_CompareWords_conditions :
    Condition 0 5 5 ∧ Condition 1 5 7 ∧ Condition 2 5 7 ∧ Condition 3 5 5 ∧ Condition 4 5 7 ∧ Condition 5 5 5 ∧ Condition 6 5 7 ∧
    Condition 7 0 0 ∧ ¬ Condition 0 5 7 := by
  unfold Condition
  refine ⟨?_, ?_, ?_, ?_, ?_, ?_, ?_, ?_, ?_⟩ <;> decide

/-- PredicateLogic: a word of major 0x0C with a nonzero low bit. PredicateGroupAndSelect: PGET, PSET and SEL can read. -/
theorem witness_PredicateWords :
    (0x30000001 : Nat) / 2^26 = 0x0C ∧ 0x30000001 % 2^10 ≠ 0 ∧ Readable (cx [(1, 0xFF)]) [] [3] ∧ Readable (cx [(1, 0xFF)]) [1] [] ∧
    Readable (cx [(1, 0xFF)]) [1, 2] [3] := by
  unfold Readable FreeToRead; decide +kernel

/-- A state in which g1 has a result in flight that is due in cycle 3 and does not interlock. -/
def early : State := modCore (cx [(1, 5)]) 0 fun k => { k with l := { k.l with pend := [⟨1, 9, 3, false, false, none⟩] } }

/-- EarlyReads: under CHECK, and without it. -/
theorem witness_EarlyReads :
    lockAll (curCtx early) [1, 3] ≤ early.now ∧ early.now < dueOf (curCtx early).pend (physReg (curCtx early) 1) ∧
    (curMode early).getLsbD 0 = false ∧
    (curMode (modPart early 0 fun p => { p with mode := 0x81 })).getLsbD 0 = true := by decide +kernel

/-- CsrReads: CTXST with no user interrupt pending. CsrWrites: a read-only CSR at user level, a writable one, each at privileged level. -/
theorem witness_Csr :
    (curCtx (cx [])).uq.length ≤ 16 ∧ Readable (cx [(1, 3)]) [1] [] ∧ (curCtx (cx [(1, 3)])).priv = false ∧ userReadOnly 0x009 = true ∧
    userReadOnly 0x006 = false ∧ userReadOnly 0x00D = false ∧ userReadOnly 0x00E = false ∧
    Readable (px [(1, 3)]) [1] [] ∧ (curCtx (px [(1, 3)])).priv = true := by
  unfold Readable FreeToRead; decide +kernel

/-- DirectBranches: p0 holds, p1 does not. RegisterBranches: an aligned and an unaligned target; g31 as target. -/
theorem witness_Branches :
    xor (prd (curCtx (cx [])) 0) false = true ∧ xor (prd (curCtx (cx [])) 1) false = false ∧ Readable (cx []) [] [31] ∧
    Readable (cx [(1, 64)]) [1] [31] ∧ (reg (cx [(1, 64)]) 1).toNat % 64 = 0 ∧ (reg (cx [(1, 63)]) 1).toNat % 64 ≠ 0 ∧
    Readable (cx [(31, 64)]) [31] [31] ∧ (reg (cx [(31, 64)]) 31).toNat % 64 = 0 ∧ (reg (cx [(31, 1)]) 31).toNat % 64 ≠ 0 := by
  unfold Readable FreeToRead reg; decide +kernel

/-- TrapEntry: BKPT without a stop, with one, resumed; user level; no handler. -/
theorem witness_TrapEntry :
    (curCtx (cx [])).passAt ≠ some (curCtx (cx [])).pc ∧ (coreOf (cx []) 0).dbg.getLsbD 0 = false ∧
    (coreOf (modCore (cx []) 0 fun k => { k with dbg := 1 }) 0).dbg.getLsbD 0 = true ∧
    (let s := modCore (cx []) 0 fun k => { k with l := { k.l with passAt := some k.l.pc } }
     (curCtx s).passAt = some (curCtx s).pc) ∧
    (curCtx (cx [])).priv = false ∧ (curCtx (cx [])).uiact = false := by decide +kernel

/-- A user-interrupt handler runs, with a return address in shadow g24. -/
def handler : State := modCore (cx []) 0 fun k => { k with l := { k.l with uiact := true, g := [(56, 0x40)] } }

/-- ReturnsFromHandlers: privileged; a handler; a trap at an aligned address. -/
theorem witness_ReturnsFromHandlers :
    (curCtx (px [])).priv = true ∧ ((curCtx handler).uiact = true ∧ Readable handler [24] [] ∧ reg handler 24 = 0x40) ∧
    (curCtx (cx [])).pc.toNat % 4 = 0 ∧ goesOn (exec (.trapWord ⟨0, 7⟩) (cx [])) = true := by
  unfold Readable FreeToRead reg; decide +kernel

/-- SystemWords: a quiet context with no refused store, no crew waiting; a latch that is set; a log with room and a full one's last entry. -/
theorem witness_SystemWords :
    Quiet (cx []) ∧ (curCtx (cx [])).rerrValid = false ∧ holderOf (cx []) 0 0 = none ∧ (curCtx (cx [])).latch = false ∧
    (curCtx (modCore (cx []) 0 fun k => { k with l := { k.l with latch := true } })).latch = true ∧ Performed (cx []) ∧
    Performed (modCore (cx []) 0 fun k => { k with l := { k.l with ord := 23, logN := 23 } }) := by
  unfold Performed
  exact ⟨⟨0, by decide +kernel, by decide +kernel⟩, by decide +kernel⟩

/-- FenceWords: a launch outstanding; every scope with nothing outstanding; a refused store at fabric scope. -/
theorem witness_FenceWords :
    (curCtx (modCore (cx []) 0 fun k => { k with l := { k.l with engOut := [.launch .ve 0] } })).engOut ≠ [] ∧ Quiet (cx []) ∧
    (curCtx (cx [])).engOut = [] ∧ (curCtx (cx [])).rerrValid = false ∧
    (curCtx (modCore (cx []) 0 fun k => { k with l := { k.l with rerrValid := true } })).rerrValid = true :=
  ⟨by decide +kernel, ⟨0, by decide +kernel, by decide +kernel⟩, by decide +kernel⟩

/-! Memory and synchronisation. -/

/-- The VA of an offset of the own scratchpad. -/
def own (off : Nat) : Word := BitVec.ofNat 64 (0xFE * 2^48 + off)

/-- A second page, VA 0x1_0000, whose lines are homed on die 1 and copied. -/
def twoPages (g : Tab Word) : State :=
  modCore { cx g with ranges := [⟨0, 0, 1, false⟩, ⟨2^20, 2^20, 1, false⟩] } 0 fun k =>
    { k with utlb := ⟨0, 4, 1, BitVec.ofNat 64 (2^48 + 0x7D)⟩ :: k.utlb }

/-- LoadWords, StoreWords and AtomicWords: an entry free, no watchpoint, every source free; the places that an access reaches: the own
scratchpad, up to its last word below the system area, a home address, a line homed on another die. -/
theorem witness_Accesses :
    EntryFree (cx []) ∧ NoWatch (cx []) ∧ Readable (cx [(1, own 0x100), (2, 8)]) [1, 2, 3] [3] ∧
    accessPlace (cx []) (own 0x100) 8 ⟨true, false, false, false⟩ = some (.scr 0 0x100) ∧
    accessPlace (cx []) (own 0x2EFFF8) 8 ⟨false, true, false, false⟩ = some (.scr 0 0x2EFFF8) ∧ hasBad (cx []) (scrKey 0 0x100) 8 = false ∧
    (∀ j, j < 8 → openByte (cx []) 0 (0x100 + j) = false) ∧
    accessPlace (cx []) 0x100 8 ⟨true, true, false, true⟩ = some (.phys 0x100 0x3D) ∧ copied 0 0x100 0x3D = false ∧
    (isHost 0x100 && cohAt 0x100 0x3D == 2) = false ∧ hasBad (cx []) 0x100 8 = false ∧ tget? (dieOf (cx []) 0).l2 2 = none ∧
    accessPlace (twoPages []) 0x10100 8 ⟨true, false, false, false⟩ = some (.phys (2^36 + 0x100) (2^48 + 0x7D)) ∧
    copied 0 (2^36 + 0x100) (2^48 + 0x7D) = true ∧ Performed (cx []) := by
  unfold EntryFree NoWatch Readable FreeToRead Performed; decide +kernel

/-- StoreWords: a knock word of queue 3 of die 0, whose queues stand from 0 and whose page starts at 2^20; the window of another package. -/
theorem witness_StoreWords :
    (let s : State := modDie { twoPages [] with ranges := [⟨0, 17, 1, false⟩] } 0 fun x => { x with cp := { x.cp with lqbase := 0x400 } }
     let t := modCore s 0 fun k => { k with utlb := ⟨0, 4, 1, 0x10000003D⟩ :: k.utlb }
     accessPlace t 0x10418 8 ⟨false, true, false, false⟩ = some (.knock 0 3 true)) ∧
    (let s : State := modPart { cx [] with peerValid := true } 0 fun p => { p with peers := [(5, 3)] }
     accessPlace s (BitVec.ofNat 64 (0xFC * 2^48 + 5 * 2^36 + 0x40)) 8 ⟨false, true, false, false⟩ = some (.remote 5 0x40)) := by
  decide +kernel

/-- AccessChecks: an address beyond 56 bits, a misaligned one, and one of each refused kind in the scratchpad windows: past the end, a nonzero
upper bit, the system area for a store, a core outside the partition. -/
theorem witness_AccessChecks :
    2^56 ≤ (0x100000000000000 : Word).toNat ∧ (0x101 : Word).toNat % 2 ≠ 0 ∧
    ((own 0x300000).toNat / 2^48 = 0xFE ∧ (own 0x300000).toNat % 8 = 0 ∧ 0x300000 ≤ (own 0x300000).toNat % 2^22) ∧
    ((own (2^22)).toNat / 2^48 = 0xFE ∧ (own (2^22)).toNat / 2^22 % 2^26 ≠ 0) ∧ 0x2F0000 ≤ (own 0x2F0000).toNat % 2^22 ∧
    (let va : Nat := 0xFD * 2^48 + 5 * 2^22
     va / 2^22 % 2^7 ≠ curCore (cx []) ∧ coreInPart (cx []) 0 (va / 2^22 % 2^7) = false) ∧
    ((0xFD * 2^48 + 2^29) / 2^29 % 2^19 ≠ 0) := by decide +kernel

/-- CacheWords: a line that translates, at each level. TlbAndPrefetchWords: privilege and quiet; a length of zero, an address at the bound, the
lowest free token with those below it taken. -/
theorem witness_CacheAndTlbWords :
    Readable (cx [(1, 0x180)]) [1] [] ∧ cacheLine (cx [(1, 0x180)]) 0x180 = some 3 ∧ (curCtx (px [])).priv = true ∧ Quiet (px []) ∧
    reg (cx [(1, 0x180)]) 2 = 0 ∧ 0xFC * 2^48 ≤ (BitVec.ofNat 64 (0xFC * 2^48) : Word).toNat ∧
    (BitVec.ofNat 64 (0xFC * 2^48 - 64) : Word).toNat < 0xFC * 2^48 ∧ EntryFree (cx []) ∧
    (let s := modCore (cx []) 0 fun k => { k with l := { k.l with tokens := 0x7FFF } }
     (curCtx s).tokens.getLsbD 15 = false ∧ ∀ j, j < 15 → (curCtx s).tokens.getLsbD j = true) := by
  unfold Readable FreeToRead reg EntryFree
  exact ⟨by decide +kernel, by decide +kernel, by decide +kernel, ⟨0, by decide +kernel, by decide +kernel⟩, by decide +kernel⟩

/-- A partition with counters 0x100 to 0x1FF on every die. -/
def sx (g : Tab Word) : State := modPart (cx g) 0 fun p => { p with hssBase := 0x100, hssCount := 0x100 }

/-- SemaphoreWords: the last counter of the range on die 3, not reserved, not poisoned, met by a threshold of 0 and not by 1; an id past the
range, and one with bit 18. -/
theorem witness_SemaphoreWords :
    Performed (sx []) ∧ EntryFree (sx []) ∧ Readable (sx [(1, 0x301FF), (2, 1)]) [1, 2] [3] ∧ CounterId (sx []) 0x301FF 3 0x1FF ∧
    hssPoisoned (sx []) 3 0x1FF = false ∧ hssReserved (sx []) 3 0x1FF = false ∧ (0 : Int) ≤ hssGet (sx []) 3 0x1FF ∧
    hssGet (sx []) 3 0x1FF < 1 ∧ (curCtx (sx [])).waiting = none ∧ hssInRange (sx []) (curPart (sx [])) 0x200 = false ∧
    2^18 ≤ (0x40100 : Word).toNat := by
  unfold Performed EntryFree Readable FreeToRead CounterId; decide +kernel

/-- The same with a crew's 16 counters from 0x110. -/
def bx (g : Tab Word) : State := modCore (sx g) 0 fun k => { k with l := { k.l with crewb := 0x40110 } }

/-- BarrierWords: barrier 15 of the crew, a count of 4,096; a barrier in the scratchpad of need 1 with none arrived, so that one arrival closes
the phase and an expectation does not; a phase awaited that is 1, 0 and 0x8000 away. -/
theorem witness_BarrierWords :
    Performed (bx []) ∧ EntryFree (bx []) ∧ Readable (bx [(1, 15), (2, 4096)]) [1, 2] [3] ∧
    ((curCtx (bx [])).crewb.getLsbD 18 = true ∧ (15 : Word).toNat ≤ 15 ∧ 0 = (curCtx (bx [])).crewb.toNat / 2^16 % 4 ∧
      0x11F = (curCtx (bx [])).crewb.toNat % 2^16 + (15 : Word).toNat ∧ hssPoisoned (bx []) 0 0x11F = false) ∧
    (4096 : Word).toNat ≤ 4096 ∧ hssGet (bx []) 0 0x11F < 1 ∧
    accessPlace (bx []) (own 0x100) 16 ⟨true, true, false, false⟩ = some (.scr 0 0x100) ∧ hasBad (bx []) (scrKey 0 0x100) 16 = false ∧
    (∀ j, j < 16 → openByte (bx []) 0 (0x100 + j) = false) ∧ (BitVec.ofNat 16 1 - 0 : BitVec 16).toNat = 1 ∧
    0x7FFF < (BitVec.ofNat 16 0 - 0x8000 : BitVec 16).toNat := by
  unfold Performed EntryFree Readable FreeToRead; decide +kernel

/-- A QCFG value: base 0x1000, slots of 512 bytes, depth 2, filled and emptied by context L, enabled. -/
def cfgL : Word := BitVec.ofNat 64 (0x1000 + 8 * 2^22 + 2 * 2^38 + 2^54)
/-- Ring 5 so configured. -/
def ringOn (g : Tab Word) : State := after (.qcfg ⟨0, 7, 5⟩) (cx (g ++ [(7, cfgL), (8, 0x1000)]))
/-- Its first slot is full. -/
def ringFull (g : Tab Word) : State := after (.qpush ⟨0, 9, 8, 5⟩) (ringOn g)
/-- Tile 16, so configured with one slot. -/
def tileOn (g : Tab Word) : State := after (.qcfg ⟨0, 7, 16⟩) (cx (g ++ [(7, BitVec.ofNat 64 (0x1000 + 8 * 2^22 + 2^38 + 2^54)), (8, 0x1000)]))
/-- That tile is full. -/
def tileFull (g : Tab Word) : State := after (.tsetf ⟨0, 9, 8, 16⟩) (tileOn g)

/-- SlotWaits: a full slot at HEAD, an empty one at TAIL, of a ring and of a tile; a slot in another state; a ring that is not enabled. -/
theorem witness_SlotWaits :
    Readable (ringFull []) [] [3] ∧ Performed (ringFull []) ∧
    ((descOf (ringFull []) 0 5).en = true ∧ slotState (ringFull []) 0 5 (descOf (ringFull []) 0 5).head = 1 ∧
      slotState (ringFull []) 0 5 (descOf (ringFull []) 0 5).tail = 0) ∧
    ((descOf (tileOn []) 0 16).en = true ∧ slotState (tileOn []) 0 16 0 = 0 ∧ slotState (tileFull []) 0 16 0 = 1) ∧
    slotState (ringOn []) 0 5 (descOf (ringOn []) 0 5).head ≠ 1 ∧ slotState (tileFull []) 0 16 (descOf (tileFull []) 0 16).tail ≠ 0 ∧
    (descOf (cx []) 0 5).en = false := by
  unfold Readable FreeToRead Performed; decide +kernel

/-- SlotFillsAndPops: an empty slot TAIL whose filler is the context, a tag operand of FP32 without swizzle, a full count; a full slot HEAD whose
consumer is the context, and one whose consumer it is not; a configuration that may be written. -/
theorem witness_SlotFillsAndPops :
    Performed (ringOn []) ∧ Readable (ringOn [(1, 0x1000), (2, 512)]) [1, 2] [] ∧
    ((0x1000 : Nat) / 2^12 % 2^4 < 13 ∧ (0x1000 : Nat) / 2^8 % 2^4 < 5 ∧ 512 ≤ (descOf (ringOn []) 0 5).slotb ∧
      (descOf (ringOn []) 0 5).prod = ctxNum (curSel (ringOn [])) ∧ slotState (ringOn []) 0 5 (descOf (ringOn []) 0 5).tail = 0) ∧
    ((descOf (ringFull []) 0 5).cons = ctxNum (curSel (ringFull [])) ∧ slotState (ringFull []) 0 5 (descOf (ringFull []) 0 5).head = 1) ∧
    (descOf { ringFull [] with cur := .ctx 0 .C } 0 5).cons ≠ ctxNum (curSel { ringFull [] with cur := .ctx 0 .C }) ∧
    (cfgBadZero true cfgL = false ∧ cfgBad true cfgL = false ∧ cfgBusy (cx []) 0 5 = false) := by
  unfold Performed Readable FreeToRead; decide +kernel

/-- The tile and the ring have been filled by the words that fill them, with tag and count. -/
theorem test_qpush_and_tsetf :
    slotTag (ringFull []) 0 5 0 = 0x1000 ∧ (descOf (ringFull []) 0 5).tail = 1 ∧ slotTag (tileFull []) 0 16 0 = 0x1000 := by decide +kernel

/-! Words that hand work to the units. -/

/-- A byte string in a core's scratchpad. -/
def put (s : State) (off n v : Nat) : State := { s with mem := wrN s.mem (scrKey 0 off) n v }
/-- A byte string in device memory. -/
def putD (s : State) (pa n v : Nat) : State := { s with mem := wrN s.mem pa n v }

/-- A launch record at 0x200 that asks for the matrix (1) or vector engine (2), with increment 3 of counter 0x100 at its end. -/
def record (e : Nat) (s : State) : State := put (put (put (put s 0x200 4 e) 0x220 4 0x1000000) 0x2F0 2 0x100) 0x2F8 2 0x304

/-- LaunchWords: a record for each engine; a queue of 16; a misaligned record. -/
theorem witness_LaunchWords :
    (let s := record 1 (sx [(1, own 0x200)])
     Performed s ∧ Readable s [1] [] ∧ (seqrOf s 0 .me).count < 16 ∧ (reg s 1).toNat % 64 = 0 ∧
       okWith (ctxReadGroups 4 (own 0x200) s) (fun r => r.1.length == 256 && !badRecord r.1 0 &&
         (recF r.1 0xF8 1 / 4 % 2 == 1) && hssInRange s (curPart s) (recF r.1 (0xF0 + 2 * (recF r.1 0xF8 1 % 4)) 2)) = true) ∧
    okWith (ctxReadGroups 4 (own 0x200) (record 2 (sx []))) (fun r => r.1.length == 256 && !badRecord r.1 1) = true ∧
    16 ≤ (seqrOf (modSeqr (sx []) 0 .me fun q => { q with count := 16 }) 0 .me).count ∧ (own 0x204).toNat % 64 ≠ 0 := by
  unfold Performed Readable FreeToRead reg; decide +kernel

/-- A launch that LNCH has taken is the one of the head of its queue, with its ticket. -/
theorem test_lnch :
    (let t := after (.lnchVe ⟨0, 1⟩) (record 2 (sx [(1, own 0x200)]))
     (seqrOf t 0 .ve).count = 1 ∧ (curCtx t).engOut = [.launch .ve 0] ∧ entryVa t 0 .ve 0 = own 0x200) := by decide +kernel

/-- A copy queue in slot 3 of core 0: descriptor at 0x400, ring of 4 packets at 0x600; WIDX and RIDX. -/
def copyQueue (widx ridx : Nat) (s : State) : State :=
  let t := modCore s 0 fun k => { k with ce := { k.ce with slots := [(3, ⟨own 0x400, 0, false, false, false⟩)] } }
  put (put (put (put (put t 0x400 8 (own 0x600).toNat) 0x408 1 2) 0x410 8 widx) 0x418 8 ridx) 0x420 8 widx

/-- A packet image at 0x500: LIN of 64 bytes from 0x1000 to 0x2000 of the own scratchpad. -/
def linImage (off : Nat) (s : State) : State :=
  put (put (put (put (put s off 1 1) (off + 8) 8 (own 0x1000).toNat) (off + 0x10) 8 (own 0x2000).toNat) (off + 0x18) 4 64) (off + 0x3C) 2 0xFFFF

/-- The condition of CopyWord on a state: the image can be read and leaves it quiet with no copy of a line, the descriptor can be read, and the
writes succeed. -/
def copyReady (s : State) : Bool :=
  match ctxRead64 (own 0x500) s with
  | .ok (x, s1) =>
    someWith (quietAt (curCtx s1)) (fun q => decide (q ≤ s1.now)) && (dieOf s1 0).l2.isEmpty && decide (x / 2^8 % 2 = 1 → 0x180 % 2^7 = curCore s) &&
    (match unitRead s1 0 0 (own 0x400).toNat 64 with
      | (.ok l, s2) =>
        let d := qDescOf l
        (decide (2^d.logn ≤ d.used)) ||
        (match unitWrite s2 0 0 ((own 0x400).toNat + 0x10) (natBytes 8 (d.widx + 1)) with
          | (none, s3) =>
            match unitWrite s3 0 0 (d.base + 64 * (d.widx % 2^d.logn)) (cpyPacket (natBytes 64 x) 0 d.widx) with
            | (none, s4) => (unitWrite s4 0 0 ((own 0x400).toNat + 0x20) (natBytes 8 (d.widx + 1))).1.isNone
            | _ => false
          | _ => false)
      | _ => false)
  | .error _ => false

/-- CopyWord: slot 3 of core 0 with room (the last index before a wrap), and full. -/
theorem witness_CopyWord :
    (let s := linImage 0x500 (copyQueue 3 0 (cx [(1, 0x180), (2, own 0x500)]))
     Performed s ∧ EntryFree s ∧ NoDirty s ∧ Readable s [1, 2] [3] ∧ (reg s 2).toNat % 64 = 0 ∧
       someWith (cpyQueue s 0x180) (fun q => q.part.toNat == curPart s) = true ∧ copyReady s = true) ∧
    (let d := qDescOf (rdBytes (copyQueue 4 0 (cx [])).mem (scrKey 0 0x400) 64)
     2^d.logn ≤ d.used) ∧ copyReady (linImage 0x500 (copyQueue 4 0 (cx [(1, 0x180), (2, own 0x500)]))) = true := by
  unfold Performed EntryFree NoDirty Readable FreeToRead reg
  decide +kernel

/-- SpawnWords: a task at 0x100 for the own core's ring, empty, at its last place, and full; a ring to take from, at both kinds of place. -/
theorem witness_SpawnWords :
    (let s := cx [(1, own 0), (2, own 0x100)]
     Performed s ∧ EntryFree s ∧ NoDirty s ∧ Readable s [1, 2] [3] ∧ (reg s 2).toNat % 32 = 0 ∧
       okWith (spawnOwner (own 0) s) (fun r => r.1 == 0) = true ∧
       okWith (ctxLoad (own 0x100) 32 s) (fun _ => true) = true ∧ spawnF s 0 8 = 0) ∧
    Quiet (cx [(1, own 0), (2, own 0x100)]) ∧
    (let s := put (put (cx []) 0x2F5004 4 254) 0x2F5008 4 254
     spawnF s 0 8 < 255 ∧ spawnF s 0 4 < 255) ∧
    255 ≤ spawnF (put (cx []) 0x2F5008 4 255) 0 8 ∧
    (let s := put (cx [(2, own 0x100)]) 0x2F5008 4 1
     0 < spawnF s 0 8 ∧ spawnF s 0 0 < 255 ∧ accessPlace s (own 0x100) 32 ⟨false, true, false, false⟩ = some (.scr 0 0x100) ∧
       accessPlace s 0x100 32 ⟨false, true, false, false⟩ = some (.phys 0x100 0x3D)) := by
  unfold Performed EntryFree NoDirty Readable FreeToRead reg
  exact ⟨by decide +kernel, ⟨0, by decide +kernel, by decide +kernel⟩, by decide +kernel⟩

/-- A grid of one dimension, four FP32 cells, width and depth 1, one partition on core 0 with its frame at 0x1000 and step state at VA 0x800. -/
def lineGrid (rules : Nat) : Grid :=
  ⟨0, 9, [1, 1, 1, 1, 1, 0, 0, 0] ++ natBytes 4 4 ++ natBytes 4 1 ++ natBytes 4 1 ++ [1, 0, 1, 0, 1, 0, 0, 0] ++ natBytes 4 rules ++
    List.replicate 40 0 ++ natBytes 8 0x800 ++ List.replicate 176 0, [0x1000 * 2^32]⟩
/-- The grid is registered, and the die's walkers hold page 0; tags and COMMIT are as given. -/
def gridIn (rules tag commit : Nat) (s : State) : State :=
  let t := modDie s 0 fun x => { x with he := { x.he with grids := [lineGrid rules] }, tlb := [⟨0, 4, 0, 0x3D⟩] }
  putD (putD (putD t 0x800 4 tag) 0x804 4 tag) 0x818 4 commit

/-- HaloWords: HWAIT with the tags at the step, past it, and before it; HQRY; HSTEP as a first step, and one that is out of order. -/
theorem witness_HaloWords :
    (let s := gridIn 0 3 2 (cx [(1, 9), (2, 3)])
     (9 : Word).toNat < 2^16 ∧ Readable s [1, 2] [3] ∧ okWith (haloGrid (.hwait ⟨0, 1, 2⟩) 9 s) (fun r => r.1.2 == 0 && r.2 == s) = true ∧
       okWith (haloRecord (lineGrid 0) 0 s) (fun r => r.2 == s && (upto 2).all fun f => tagIn r.1 f == 3) = true) ∧
    okWith (haloRecord (lineGrid 0) 0 (gridIn 0 stepNone stepNone (cx []))) (fun r => tagIn r.1 0 == stepNone) = true ∧
    (let s := gridIn 0 3 stepNone (cx [(1, 9), (2, 3)])
     Performed s ∧ 3 % max 1 (lineGrid 0).depth = 0 ∧ stagingUsed s 0 + outBytes (lineGrid 0) 0 ≤ 2^24 ∧
       okWith (haloRecord (lineGrid 0) 0 s) (fun r => commitIn r.1 == stepNone) = true ∧
       okWith (haloStore 0 ((lineGrid 0).state + 0x18) (natBytes 4 3 ++ natBytes 4 3 ++ [0]) s) (fun _ => true) = true) ∧
    Quiet (gridIn 0 3 stepNone (cx [(1, 9), (2, 3)])) ∧
    (let s := gridIn 0 3 2 (cx [])
     okWith (haloRecord (lineGrid 0) 0 s) (fun r => commitIn r.1 == 2 && decide (4 ≠ commitIn r.1 + (lineGrid 0).depth)) = true) := by
  unfold Performed Readable FreeToRead
  exact ⟨by decide +kernel, by decide +kernel, by decide +kernel, ⟨0, by decide +kernel, by decide +kernel⟩, by decide +kernel⟩

/-- GridLoadAndSignalWords: the first ghost cell of that frame, tagged with the step; a signal to a peer, and to the package's own counter. -/
theorem witness_GridLoadAndSignalWords :
    (let s := gridIn 0 3 2 (cx [(1, own 0x1000), (2, 3)])
     Readable s [1, 2] [3] ∧ EntryFree s ∧ NoWatch s ∧ (reg s 1).toNat = 0xFE * 2^48 + 0x1000 ∧
       frameAt s 0 0x1000 = some (lineGrid 0, 0, 0x1000) ∧ 0x1000 + 4 ≤ 0x1000 + (lineGrid 0).frameBytes ∧
       faceOfByte (lineGrid 0) 0x1000 0x1000 = some 0 ∧ hasBad s (scrKey 0 0x1000) 4 = false ∧
       (∀ j, j < 4 → openByte s 0 (0x1000 + j) = false)) ∧
    (let s : State := modPart { sx [(1, 5 * 2^18 + 0x100)] with peerValid := true } 0 fun p => { p with peers := [(5, 3)] }
     Performed s ∧ EntryFree s ∧ Readable s [1, 2] [] ∧ (reg s 1).toNat < 2^30 ∧ s.fab.sigs = [] ∧ sigBehind s = [] ∧
       peerState s (curPart s) 5 = 3 ∧ (5 : Nat) ≠ s.peer.toNat ∧ peerState s (curPart s) 0 = 3 ∧
       sigTarget s (curPart s) 0x100 ≠ none) := by
  unfold Performed EntryFree NoWatch Readable FreeToRead reg; decide +kernel

/-! Engines. -/

/-- A configured ring or tile of core 0: base, slot bytes, depth, filler, consumer, whether it is a transom. -/
def ringAt (id base slotb depth prod cons : Nat) (transom : Bool) (s : State) : State :=
  let o := descOff id
  put (put (put (put (put s o 4 base) (o + 4) 4 slotb) (o + 8) 1 depth) (o + 9) 1 (1 + 2 * transom.toNat)) (o + 10) 1 (prod + 16 * cons)
/-- A slot is full, with a tag. -/
def fullSlot (id slot tag : Nat) (s : State) : State := put (put s (hdrOff id slot) 1 1) (hdrOff id slot + 2) 2 tag

/-- The vector engine of core 0 runs a launch. -/
def ve0 : State := { placeEng .ve 0 [] State.reset with cur := .ve 0 }
/-- The matrix engine of core 0 runs a launch. -/
def me0 : State := { placeEng .me 0 [] State.reset with cur := .me 0 }
/-- Its vector engine's registers, masks, constants. -/
def vx (f : Ve → Ve) : State := modCore ve0 0 fun k => { k with ve := f k.ve }

/-- EngineControlWords: each engine, quiet; a tile whose one slot is empty and that it fills; a ring whose slot at HEAD is full and that it
empties; an increment of a counter in its range; a template in reach; a level to leave and a mask of one and of none. -/
theorem witness_EngineControlWords :
    ve0.cur = engAgent 0 .ve ∧ me0.cur = engAgent 0 .me ∧ quietEng ve0 0 .ve = some 0 ∧ quietEng me0 0 .me = some 0 ∧
    (let s := ringAt 16 0x1000 512 1 4 4 false ve0
     (descOf s 0 16).en = true ∧ (descOf s 0 16).prod = engKind .ve ∧ slotState s 0 16 (descOf s 0 16).tail = 0 ∧
       slotState s 0 16 (descOf s 0 16).head ≠ 1) ∧
    (let s := fullSlot 5 0 0x1000 (ringAt 5 0x1000 512 2 3 3 false me0)
     (descOf s 0 5).en = true ∧ (descOf s 0 5).cons = engKind .me ∧ slotState s 0 5 (descOf s 0 5).head = 1 ∧
       slotState s 0 5 (descOf s 0 5).tail ≠ 0) ∧
    (let s := put (modPart ve0 0 fun p => { p with hssBase := 0x100, hssCount := 0x100 }) (qOff .ve 0 + 0xF0) 2 0x1FF
     (coreOf s 0).ve.memDue ≤ s.now ∧ launchField s 0 .ve 0xF0 2 = 0x1FF ∧ hssInRange s (seqrOf s 0 .ve).part.toNat 0x1FF = true ∧
       hssPoisoned s 0 0x1FF = false ∧ (seqrOf (modSeqr s 0 .ve fun q => { q with ordinal := 254 }) 0 .ve).ordinal < 255) ∧
    (coreOf me0 0).me.drain = none ∧
    (let s := put ve0 (qOff .ve 0 + 0x50) 4 0x2FFFF0
     streamVal s 0 .ve 0 % 16 = 0 ∧ streamVal s 0 .ve 0 + 16 ≤ 0x300000 ∧ hasBad s (scrKey 0 (streamVal s 0 .ve 0)) 16 = false ∧
       ∀ j, j < 16 → openByte s 0 (streamVal s 0 .ve 0 + j) = false) ∧
    (0 ≤ (seqrOf ve0 0 .ve).lvl ∧ vMask (veNow ve0 0) 0 ≠ 0 ∧ vMask (veNow ve0 0) 1 = 0) := by decide +kernel

/-- MaskReady with nothing in flight. -/
theorem witness_MaskReady : MaskReady (veNow ve0 0) 1 ∧ MaskReady (veNow ve0 0) 0 := by unfold MaskReady; decide +kernel

/-- A queued launch of the vector engine whose image is at 0x2000: one word, no template; and the same queue with an image of 5,000 words. -/
def queued (words : Nat) : State :=
  let s := { placeTeam State.reset with cur := .ve 0 }
  let t := put (put (put s (qOff .ve 0) 1 2) (qOff .ve 0 + 8) 8 (own 0x2000).toNat) (qOff .ve 0 + 0x20) 4 0x1000000
  let u := modSeqr t 0 .ve fun q => { q with count := 1 }
  put (put (put u 0x2000 2 words) 0x2003 1 3) 0x2004 1 2

/-- LaunchLifecycle: a launch that can start and one whose image is refused; the entry of a level; the mark of an iteration; the end of a launch
without an increment and with one. -/
theorem witness_LaunchLifecycle :
    (let s := queued 1
     (seqrOf s 0 .ve).count ≠ 0 ∧ (seqrOf s 0 .ve).head < 16 ∧ (seqrOf s 0 .ve).running = false ∧ (seqrOf s 0 .ve).heldImage = false ∧
       engfPending s 0 .ve = false ∧ okWith (readImage (entryWrite s 0 .ve 0 0xFC 4 1) 0 .ve 3).1 (fun i => i.words == [0]) = true) ∧
    (readImage (entryWrite (queued 5000) 0 .ve 0 0xFC 4 1) 0 .ve 3).1 matches .error (.code 1) ∧
    (let s := modSeqr ve0 0 .ve fun q => { q with phase := .entry }
     (seqrOf s 0 .ve).running = true ∧ (seqrOf s 0 .ve).phase = .entry ∧ mbxDue s 0 .ve ≤ s.now ∧ launchField s 0 .ve 0x10 2 = 0 ∧
       launchField (put s (qOff .ve 0 + 0x10) 2 3) 0 .ve 0x10 2 ≠ 0) ∧
    (let s := modSeqr ve0 0 .ve fun q => { q with phase := .mark }
     (seqrOf s 0 .ve).phase = .mark ∧ quietEng s 0 .ve = some 0) ∧
    (let s := modSeqr ve0 0 .ve fun q => { q with phase := .finish }
     (seqrOf s 0 .ve).phase = .finish ∧ (seqrOf s 0 .ve).count ≠ 0 ∧ launchField s 0 .ve 0xF8 2 / 4 % 2 = 0 ∧
       launchField (put s (qOff .ve 0 + 0xF8) 2 4) 0 .ve 0xF8 2 / 4 % 2 = 1) := by decide +kernel

/-- WordBoundaryEvents: ENGF pending at user level from each engine; UIRQ; an interrupt that may be taken; a mark that is due by its period
and by a full log; waits beyond the limit of a context and an engine; SCY at STOPAT; a log entry. -/
theorem witness_WordBoundaryEvents :
    (let s := modCore (cx []) 0 fun k => { k with l := { k.l with engfMe := some 5 } }
     atBoundary s = true ∧ (curCtx s).priv = false ∧ (curCtx s).engfMe = some 5) ∧
    (let s := modCore (cx []) 0 fun k => { k with l := { k.l with engfVe := some 5 } }
     (curCtx s).engfMe = none ∧ (curCtx s).engfVe = some 5) ∧
    (let s := modCore (cx []) 0 fun k => { k with l := { k.l with uirq := some 5 } }
     atBoundary s = true ∧ (curCtx s).engfMe = none ∧ (curCtx s).engfVe = none ∧ (curCtx s).uirq = some 5) ∧
    (let s := modCore (cx []) 0 fun k => { k with l := { k.l with uq := [⟨5, 1, 2⟩], uie := true } }
     atBoundary s = true ∧ (curCtx s).uq = [⟨5, 1, 2⟩] ∧ (curCtx s).uie = true ∧ (curCtx s).uiact = false ∧ fetchDue s = false) ∧
    (let s := modCore (cx []) 0 fun k => { k with l := { k.l with ord := 24 } }
     atBoundary s = true ∧ 24 ≤ (curCtx s).ord ∧ quietAt (curCtx s) = some 0) ∧
    (let s := { cx [] with now := 2^20 }
     2^20 ≤ scyOf s 0 - (curCtx s).markScy) ∧
    (let s := { modPart (cx []) 0 fun p => { p with mode := 0x90 } with now := 2^40 }
     let t := modCore s 0 fun k => { k with l := { k.l with waiting := some ⟨2, 0, 0, none, false, 0, 0, 0⟩ } }
     someWith (curCtx t).waiting (overLimit t (curPart t)) = true) ∧
    (let s := modSeqr { modPart ve0 0 fun p => { p with mode := 0x90 } with now := 2^40 } 0 .ve fun q =>
        { q with waiting := some ⟨1, 0, 0, none, false, 0, 0, 0⟩ }
     someWith (seqrOf s 0 .ve).waiting (overLimit s (seqrOf s 0 .ve).part.toNat) = true ∧ (seqrOf s 0 .ve).count = 1 ∧
       (ctxOf s 0 (ctxOfNum (launchField s 0 .ve 1 1))).live = false ∧
       (ctxOf (modCore s 0 fun k => { k with l := { k.l with live := true } }) 0 (ctxOfNum (launchField s 0 .ve 1 1))).live = true) ∧
    (let s := { modCore (cx []) 0 fun k => { k with dbg := 4, stopat := 100 } with now := 100 }
     stopatReached s 0 = true) ∧
    (0 : BitVec 8).toNat < (ctxOf (modCore (cx []) 0 fun k => { k with l := { k.l with logN := 1 } }) 0 .L).logN := by decide +kernel

/-- A vector word: v3 from v1 and v2 under m1, FP32. -/
def vw (fmt rnd : Nat) : EngW := ⟨3, 1, 2, 0xFF, 1, false, BitVec.ofNat 4 fmt, BitVec.ofNat 3 rnd, 0, 0, 0, 0, 0, ⟨false, 0, false, false⟩⟩
/-- v1 and v2 hold one element each, tagged; m1 has element 0. -/
def v12 (fmt a b : Nat) : State :=
  vx fun v => { v with regs := [(1, ⟨BitVec.ofNat 4096 a, BitVec.ofNat 16 (fmt * 2^12)⟩), (2, ⟨BitVec.ofNat 4096 b, BitVec.ofNat 16 (fmt * 2^12)⟩)],
                       masks := [(1, 1)] }
/-- Element 0 alone of `n`. -/
def one (n x : Nat) : List Nat := x :: List.replicate (n - 1) 0

/-- The sources are registers that carry the word's FMT, and nothing is in flight. -/
def vReadable (s : State) (c : Nat) (w : EngW) (srcs : List (BitVec 8)) : Bool :=
  decide (s.cur = .ve (BitVec.ofNat 7 c)) && decide (c < 128) && decide ((veNow s c).q.nbv ≠ 1) && (veNow s c).pend.isEmpty &&
    srcs.all fun x => decide (x.toNat < 0x54) && decide (tagCode (vReg (veNow s c) x.toNat).tag = w.fmt.toNat) && decide (w.fmt.toNat ≠ 15)

/-- So the word can read them. -/
theorem vReads_of (s : State) (c : Nat) (w : EngW) (srcs : List (BitVec 8)) (h : vReadable s c w srcs = true) : VReads s c w srcs := by
  simp only [vReadable, Bool.and_eq_true, decide_eq_true_eq, List.all_eq_true, List.isEmpty_iff] at h
  obtain ⟨⟨⟨⟨h1, h2⟩, h3⟩, h4⟩, h5⟩ := h
  refine ⟨h1, h2, fun h => absurd h h3, Or.inr (by rw [h4]; rfl), fun x hx => ?_⟩
  obtain ⟨⟨a, b⟩, c⟩ := h5 x hx
  unfold VReady
  rw [if_pos a, h4, b]
  exact ⟨rfl, c, Or.inr (by simp)⟩

/-- VectorArithmetic: 1 + 2 = 3 in FP32; 2^31 - 1 + 1 wraps in INT32; 1 / 2 = 0.5; a result that is due. -/
theorem witness_VectorArithmetic_reads : VReads (v12 1 0x3F800000 0x40000000) 0 (vw 1 0) [1, 2] ∧ VReads (v12 5 0x7FFFFFFF 1) 0 (vw 5 0) [1, 2] :=
  ⟨vReads_of _ _ _ _ (by decide +kernel), vReads_of _ _ _ _ (by decide +kernel)⟩
theorem witness_VectorArithmetic_elements :
    (let s := v12 1 0x3F800000 0x40000000
     let v := veNow s 0
     let w := vw 1 0
     (one 128 0x40400000).length = countOf 1 ∧ vIncluded v w 128 = true :: List.replicate 127 false ∧
     (∀ e, e < 128 → nth (one 128 0x40400000) e 0 = if e = 0 then 0x40400000 else 0) ∧
     (let a := valOf false 1 (vElem v w [1, 2] 0 0)
      let b := valOf false 1 (vElem v w [1, 2] 1 0)
      fpRoundTo 1 (rndOf w v 0) (vadd false a b) = some 0x40400000 ∧ fpRoundTo 1 (rndOf w v 0) (vdiv a b) = some 0x3F000000 ∧
        fpRoundTo 1 (rndOf w v 0) (vadd false (vmul a b) a) = some 0x40400000 ∧ fpRoundTo 1 (rndOf w v 0) (vsqrt a) = some 0x3F800000 ∧
        fpxOn w = false)) ∧
    wrapInt 32 (intOf 5 (vElem (veNow (v12 5 0x7FFFFFFF 1) 0) (vw 5 0) [1, 2] 0 0) +
      intOf 5 (vElem (veNow (v12 5 0x7FFFFFFF 1) 0) (vw 5 0) [1, 2] 1 0)) = 0x80000000 := by decide +kernel
theorem witness_VectorArithmetic_written :
    (let p : VPend := { reg := some 3, bits := 7, wm := 0xFF }
     (coreOf (vx fun v => { v with pend := [p] }) 0).ve.pend = [p] ∧ p.due ≤ ve0.now) := by decide +kernel

/-- VectorLogicAndMasks: sources, and the mask of VSEL, that can be read. -/
theorem witness_VectorLogicAndMasks :
    VReads (v12 5 6 3) 0 { vw 5 0 with c := 0x61 } [1, 2] ∧ MaskReady (veNow (v12 5 6 3) 0) (0x61 - 0x60) ∧
      VReads (v12 1 6 3) 0 (vw 1 0) [1] ∧ VersionOk (veNow ve0 0) (vw 5 0) [5] :=
  ⟨vReads_of _ _ _ _ (by decide +kernel), by unfold MaskReady; decide +kernel, vReads_of _ _ _ _ (by decide +kernel),
    by unfold VersionOk; decide +kernel⟩

/-- VectorConversions: 1.0 in FP32 to BF16 as element 0; the sum of element 0 alone. -/
theorem witness_VectorConversions :
    (let s := v12 1 0x3F800000 0
     let w : EngW := { vw 2 0 with immA := 1 }
     let v := veNow s 0
     VersionOk v w [2, 1] ∧ MaskReady v 1 ∧ v.pend = [] ∧ tagCode (vReg v 1).tag = 1 ∧
       (one 128 0x3F80).length = (((vIncluded v w 256).drop (cvtPlace 1 2 0).2.1).take (cvtPlace 1 2 0).2.2).length ∧
       roundFmt 2 (rndOf w v 0) (valOf false 1 (nth (elemsOf 1 (vSource v 1 1)) 0 0)) = some 0x3F80) ∧
    (let s := v12 1 0x3F800000 0
     let w := vw 1 0
     let v := veNow s 0
     vReadable s 0 w [1] = true ∧
       okWith (reduceVals v (addNode w v) (redVals false 1 (.fin true 0 0 false) (vIncluded v w 128) (elemsOf 1 (vSource v 1 1))))
         (fun x => fpRoundTo 1 (rndOf w v 127) x == some 0x3F800000) = true ∧
       okWith (reduceVals v (fun _ x y => .ok (valMax x y)) (redVals false 1 (.inf true) (vIncluded v w 128) (elemsOf 1 (vSource v 1 1))))
         (fun x => roundFmt 1 (rndOf w v 127) x == some 0x3F800000) = true) ∧
    intRoundTo 5 (rndOf (vw 5 0) (veNow ve0 0) 0) (intVal 7) = some 7 := by
  unfold VersionOk MaskReady; decide +kernel

/-- VectorMovesAndTables: sources that can be read; index vectors; GELU of 0 by a built-in table; a user table that is loaded; a mailbox. -/
theorem witness_VectorMovesAndTables :
    vReadable (v12 5 6 3) 0 (vw 5 0) [1, 2] = true ∧ vReadable ve0 0 (vw 5 0) [] = true ∧ intFmtOf 5 = 5 ∧ 5 ∈ indexTags 5 ∧
    (let f := builtin 3 0
     f.sound = true ∧ fpRoundTo 1 (rndOf (vw 1 0) (veNow ve0 0) 0) (tintVal f false (valOf false 1 0)) = some 0) := by decide +kernel

/-! Vector memory and slots, and the matrix engine. -/

/-- VectorMemory: an aligned word of scratchpad at 0x2000 that element 0 alone reaches, up to the last one below the system area; a frame of a
grid of the launch's partition, its FMT, and a face tagged with the step of a launch constant. -/
theorem witness_VectorMemory :
    (let s := v12 1 1 0
     let w : EngW := { vw 1 0 with addr := 0x2000 }
     let l := vPlaces (veNow s 0) w (fun e => vBase s 0 w + (e * 4 : Nat))
     l = [(0x2000, 0)] ∧ (∀ p ∈ l, p.1 % 4 = 0 ∧ p.1 + 4 ≤ 0x2F0000 ∧ hasBad s (scrKey 0 p.1) 4 = false ∧
       ∀ j, j < 4 → openByte s 0 (p.1 + j) = false)) ∧
    vPlaces (veNow (v12 1 1 0) 0) { vw 1 0 with addr := 0x2EFFFC } (fun e => vBase (v12 1 1 0) 0 { vw 1 0 with addr := 0x2EFFFC } + (e * 4 : Nat)) =
      [(0x2EFFFC, 0)] ∧
    (let s := gridIn 27 3 2 (vx fun v => { v with k := [(2, 3)], masks := [(1, 1)] })
     let w : EngW := { vw 1 0 with c := 0x82, immA := 9, addr := 0x1000 }
     (framesOf s 0).find? (fun x => x.1.id = w.immA.toNat && x.1.part == (veNow s 0).q.part) = some (lineGrid 27, 0, 0x1000) ∧
       w.fmt.toNat = (lineGrid 27).fmt ∧
       (let l := vPlaces (veNow s 0) w (fun e => vBase s 0 w + (e * 4 : Nat))
        l = [(0x1000, 0)] ∧ 0x1000 + 4 ≤ 0x1000 + (lineGrid 27).frameBytes) ∧
       (nth (lvlsOf s 0 .ve) 0 noLvl).used = true ∧ (tget (veNow s 0).k 2 0).toNat ≠ stepNone ∧
       faceOfByte (lineGrid 27) 0x1000 0x1000 = some 0 ∧
       okWith (haloRecord (lineGrid 27) 0 (settleVe 0 s)) (fun r => tagIn r.1 0 == 3) = true) ∧
    ((lineGrid 45).atEdge 0 0 = true ∧ (lineGrid 45).rule 0 = 5) := by decide +kernel

/-- VectorSlots: a full slot of FP32 for VLDT; an empty one for VSTT; a transom with room for one lane, with one entry, and its count. -/
theorem witness_VectorSlots :
    (let s := fullSlot 5 0 0x1000 (ringAt 5 0x1000 512 2 3 4 false ve0)
     let w : EngW := { vw 1 0 with a := 5, m := 0 }
     let d := descOf s 0 5
     d.en = true ∧ d.cons = 4 ∧ (∀ r ∈ slotRuns w, r.1 + r.2.2 ≤ d.slotb) ∧ slotState s 0 5 d.head = 1 ∧
       hasBad s (scrKey 0 (slotBase d d.head)) d.slotb = false ∧ slotTag s 0 5 d.head / 2^12 = 1 ∧ slotTag s 0 5 d.head / 2^8 % 16 = 0) ∧
    (let s := ringAt 5 0x1000 512 2 4 3 false ve0
     let d := descOf s 0 5
     d.en = true ∧ d.prod = 4 ∧ slotState s 0 5 d.tail = 0) ∧
    (let s := ringAt 5 0x1000 64 2 4 4 true (vx fun v => { v with masks := [(1, 1)] })
     let d := descOf s 0 5
     d.en = true ∧ d.transom = true ∧ d.prod = 4 ∧ d.cons = 4 ∧ transomCap d = 4 ∧ d.base + 32 * transomCap d ≤ 0x2F0000 ∧
       ((List.range 128).filter fun e => (vIncluded (veNow s 0) (vw 1 0) 128).getD e false) = [0] ∧
       (transomOf s 0 5).tcnt + tget (veNow s 0).tfree 5 0 + 1 ≤ 4 ∧ hasBad s (scrKey 0 d.base) 32 = false ∧
       ∀ j, j < 32 → openByte s 0 (d.base + j) = false) := by decide +kernel

/-- A slot of a ring may hold unspecified bytes only past the end of the engines' mark area, where nothing is noted. -/
theorem openByte_below (s : State) (c off : Nat) (h1 : (coreOf s c).spoiled = []) (h2 : (coreOf s c).ghostStale = [])
    (h3 : off < 0x2F2000) : openByte s c off = false := by
  unfold openByte ghostOpen spoiledFor engMarkByte
  rw [h1, h2]
  have e1 : decide (0x2F2000 ≤ off) = false := by simpa using h3
  have e2 : decide (0x2F2200 ≤ off) = false := by simp; omega
  simp [e1, e2]

/-- Where no byte is listed, a scratchpad reads zero. -/
theorem scrRead_zero (s : State) (c off n : Nat) (h1 : (coreOf s c).spoiled = []) (h2 : (coreOf s c).ghostStale = [])
    (h3 : off + n ≤ 0x2F0000) (h4 : ∀ e ∈ s.mem, scrKey c 0x2F0000 ≤ e.1) : scrRead s c off n = 0 := by
  have hb : ∀ (m : List Host.Cell) (k : Nat), (∀ e ∈ m, k < e.1) → bget m k = 0 := by
    intro m k h
    induction m with
    | nil => rfl
    | cons a r ih =>
      have ha := h a (by simp)
      have hr := ih fun e he => h e (by simp [he])
      unfold bget
      simp only [hr]
      split <;> first | rfl | omega
  have hs : ∀ n i off, off + n ≤ 0x2F0000 → bytesNat (scrBytes s c off i n) = 0 := by
    intro n
    induction n with
    | zero => intro i off _; rfl
    | succ n ih =>
      intro i off h
      unfold scrBytes bytesNat
      rw [ih (i + 1) (off + 1) (by omega)]
      unfold scrByte
      rw [openByte_below s c off h1 h2 (by omega)]
      rw [hb s.mem (scrKey c off) (fun e he => by have := h4 e he; unfold scrKey at this ⊢; omega)]
      rfl
  exact hs n 0 off h3

/-- Two operand slots of zeros, MXFP8 under swizzle 4, at HEAD of rings 5 and 6; no bank is open. -/
def meOperands : State :=
  fullSlot 6 0 0x8400 (ringAt 6 0x4000 8448 1 4 3 false (fullSlot 5 0 0x8400 (ringAt 5 0x1000 8448 1 4 3 false me0)))
/-- The matrix engine's state with other registers. -/
def mx (f : Me → Me) (s : State) : State := modCore s 0 fun k => { k with me := f k.me }
/-- A word of the matrix engine. -/
def mw (d a b fmt mod : Nat) : EngW :=
  ⟨BitVec.ofNat 8 d, BitVec.ofNat 8 a, BitVec.ofNat 8 b, 0xFF, 0, false, BitVec.ofNat 4 fmt, 0, 0, BitVec.ofNat 8 mod, 0, 0, 0, ⟨false, 0, false, false⟩⟩

/-- The numbers from `k` on. -/
theorem mem_countUp (n k i : Nat) : i ∈ countUp n k ↔ k ≤ i ∧ i < k + n := by
  induction n generalizing k with
  | zero => simp [countUp]
  | succ n ih => simp [countUp, ih]; omega

/-- The numbers below `n`. -/
theorem mem_upto (n i : Nat) : i ∈ upto n ↔ i < n := by simp [upto, mem_countUp]

/-- The memory of a state lists nothing of core 0 below the system area, and nothing is noted as unspecified. -/
def clean (s : State) : Bool :=
  (coreOf s 0).spoiled.isEmpty && (coreOf s 0).ghostStale.isEmpty && s.mem.all fun e => decide (scrKey 0 0x2F0000 ≤ e.1)

/-- In such a state every scratchpad byte there reads zero. -/
theorem clean_scrRead (s : State) (h : clean s = true) (off n : Nat) (hn : off + n ≤ 0x2F0000) : scrRead s 0 off n = 0 := by
  simp only [clean, Bool.and_eq_true, List.isEmpty_iff, List.all_eq_true, decide_eq_true_eq] at h
  exact scrRead_zero s 0 off n h.1.1 h.1.2 hn h.2

/-- MatrixWords: MMA of two operands of zeros into a new bank; MDRN and MDRNP of the one open bank into a tile; MACLD of a partial; no jobs. -/
theorem witness_MatrixWords :
    (let s := meOperands
     let m := (coreOf s 0).me
     OperandAt s 0 5 (afterPops m 5 (descOf s 0 5)) 8 4 (256 * mxBytes 8) ∧ OperandAt s 0 6 (afterPops m 6 (descOf s 0 6)) 8 4 (256 * mxBytes 8) ∧
       meNow s 0 = m ∧ mmaHeld m = false ∧ bankHeld m 1 = false ∧ operandHeld m 5 (descOf s 0 5) = false ∧ operandHeld m 6 (descOf s 0 6) = false ∧
       m.mma = [] ∧ m.closing = [] ∧ bankBusy m 1 = false ∧ bankOf m 1 = none ∧ (mw 1 5 6 0 1).mod.getLsbD 0 = true ∧ (mw 1 5 6 0 0).mod.getLsbD 0 = false ∧ m.q.nbv ≠ 1 ∧ clean s = true) ∧
    (let s := mx (fun m => { m with banks := [(1, zeroBank 0)] }) meOperands
     ∃ b, bankOf (coreOf s 0).me 1 = some b ∧ b.w = sgn 8 0) ∧
    (let s := mx (fun m => { m with banks := [(1, zeroBank 0)] }) (ringAt 16 0x10000 32768 1 3 4 false me0)
     let m := (coreOf s 0).me
     let d := descOf s 0 16
     m.drain = none ∧ bankBusy m 1 = false ∧ (∃ b, bankOf m 1 = some b) ∧ m.closing = [] ∧ (∀ b ∈ m.banks, b.1 = 1) ∧
       tailEmpty s 0 16 d = true ∧ d.en = true ∧ d.prod = 3 ∧ 4096 * drainBytes false 1 ≤ d.slotb ∧
       4096 * drainBytes true 11 ≤ d.slotb ∧ slotState s 0 16 d.tail = 0) ∧
    (let s := fullSlot 5 0 0xB000 (ringAt 5 0x1000 32768 1 4 3 false me0)
     let m := (coreOf s 0).me
     m.load = none ∧ bankOf m 1 = none ∧ WideReady s 0 5 0 ∧ bankBusy m 1 = false ∧ clean s = true ∧ m.mbxPend = []) := by
  unfold WideReady OperandAt
  exact ⟨by decide +kernel, ⟨_, rfl, by decide +kernel⟩, ⟨by decide +kernel, by decide +kernel, ⟨_, rfl⟩, by decide +kernel⟩, by decide +kernel⟩

/-- MatrixWords, drain: the engine of the drain's witness has nothing to settle. -/
theorem witness_MatrixWords_now :
    let s := mx (fun m => { m with banks := [(1, zeroBank 0)] }) (ringAt 16 0x10000 32768 1 3 4 false me0)
    meNow s 0 = (coreOf s 0).me := rfl

/-- MatrixWords: no scale pair of the two operands is out of range, and every element of the partial has exponent zero. -/
theorem witness_MatrixWords_data :
    rangeFail meOperands 0 0x1000 0x4000 8 8 0 = none ∧
    (let s := fullSlot 5 0 0xB000 (ringAt 5 0x1000 32768 1 4 3 false me0)
     ∀ pos, pos < 4096 → (wideVal (wideElem s 0 0x1000 0 pos)).2 = 0) := by
  constructor
  · have hc : clean meOperands = true := by decide +kernel
    have hz : ∀ i blk base, i < 64 → blk < 4 → base + 8448 ≤ 0x2F0000 → (operandBlock meOperands 0 base 8 i blk).2 = 0 := by
      intro i blk base hi hb hbase
      unfold operandBlock
      have e : mxBytes 8 = 33 := by decide
      rw [e, clean_scrRead meOperands hc _ _ (by omega)]
      decide
    have hs : ∀ blk base, blk < 4 → base + 8448 ≤ 0x2F0000 → ∀ x ∈ operandScales meOperands 0 base 8 blk, x = 0 := by
      intro blk base hb hbase x hx
      unfold operandScales at hx
      rw [List.mem_map] at hx
      obtain ⟨i, hi, rfl⟩ := hx
      exact hz i blk base ((mem_upto _ _).mp hi) hb hbase
    unfold rangeFail
    simp only []
    rw [List.head?_eq_none_iff, List.filterMap_eq_nil_iff]
    intro blk hblk
    have hb : blk < 4 := (mem_upto _ _).mp hblk
    rw [List.head?_eq_none_iff, List.filterMap_eq_nil_iff]
    intro p hp
    rw [List.head?_eq_none_iff, List.filterMap_eq_nil_iff]
    intro q hq
    rw [hs blk 0x1000 hb (by omega) p.1 (List.of_mem_zip hp).1, hs blk 0x4000 hb (by omega) q.1 (List.of_mem_zip hq).1]
    exact if_neg (by decide)
  · intro s pos hpos
    have hc : clean s = true := by decide +kernel
    have hl : swzByte 0 (8 * pos) + 8 ≤ 32768 := by unfold swzByte; simp; omega
    unfold wideElem
    rw [clean_scrRead s hc _ _ (by omega)]
    decide

/-- A K-step whose products are all zero ends, whatever the coma holds. -/
theorem stepGo_zeros (bank : Nat) (term : Nat → Option Int) (coma : List ComaE) :
    ∀ n pos, (∀ p, pos ≤ p → p < pos + n → term p = some 0) →
      (stepGo bank 0 term pos (List.replicate n 0) (List.replicate n false) coma).2.2.2 = .done := by
  intro n
  induction n with
  | zero => intro pos _; rfl
  | succ n ih =>
    intro pos h
    have h0 := h pos (by omega) (by omega)
    have hr := ih (pos + 1) fun p a b => h p (by omega) (by omega)
    simp only [List.replicate_succ]
    unfold stepGo
    rw [if_neg (by omega), h0]
    have : wrap20 (0 + 0) = (0 : Int) + 0 := by decide
    simp only [this, if_true]
    exact hr

/-- The MMA of two operands of zeros is at its first step. -/
def zeroMma : MmaJob := { bank := 1, qa := 5, qb := 6, sa := 0, sb := 0, fa := 0, fb := 0, stopFull := false, t := 0, due := 0, issueNo := 0, pc := 0 }
/-- A drain of FP32 to tile 16, and the load of a partial from ring 5. -/
def zeroDrain : DrainJob :=
  { bank := 1, out := 16, addend := none, wide := false, fmt := 1, rnd := 0, ovf := 0, swz := 0, alpha := none, seed := 0, nth := 0, row := 0,
    start := 0, issueNo := 0, pc := 0 }
def zeroLoad : LoadJob := { bank := 1, src := 5, swz := 0, stopFull := false, row := 63, start := 0, issueNo := 0, pc := 0 }
/-- The state in which that step is due. -/
def kState : State := mx (fun m => { m with banks := [(1, zeroBank 0)], mma := [zeroMma] }) meOperands

/-- A list of one block. -/
theorem getD_replicate {α : Type} (x d : α) : ∀ n i, i < n → (List.replicate n x).getD i d = x := by
  intro n
  induction n with
  | zero => intro i h; omega
  | succ n ih =>
    intro i h
    cases i with
    | zero => rfl
    | succ i => exact ih i (by omega)

/-- The blocks of a slot of zeros. -/
theorem zero_blocks (s : State) (h : clean s = true) (base : Nat) (hb : base + 8448 ≤ 0x2F0000) :
    ((upto 64).map fun i => operandBlock s 0 base 8 i 0) = List.replicate 64 (mxSplit 8 0) := by
  have e : mxBytes 8 = 33 := by decide
  have hl : ((upto 64).map fun i => operandBlock s 0 base 8 i 0) = (upto 64).map fun _ => mxSplit 8 0 := by
    refine List.map_congr_left fun a ha => ?_
    have := (mem_upto _ _).mp ha
    unfold operandBlock
    rw [e, clean_scrRead s h _ _ (by omega)]
  rw [hl, List.map_const']
  rfl

/-- The products of blocks of zeros. -/
def zeroTerm (rows cols : List (List Int × Nat)) (pos : Nat) : Option Int :=
  let x := rows.getD (pos / 64) ([], 0)
  let y := cols.getD (pos % 64) ([], 0)
  if x.2 = 0xFF || y.2 = 0xFF then none
  else
    let dot := (((x.1.drop (0 * 8 % 32)).take 8).zipWith (· * ·) ((y.1.drop (0 * 8 % 32)).take 8)).foldl (· + ·) 0
    let e := stepExp x.2 y.2 8 8 0
    some (if e < 0 then dot / ((2^(-e).toNat : Nat) : Int) else dot * ((2^e.toNat : Nat) : Int))

/-- MatrixJobs, K_STEP: the first step of an MMA of zeros, which the coma can take. -/
theorem witness_MatrixJobs_kStep :
    (coreOf kState 0).me.mma = [zeroMma] ∧ bankOf (coreOf kState 0).me 1 = some (zeroBank 0) ∧ gangK 0 0 = 8 ∧
    slotBase (descOf kState 0 5) zeroMma.sa = 0x1000 ∧ slotBase (descOf kState 0 6) zeroMma.sb = 0x4000 ∧
    (stepGo 1 0 (zeroTerm ((upto 64).map fun i => operandBlock kState 0 0x1000 8 i 0) ((upto 64).map fun i => operandBlock kState 0 0x4000 8 i 0))
      0 (zeroBank 0).lanes (zeroBank 0).poison (coreOf kState 0).me.coma).2.2.2 = .done := by
  refine ⟨rfl, rfl, by decide, by decide +kernel, by decide +kernel, ?_⟩
  have hc : clean kState = true := by decide +kernel
  rw [zero_blocks kState hc 0x1000 (by omega), zero_blocks kState hc 0x4000 (by omega)]
  refine stepGo_zeros 1 _ _ 4096 0 fun p _ hp => ?_
  unfold zeroTerm
  rw [getD_replicate _ _ _ _ (by omega), getD_replicate _ _ _ _ (by omega)]
  decide +kernel

/-- A lane past its range, a coma full of another bank's entries, whose drain goes on: the K-step waits for it. -/
def fullBank : Bank := { zeroBank 0 with lanes := (2^19 : Int) :: List.replicate 4095 0 }
def fullState : State :=
  mx (fun m => { m with banks := [(1, fullBank), (2, zeroBank 0)], coma := List.replicate 2048 ⟨2, 0, 1⟩, mma := [zeroMma],
                        drain := some { zeroDrain with bank := 2 } }) meOperands

/-- MatrixJobs, K_STEP: a step that waits, and one that goes on from where it waited. -/
theorem witness_MatrixJobs_kStep_waits :
    (coreOf fullState 0).me.mma = [zeroMma] ∧ bankOf (coreOf fullState 0).me 1 = some fullBank ∧ comaWaits (coreOf fullState 0).me 1 false = true ∧
    (stepGo 1 0 (zeroTerm ((upto 64).map fun i => operandBlock fullState 0 0x1000 8 i 0) ((upto 64).map fun i => operandBlock fullState 0 0x4000 8 i 0))
      0 fullBank.lanes fullBank.poison (coreOf fullState 0).me.coma).2.2.2 = .full 0 ∧
    (stepGo 1 4095 (fun _ => some 0) 4095 [0] [false] []).2.2.2 = .done := by
  refine ⟨rfl, rfl, by decide +kernel, ?_, by decide +kernel⟩
  have hc : clean fullState = true := by decide +kernel
  rw [zero_blocks fullState hc 0x1000 (by omega), zero_blocks fullState hc 0x4000 (by omega)]
  decide +kernel

/-- MatrixJobs: a row that a drain can write, a row that a load can take, a commit. -/
theorem witness_MatrixJobs_rows :
    (let s := mx (fun m => { m with banks := [(1, zeroBank 0)], drain := some zeroDrain }) (ringAt 16 0x10000 32768 1 3 4 false me0)
     okWith (drainRow s 0 zeroDrain (zeroBank 0) [] 64 0) (fun _ => true) = true ∧
       tailEmpty s 0 16 (descOf s 0 16) = true ∧ (∀ o ∈ [(0, [1, 2, 3, (4 : Byte)])], 0x10000 + o.1 + o.2.length ≤ 0x2F0000) ∧ zeroDrain.out < 48 ∧ zeroDrain.addend ≠ some zeroDrain.out ∧ (descOf s 0 16).tail < 64) ∧
    (let s := mx (fun m => { m with banks := [(1, zeroBank 0)], load := some zeroLoad }) (fullSlot 5 0 0xB000 (ringAt 5 0x1000 32768 1 4 3 false me0))
     zeroLoad.row < 64 ∧ zeroLoad.src < 16 ∧
       (loadGo s 0 (slotBase (descOf s 0 5) (descOf s 0 5).head) 0 1 64 (64 * 63) (zeroBank 0).lanes []).2.2 = .done) ∧
    (let s := put (mx (fun m => { m with banks := [(1, zeroBank 0)], coma := List.replicate 2048 ⟨2, 0, 1⟩, load := some zeroLoad, drain := some { zeroDrain with bank := 2 } })
        (fullSlot 5 0 0xB000 (ringAt 5 0x1000 32768 1 4 3 false me0))) (0x1000 + 8 * 4032) 8 (2^19)
     (loadGo s 0 0x1000 0 1 64 4032 (zeroBank 0).lanes (coreOf s 0).me.coma).2.2 = .full 4032 ∧ comaWaits (coreOf s 0).me 1 false = true ∧
       (loadGo s 0 0x1000 0 1 1 4095 (zeroBank 0).lanes (coreOf s 0).me.coma).2.2 = .done) := by
  decide +kernel

/-! The command processor. -/

/-- Die 0 with the records of its queues from 0x4000, whose partition is 0 and whose state is active, page 0 in its TLB, counters from 0x100. -/
def cpBase : State :=
  let s := { modPart (placeTeam State.reset) 0 (fun p => { p with hssBase := 0x100, hssCount := 0x100 }) with cur := .cp 0 }
  putD (modDie s 0 fun x => { x with tlb := [⟨0, 4, 0, 0x3D⟩], cp := { x.cp with lqbase := 0x4000 } }) 0x4068 4 1
/-- Queue 0 is resident with this packet in hand. -/
def withPacket (b : List Byte) (s : State) : State := modCp s 0 fun c => { c with q := [(0, { limit := 1, pkt := some b })] }
/-- A packet: type, flags, the half word at 2, the word at 4, the double word at 8. -/
def packet (t f m a v : Nat) : List Byte := natBytes 1 t ++ natBytes 1 f ++ natBytes 2 m ++ natBytes 4 a ++ natBytes 8 v
/-- Queue 0 runs a program of one op. -/
def withOp (w : Nat) : State := { placeOp w cpBase with cur := .cp 0 }

/-- GrailoOps: each kind of op is the next one of the queue whose program runs; a window of 64 bytes that can be read and written; a packet that
may be emitted. -/
theorem witness_GrailoOps :
    (∀ p ∈ ([(0x04400000, .grailoAdd ⟨1, 0, 0⟩), (0x18400001, .grailoAddi ⟨1, 0, 1⟩), (0x1C400001, .grailoShli ⟨1, 0, 1⟩), (0x24400001, .grLdk ⟨1, 1⟩),
        (0x30000001, .grBrz ⟨0, 1⟩), (0x38000101, .grLoop ⟨0, 1, 1⟩), (0x3C400000, .grEmit ⟨1, 0⟩), (0x40000000, .grFault ⟨0⟩),
        (0, .grailoEnd)] : List (Nat × Instr)),
      grPick (withOp p.1) 0 p.2 = some (0, {})) ∧
    (let s := putD (withOp 0x28400000) 0x4030 8 (0x1000 + 6)
     grPick s 0 (.grLdm ⟨1, 0, 0, 0⟩) = some (0, {}) ∧ lqWindow s 0 0 0 = some (0x1000, 64) ∧
       okWith (cpRead 0 0 0x1000 8 (cpServed s 0 0)) (fun _ => true) = true ∧
       okWith (cpWrite 0 0 0x1038 (natBytes 8 5) (cpServed s 0 0)) (fun _ => true) = true) ∧
    (withOp 0).cur = .cp (BitVec.ofNat 2 0) ∧ lqDepth (withOp 0) 0 0 = 0 := by decide +kernel

/-- A slice record at 0x2000 of one crew of one team. -/
def sliceRec (s : State) : State := putD (putD s 0x2020 4 1) 0x2024 1 1

/-- A graph at 0x1000 of that slice, one frame of 64 bytes at 0x3000, its template at 0x2800; the frames in use. -/
def graphIn (use : Nat) : State :=
  let s := sliceRec (withPacket (packet 2 0 0 0xFFFFFFFF 0x1000) cpBase)
  putD (putD (putD (putD (putD (putD s 0x1000 2 1) 0x1004 2 0x601) 0x1008 8 0x2000) 0x1018 8 0x2800) 0x1020 8 0x3000) 0x1028 8 use

/-- What LaunchPackets asks of a graph, up to the write of its use map. -/
def graphReady (use : Nat) : CpM Bool := do
  let h ← cpRead 0 0 0x1000 64
  let eb ← cpRead 0 0 (recF h 0x10 8) (4 * recF h 2 2)
  cpSlices 0 0 [recF h 8 8]
  let patch ← graphPatch 0 0 (2^(recF h 5 1)) (packet 2 0 0 0xFFFFFFFF 0x1000)
  let tpl ← cpRead 0 0 (recF h 0x18 8) (2^(recF h 5 1))
  cpWrite 0 0 (recF h 0x20 8) tpl
  cpApply 0 0 (recF h 0x20 8) patch
  cpWrite 0 0 0x1028 (natBytes 8 (use + 1))
  pure (!badGraph h && eb.isEmpty && recF h 0 2 == 1 && recF h 0x28 8 == use)

/-- LaunchPackets: every type of packet in hand. -/
theorem witness_LaunchPackets :
    (let s := sliceRec (withPacket (packet 1 0 0 0 0x2000) cpBase)
     someWith (cpPick s 0 1) (fun r => r.1 == 0) = true ∧
       okWith (cpRead 0 0 0x2000 256 (cpServed s 0 0)) (fun r => !badSlice r.1) = true) ∧
    (someWith (cpPick (graphIn 0) 0 2) (fun r => r.1 == 0) = true ∧ okWith (graphReady 0 (cpServed (graphIn 0) 0 0)) (fun r => r.1) = true ∧
      okWith (cpRead 0 0 0x1000 64 (cpServed (graphIn 1) 0 0)) (fun r => recF r.1 0x28 8 == 1) = true) ∧
    (let s := withPacket (packet 3 0 0 (0x1FF + 2^16 * 3) 1) cpBase
     someWith (cpPick s 0 3) (fun r => r.1 == 0 && r.2.1.wait.isNone) = true ∧ hssInRange s 0 0x1FF = true ∧ hssPoisoned s 3 0x1FF = false ∧
       hssGet s 3 0x1FF < sgn 64 1 ∧ sgn 64 0 ≤ hssGet s 3 0x1FF) ∧
    (let s := withPacket (packet 3 0 1 1 0x800) cpBase
     someWith (cpPick s 0 4) (fun r => r.1 == 0) = true ∧
       okWith (readVia (cpTgt 0 0) 2 (cpServed s 0 0) 0 0x800 8).1 (fun l => decide (sgn 64 (bytesNat l) < sgn 32 1) && decide (sgn 32 0 ≤ sgn 64 (bytesNat l))) = true) ∧
    someWith (cpPick (withPacket (packet 4 0 0 0x100 1) cpBase) 0 5) (fun r => r.1 == 0) = true ∧
    (let s := withPacket (packet 4 0 1 1 0x800) cpBase
     someWith (cpPick s 0 6) (fun r => r.1 == 0) = true ∧ okWith (cpWrite 0 0 0x800 (natBytes 8 1) (cpServed s 0 0)) (fun _ => true) = true) ∧
    (let s := withPacket (packet 5 0 0 (2^20) 0x800) cpBase
     someWith (cpPick s 0 7) (fun r => r.1 == 0) = true ∧ lqDepth s 0 0 = 0 ∧
       lqDepth (putD (putD (putD s 0x4078 4 1) 0x4088 4 1) 0x4098 4 1) 0 0 = 3) ∧
    someWith (cpPick (withPacket (packet 6 0 0 0 0) cpBase) 0 8) (fun r => r.1 == 0) = true ∧
    someWith (cpPick (withPacket (packet 7 0 0 0 0) cpBase) 0 9) (fun r => r.1 == 0) = true ∧
    (let s := withPacket (packet 6 0 0 0 0) cpBase
     someWith (tget? (cpOf s 0).q 0) (fun x => x.run.isNone && decide (x.limit ≤ lqRidx s 0 0 + 1)) = true ∧ lqRidx s 0 0 + 1 < 2^64) := by
  decide +kernel

/-- KnocksAndScans: a knock by its own partition that is fresh, one of an old sequence, and one of another partition by a peer; a set bit after
the last taken, and one before it; a wait in memory that is due; a signal that has come and one that has not. -/
theorem witness_KnocksAndScans :
    (knockPart (.context 0) = some (lqPart cpBase 0 0) ∧ (1 + 2^32 - lqF cpBase 0 0 0x6C 4 % 2^32) % 2^32 = 1 ∧
      (0 + 2^32 - lqF cpBase 0 0 0x6C 4 % 2^32) % 2^32 = 0 ∧ knockPart (.peer 1) = some 1 ∧ (1 : Nat) ≠ lqPart cpBase 0 0) ∧
    (let c := cpOf (modCp cpBase 0 fun c => { c with kvec := [5], scanPos := 4 }) 0
     5 ∈ c.kvec ∧ c.scanPos < 5 ∧ ∀ k ∈ c.kvec, c.scanPos < k → 5 ≤ k) ∧
    (let c := cpOf (modCp cpBase 0 fun c => { c with kvec := [5] }) 0
     (∀ k ∈ c.kvec, k ≤ c.scanPos) ∧ ∀ k ∈ c.kvec, 5 ≤ k) ∧
    (let s := putD (modCp cpBase 0 fun c => { c with q := [(5, { limit := 0 })] }) 0x450A 1 1
     (tget? (cpOf s 0).q 5).isSome = true ∧ lqF s 0 5 0x0A 1 % 2 = 1 ∧ lqState s 0 5 < 2) ∧
    (let s := modCp cpBase 0 fun c => { c with q := [(0, { limit := 1, pkt := some (packet 3 0 1 1 0x800), wait := some (.mem 0x800 1 0) })] }
     rereadDue s 0 = some (0, packet 3 0 1 1 0x800, 0x800, 1) ∧
       okWith (readVia (cpTgt 0 0) 2 (modCp s 0 fun c => { c with ready := s.now + 1 }) 0 0x800 8).1 (fun l => decide (sgn 64 (bytesNat l) < 1)) = true ∧
       okWith (readVia (cpTgt 0 0) 2 (putD s 0x800 8 1) 0 0x800 8).1 (fun l => decide ((1 : Int) ≤ sgn 64 (bytesNat l))) = true) := by
  decide +kernel


/-! Copy engines. -/

/-- Queue 3 of core 0's copy engine holds one packet, of this kind and these flags. -/
def readyCe (kind flags : Nat) : State :=
  { put (put (linImage 0x600 (copyQueue 1 0 (cx []))) 0x600 1 kind) 0x601 1 flags with cur := .ce 0 }

/-- A packet in hand of core 0's copy engine: kind, flags, source, destination, bytes; one plane of one row. -/
def jobOf (kind flags src dst len : Nat) : CopyJob :=
  { queue := 3, idx := 0, va := (own 0x600).toNat, part := 0, limit := 10, since := 0, nbv := 2
    pkt := natBytes 1 kind ++ natBytes 1 flags ++ natBytes 6 0 ++ natBytes 8 src ++ natBytes 8 dst ++ natBytes 4 len ++
      (if kind = 1 ∨ kind = 6 then natBytes 4 0 else natBytes 4 0x10001) ++ natBytes 24 0 ++ natBytes 4 0x1000 ++ natBytes 2 0x100 ++ natBytes 1 1 ++
      natBytes 1 0 }
/-- The engine goes on with it. -/
def onCe (j : CopyJob) : State := { setJob (copyQueue 1 0 (sx [])) 0 (some j) with cur := .ce 0 }

/-- CopyEngineRows: a ready packet of each row, announced, and one that only the scan sees; a packet of each row to go on with; a slot that is
empty, and one that is full; a packet that only prefetches; a publish to a shared page; source and destination side by side; a fill of the last
bytes below the system area; a packet of two groups at the first mark and of one at the last; a wait that has lasted too long; each stage of the
end; a landing at the last barrier of the scratchpad, and one seen before. -/
theorem witness_CopyEngineRows :
    ((upto 7).all fun k =>
      let s := readyCe (if k = 6 then 1 else k + 1) (if k = 6 then 8 else 0)
      someWith (nextReady s 0 true) fun r => readyRow s 0 r.2.1 r.2.2 == k + 1 && !r.2.1.overrun && decide (r.2.2.used ≤ 2^r.2.2.logn) &&
        okWith (unitRead s 0 r.2.1.part.toNat (r.2.2.entry r.2.2.ridx) 64).1 (fun _ => true)) = true ∧
    (readyCe 1 0).cur = .ce (BitVec.ofNat 7 0) ∧ (ceOf (readyCe 1 0) 0).job = none ∧
    (let s := put (readyCe 1 0) 0x420 8 0
     nextReady s 0 true = none ∧ (nextReady s 0 false).isSome = true) ∧
    ((upto 7).all fun k =>
      let j := jobOf (if k = 6 then 1 else k + 1) (if k = 6 then 8 else 0) 0 0 64
      decide (j.stage = 0 ∧ j.held = false) && rowOfKind j.kind (j.f 1 1) == k + 1 && decide (j.flag 3 = true ↔ k = 6) && !j.flag 4) = true ∧
    (let j := jobOf 1 16 0 ((own 0).toNat + 5) 64
     j.flag 4 = true ∧ j.slot = none ∧ j.slotName 0 = some (0, 5) ∧ slotState (ringOn []) 0 5 (descOf (ringOn []) 0 5).tail = 0 ∧
       (let t := after (.qpush ⟨0, 9, 8, 5⟩) (ringFull [])
        slotState t 0 5 (descOf t 0 5).tail ≠ 0) ∧ j.limit ≠ 0 ∧ j.limit < ({ onCe j with now := 11 } : State).now - j.since) ∧
    (let s := modCore { onCe (jobOf 6 2 0 0x100 0) with shutters := [(0, { size := 1, en := true })] } 0 fun k => { k with utlb := [⟨0, 4, 0, 0x43D⟩] }
     match translate s 0 0 true ⟨false, true, false, false⟩ 0x100 with
     | (.ok _ pte, _) => pteShv pte
     | _ => false) = true ∧
    (let j := jobOf 1 0 (own 0x2FFFC0).toNat (own 0x2EFFC0).toNat 64
     let s := onCe j
     j.groups = 0 ∧ j.next = 0 ∧ j.rdata = none ∧ j.saddr = 0xFE * 2^48 + 0x2FFFC0 ∧ j.daddr = 0xFE * 2^48 + 0x2EFFC0 ∧ j.len0 = 64 ∧
       0x2EFFC0 + j.len0 ≤ 0x2FFFC0 ∧ Defined s 0 0x2FFFC0 64 ∧ ∀ n, n < 64 → frameAt s 0 (0x2FFFC0 + n) = none) ∧
    (let j := jobOf 5 0 0x0807060504030201 (own 0x2EFFC0).toNat 64
     j.kind = 5 ∧ j.len1 = 1 ∧ j.len2 = 1 ∧ j.daddr = 0xFE * 2^48 + 0x2EFFC0 ∧ j.len0 = 64) := by
  unfold Defined; decide +kernel

/-- The same at its marks: the first of two groups, the last of one, with and without a landing; and each stage of its end. -/
theorem witness_CopyEngineRows_marks :
    (let j := { jobOf 1 0 0 0x100000 0x10001 with next := 0x10000 }
     j.outs = [] ∧ j.rd = none ∧ j.refused = none ∧ j.groupEnd ≤ j.next ∧ j.flag 3 = false ∧ j.sectors j.groups ≠ 0 ∧ j.next < j.total ∧
       j.flag 5 = false) ∧
    (let j := { jobOf 1 32 0 0x100000 64 with next := 64 }
     j.groupEnd ≤ j.next ∧ j.sectors j.groups ≠ 0 ∧ j.total ≤ j.next ∧ j.flag 5 = true ∧ j.flag 4 = false ∧ j.slot = none) ∧
    ((jobOf 1 0 0 0 64).flag 1 = false ∧ (jobOf 1 0 0 0 64).sem ≠ 0xFFFF ∧ (jobOf 1 0 0 0 64).semd ≠ 0) ∧
    ((jobOf 6 2 0 0 0).flag 1 = true ∧ (jobOf 6 2 0 0 0).asked = false ∧ cePublishing (onCe (jobOf 6 2 0 0 0)) 0 (jobOf 6 2 0 0 0) = false) ∧
    (let l : Landing := ⟨0, 0x2EFFF0, false, 0, 3, 7, 1, 1⟩
     sysRead (cx []) 0 0x2F4800 4 ≠ l.seq.toNat ∧ l.off.toNat + 16 ≤ 0x2F0000 ∧
       (let t := after (.landing l) (cx [])
        sysRead t 0 0x2F4800 4 = l.seq.toNat ∧ sysRead t 0 0x2F4804 4 = l.groups.toNat ∧ sysRead t 0 0x2F4808 1 = l.queue.toNat + 128)) := by
  decide +kernel

/-! Collective and halo engines. -/

/-- A collective packet of a kind: four INT32 elements from 0x1000 to 0x2000, table at 0x800, instance 7, rank 0 of `n`, counter 0x100. -/
def collPkt (kind n : Nat) : List Byte :=
  natBytes 1 kind ++ natBytes 7 0 ++ natBytes 8 0x1000 ++ natBytes 8 0x2000 ++ natBytes 4 4 ++ natBytes 1 5 ++ natBytes 3 0 ++ natBytes 8 0x800 ++
    natBytes 4 7 ++ natBytes 2 0 ++ natBytes 2 n ++ natBytes 8 0 ++ natBytes 4 0 ++ natBytes 2 0x100 ++ natBytes 2 1
/-- That packet in service. -/
def collJob (kind n : Nat) : XeJob := { queue := 3, idx := 0, pkt := collPkt kind n, va := 0x600, part := 0 }
/-- The die's walkers hold page 0. -/
def die0 : State := modDie (sx []) 0 fun x => { x with tlb := [⟨0, 4, 0, 0x3D⟩] }
/-- The collective engine of die 0 runs, with these packets in service and this contribution at hand. -/
def onXe (l : List XeJob) (i : List Contrib) : State :=
  { modXe die0 0 fun e => { e with jobs := l.map fun j => (3, j), inbox := i.map fun x => (0, x) } with cur := .xe 0 }
/-- Queue 3 of that engine holds one packet of a kind. -/
def queuedXe (kind : Nat) : State :=
  let t := modXe (onXe [] []) 0 fun e => { e with slots := [(3, ⟨0x400, 0, false, false, false⟩)] }
  putD (putD (putD (putD (putD t 0x400 8 0x600) 0x408 1 2) 0x410 8 1) 0x420 8 1) 0x600 1 kind
/-- The halo engine of die 0 runs, on the grid of one partition, with these staged steps and strips; its tags are 3, its REL and COMMIT 4. -/
def onHe (rules : Nat) (l : List HaloStage) (x : List Strip) : State :=
  { putD (modHe (gridIn rules 3 4 (sx [])) 0 fun h => { h with stages := l, strips := x }) 0x81C 4 4 with cur := .he 0 }
/-- Step 4 of that partition, with nothing handled. -/
def staged : HaloStage := ⟨0, 9, 0, 4, [(1, [1, 2, 3, 4])], []⟩
/-- A strip for its low face. -/
def strip : Strip := { part := 0, grid := 9, idx := 0, face := 0, step := 4, cells := [(0, [1, 2, 3, 4])], sender := some (0, 1) }

/-- CollectiveAndHaloRows: a packet of each kind to go on with, and ready; a collective of one rank; a first contribution of two, a last one, and
one that does not agree; an end with an error, and one with a result at each stage; a face of each sort to fill; a strip of each origin to land;
a grid load that waits. -/
theorem witness_CollectiveAndHaloRows :
    ((upto 5).all fun k =>
      someWith (xeUnsent (onXe [collJob (k + 1) 2] []) 0) (fun j => j.f 0 1 == k + 1) &&
      (let s := queuedXe (k + 1)
       (xeUnsent s 0).isNone && someWith (xeNext s 0 true) fun r => xeKind s 0 r == k + 1 &&
         match r with
         | (_, q, .ok kd) => !q.overrun && decide (kd.used ≤ 2^kd.logn) && okWith (dieRead s 0 q.part.toNat (kd.entry kd.ridx) 64).1 (fun _ => true)
         | _ => false)) = true ∧
    (onXe [] []).cur = .xe (BitVec.ofNat 2 0) ∧ (onHe 0 [] []).cur = .he (BitVec.ofNat 2 0) ∧
    (let j := collJob 1 1
     let x := j.contrib []
     let s := onXe [j] []
     x.kind = 1 ∧ x.badPkt = false ∧ x.nrank = 1 ∧ dieOfCore 0 = 0 ∧ coreInPart s j.part.toNat 0 = true ∧ j.flag 5 = false ∧
       hssInRange s j.part.toNat (j.f 0x3C 2) = true ∧
       (match dieRead s 0 j.part.toNat x.group 8 with
        | (.ok l, s1) => l.length == 8 && recF l 0 8 / 2^19 == 0 && recF l 0 8 % 2^12 == s.peer.toNat && recF l 0 8 / 2^12 % 2^7 == 0 &&
            okWith (readVia (xeTgt 0 0 j.part.toNat) (x.count * collBytes x.fmt / 64 + 2) s1 (32 * 0) (j.f 8 8) (x.count * collBytes x.fmt)).1 (fun _ => true)
        | _ => false) = true) ∧
    (let x := (collJob 1 2).contrib (List.replicate 16 1)
     (insertContrib 0 x []).length < x.nrank ∧ ({ x with pkt := collPkt 1 1 } : Contrib).nrank ≤ (insertContrib 0 x []).length ∧
       agree x { x with arrival := true } = false) ∧
    (let j := { collJob 1 2 with status := 0x1D }
     xeReady (onXe [j] []) 0 = some j ∧ j.result = none) ∧
    (let j := { collJob 1 2 with result := some (List.replicate 16 1) }
     let s := onXe [j] []
     xeReady s 0 = some j ∧ j.stages < collLevels (j.f 0x2E 2) ∧ collLevels (j.f 0x2E 2) ≤ 1 ∧
       (writeVia (xeTgt 0 0 0) 2 s 0 0 (j.f 0x10 8) (List.replicate 16 1)).1.isNone = true ∧ j.flag 5 = false ∧ j.f 0x3C 2 ≠ 0xFFFF ∧ j.f 0x3E 1 ≠ 0) := by
  decide +kernel

/-- The halo engine's part. -/
theorem witness_CollectiveAndHaloRows_halo :
    okWith (nextStage (onHe 0x09 [staged] []) 0 [staged]) (fun r => someWith r fun x => x.2.1.physical x.1.idx x.2.2.1) = true ∧
    okWith (nextStage (onHe 0 [staged] []) 0 [staged]) (fun r => someWith r fun x => !x.2.1.physical x.1.idx x.2.2.1 &&
      mapPeer (x.2.1.entry (x.2.1.neighbour x.1.idx x.2.2.1)) == (onHe 0 [] []).peer.toNat) = true ∧
    okWith (nextStrip (onHe 0 [] [strip]) 0 [strip]) (fun r => r.isSome) = true ∧
    (dieRead (onHe 0 [] []) 0 0 ((lineGrid 0).state + 64 * 0) 64).1.isOk = true ∧
    (let x := { strip with sender := none, sig := some (unitTx die0 .signal 6 0 0 1 0 0) }
     okWith (nextStrip (onHe 0 [] [x]) 0 [x]) (fun r => r.isSome) = true) ∧
    (let w : Waiting := ⟨8, 0, 0, none, false, 0, 0, 0⟩
     (curCtx (modCore (cx []) 0 fun k => { k with l := { k.l with waiting := some w } })).waiting = some w ∧
       (seqrOf (modSeqr (cx []) 0 .ve fun q => { q with waiting := some w }) 0 .ve).waiting = some w ∧ w.kind = 8) := by
  decide +kernel

/-! Dispatch. -/

/-- A slice record: context L from 0x1000, `n` crews of one team, class bits, one token, no deadline, quantum 2^20, an estimate of 100. -/
def dispRec (cls n : Nat) : List Byte :=
  natBytes 8 0x1000 ++ natBytes 24 0 ++ natBytes 4 n ++ natBytes 1 1 ++ natBytes 1 cls ++ natBytes 1 1 ++ natBytes 1 0 ++ natBytes 4 (2^32 - 1) ++
    natBytes 12 0 ++ natBytes 8 100 ++ natBytes 192 0
/-- Its handover. -/
def handed (cls n : Nat) : Handover := ⟨0, none, 0, 0, 0x2000, dispRec cls n, none⟩
/-- The slice in its entry, accepted for core 0, with these crews. -/
def sliceOf (cls n : Nat) (l : Tab Crew) : Slice :=
  { from_ := handed cls n, num := 0, since := 0, deadline := 2^64 - 1, tokens := 1, eff := 0, bound := true, home := 1, crews := l }
/-- A crew on core 0. -/
def onCore (st : CrewSt) : Crew := { st := st, cores := [0], scy0 := [0] }
/-- Dispatch of die 0 runs with these slices; core 0 is the crew's of entry 1, or, free, no one's. -/
def onDisp (free : Bool) (l : Tab Slice) : State :=
  let s := modPart (modCore (if free then freeCore 0 die0 else die0) 0 fun k => { k with team := if free then none else some ⟨1, 0, 0, 0⟩ }) 0
    fun p => { p with frames := 4, bcap := 1000 }
  { modDisp s 0 fun x => { x with rmu := l, sltbase := 0x8000 } with cur := .dispatch 0 }
/-- The holder in entry 1, the newcomer in entry 0. -/
def contest (cls dthr kmarg : Nat) : State :=
  onDisp false [(0, { sliceOf 0 1 [] with num := 1 }), (1, { sliceOf cls 1 [(0, onCore .bound)] with tokens := 0, dthr := dthr, kmarg := kmarg })]
/-- A bind record for entry 0. -/
def bindRec (ctl home : Nat) : BindRecord := ⟨0, 0, 0, BitVec.ofNat 32 ctl, BitVec.ofNat 32 home, 0, 0, 0, 50⟩

/-- DispatchRows: a slice that waits for an entry; a crew that has ended; one that binds first, one that returns, one whose
place is lost; each decision on a holder; a team that yields; a slice that is done; a budget used up, by class; records that are withdrawn, refused,
accepted, and that extend and cancel a parked slice. -/
theorem witness_DispatchRows :
    (onDisp true []).cur = .dispatch (BitVec.ofNat 2 0) ∧
    (let s := modDisp (onDisp true []) 0 fun x => { x with pending := [handed 0 1] }
     (dispOf s 0).pending = handed 0 1 :: [] ∧ freeEntry s 0 = some 0) ∧
    endedCrew (onDisp true [(1, sliceOf 0 1 [(0, onCore .bound)])]) 0 = some (1, 0) ∧
    (let ok (s : State) (st : CrewSt) (lost : Bool) : Bool :=
       (endedCrew s 0).isNone && (unsavedCrew s 0).isNone && (lostCrew s 0).isSome == lost && someWith (if lost then lostCrew s 0 else nextBind s 0) fun x =>
         decide (tget? (dispOf s 0).rmu x.e = some x.sl ∧ x.k = x.sl.crew x.c ∧ x.cores.Nodup ∧ x.k.st = st) &&
           (lost || st == .never || x.k.images.map (·.core) == x.cores)
     ok (onDisp true [(1, sliceOf 0 1 [])]) .never false = true ∧ (freeRun (onDisp true [(1, sliceOf 0 1 [])]) 0 0).isSome = true ∧
       ok (onDisp true [(1, sliceOf 0 1 [(0, { onCore .saved with images := [imageOf die0 0] })])]) .saved false = true ∧
       ok (onDisp true [(1, sliceOf 0 1 [(0, { onCore .saved with cores := [33] })])]) .saved true = true) ∧
    (let ok (s : State) (n : Nat) : Bool :=
       (endedCrew s 0).isNone && (unsavedCrew s 0).isNone && (lostCrew s 0).isNone && (nextBind s 0).isNone && someWith (nextDecision s 0) fun r =>
         r.1.e != r.2.1 && decide (tget? (dispOf s 0).rmu r.2.1 = some r.2.2.1) && decision s r.1.sl r.2.2.1 (r.2.2.1.crew r.2.2.2) == n
     ok (contest 0 100 0) 1 = true ∧ ok (contest 1 99 0) 2 = true ∧ ok (contest 2 99 1) 3 = true ∧ ok (contest 0 99 0) 4 = true) ∧
    (let s := modCore (onDisp false [(0, { sliceOf 0 1 [] with num := 1 }), (1, sliceOf 1 1 [(0, onCore .bound)])]) 0 fun k => { k with yieldAt := some 0 }
     someWith (swapDue { s with now := 1 } 0) fun r => decide (tget? (dispOf s 0).rmu r.1 = some r.2.1) && r.2.2.2) = true ∧
    (let s := onDisp true [(1, sliceOf 0 1 [(0, { onCore .ended with cores := [] })])]
     someWith (doneSlice s 0) fun r => decide (tget? (dispOf s 0).rmu r.1 = some r.2)) = true ∧
    (let ok (cls : Nat) (can : Bool) : Bool :=
       let s := onDisp false [(1, { sliceOf cls 1 [(0, onCore .bound)] with cancel := can, ever := true })]
       someWith (budgetOut s 0) fun r => decide (tget? (dispOf s 0).rmu r.1 = some r.2) && (r.2.ckpt == (cls == 1)) && (r.2.kill == (cls == 2)) &&
         r.2.cancel == can
     ok 1 false = true ∧ ok 1 true = true ∧ ok 2 false = true ∧ ok 0 false = true) ∧
    (let s := onDisp true [(0, sliceOf 0 1 [])]
     tget? (dispOf s 0).rmu 0 = some (sliceOf 0 1 []) ∧ (bindRec 0 1).ctl.getLsbD 0 = false ∧ badBind s (bindRec 1 1) (sliceOf 0 1 []) = false ∧
       badBind s (bindRec 1 0) (sliceOf 0 1 []) = true ∧ badBind s (bindRec 3 1) (sliceOf 0 1 []) = false ∧
       badBind s (bindRec 5 1) (sliceOf 0 1 []) = false ∧ badBind s (bindRec 9 1) (sliceOf 0 1 []) = true) := by
  decide +kernel

/-! Paging and shutters. -/

/-- Partition 0 has tables from 0x8000 whose level 2 maps the first GiB; no TLB holds anything. -/
def tables : State :=
  let s := modPart (modDie (modCore (sx []) 0 fun k => { k with utlb := [] }) 0 fun x => { x with tlb := [] }) 0 fun p => { p with ptbr := 0x8000 }
  putD (putD (putD s 0x8000 8 0x9001) 0x9000 8 0xA001) 0xA000 8 0x3F
/-- A walk of unit kind `k` of die 0 and core 0 for a read. -/
def walkOf (k va : Nat) : WalkReq := ⟨0, 0, BitVec.ofNat 64 va, false, false, BitVec.ofNat 4 k, 0⟩
/-- Fault-queue entries of die 0. -/
def faults (l : Tab FqE) : State := modDie tables 0 fun x => { x with fq := l }
/-- A pending entry of the granule of 1 GiB. -/
def pendingAt (h : List Held) : FqE := { va := 0x40000000, state := 1, held := h }
/-- A publish of shutter 5 by core 0's queue 3, packet 7. -/
def publishOf (b : Bool) (l : List Nat) : Publish := ⟨5, 0, 0, 3, 7, 1, b, l⟩
/-- That packet, its bytes written. -/
def publisher : CopyJob := { jobOf 6 2 0 0x100 0 with stage := 2, groups := 1, pkt := natBytes 4 0x206 ++ natBytes 4 7 ++ natBytes 56 0 }
/-- It is under way; the shutter, by its enable and its last key. -/
def withShutter (en : Bool) (key : Option (Nat × Nat × Nat × Nat)) (p : Publish) : State :=
  { sx [] with shutters := [(5, { size := 1, en := en, key := key })], pubs := [p] }

/-- PagingRows: the first VA that is not translated; a walk that maps, by a die's unit and a core's; a walk that faults, where its granule is
pending, where it is not, and with every entry pending; entries that are not pending, that hold nothing, and that hold a copy; a shutter written
with a field out of range and with none; a publish of a disabled shutter, of one that has this key, and of one that has not; the last die to change,
and one before it; the acknowledgement. -/
theorem witness_PagingRows :
    (2^56 ≤ (walkOf 6 (2^56)).va.toNat ∧ 0xFC ≤ (walkOf 6 (0xFC * 2^48)).va.toNat / 2^48 % 2^8 ∧ (0xFC * 2^48 - 1) / 2^48 % 2^8 < 0xFC) ∧
    (tlbFind (dieOf tables 0).tlb 0 0x12345 = none ∧ tlbFind (coreOf tables 0).utlb 0 0x12345 = none ∧ okWith (walk tables 0 0x12345) (· == (2, 0x3F)) = true ∧
      (translateDie tables 0 0 ⟨true, false, false, false⟩ 0x12345).1 = .ok 0x12345 0x3F ∧
      (translate tables 0 0 true ⟨true, false, false, false⟩ 0x12345).1 = .ok 0x12345 0x3F) ∧
    (let r (s : State) := translateDie s 0 0 ⟨true, false, false, false⟩ 0x40001234
     (r tables).1 = .walkFault 1 ∧ (upto 256).find? (fqMatch (dieOf (r (faults [(3, pendingAt [])])).2 0) 0 0x40001234) = some 3 ∧
       (upto 256).find? (fqMatch (dieOf (r tables).2 0) 0 0x40001234) = none ∧
       (upto 256).find? (fun i => (tget (dieOf (r tables).2 0).fq i {}).state != 1) = some 0 ∧
       (let s := faults ((upto 256).map fun i => (i, { state := 1 }))
        (upto 256).find? (fqMatch (dieOf (r s).2 0) 0 0x40001234) = none ∧
          (upto 256).find? (fun i => (tget (dieOf (r s).2 0).fq i {}).state != 1) = none)) ∧
    ((tget (dieOf (faults []) 0).fq 3 {}).state ≠ 1 ∧ (tget (dieOf (faults [(3, pendingAt [])]) 0).fq 3 {}).held = [] ∧
      (tget (dieOf (faults [(3, pendingAt [.copy 0])]) 0).fq 3 {}).held = [.copy 0] ∧
      ({ jobOf 1 0 0 0x100 64 with held := true } : CopyJob).held = true) ∧
    (let w : ShutterWrite := ⟨5, 0x10000, 0x20000, 1, 2⟩
     w.ctl.toNat / 2 % 2 = 1 ∧ ({ w with size := 0 } : ShutterWrite).size.toNat < 1 ∧
       ownsAll { sx [] with ranges := [⟨0, 2, 1, false⟩] } 0 0x20000 1 = true ∧ ownsAll { sx [] with ranges := [⟨0, 2, 1, false⟩] } 0 0x10000 1 = true) ∧
    (let p := publishOf false []
     (withShutter false none p).pubs.find? (fun p => p.shutter == 5) = some p ∧ p.begun = false ∧
       pubJob (setJob (withShutter false none p) 0 (some publisher)) p ≠ none ∧
       (tget (withShutter true (some p.key) p).shutters 5 {}).key = some p.key ∧ (tget (withShutter true none p).shutters 5 {}).key ≠ some p.key) ∧
    (let s (l : List Nat) : State := withShutter true none (publishOf true l)
     (s [1, 3]).pubs.find? (fun p => p.shutter == 5 && p.begun && p.waitingDies.contains 3) = some (publishOf true [1, 3]) ∧
       (s [3]).pubs.find? (fun p => p.shutter == 5 && p.begun && p.waitingDies.contains 3) = some (publishOf true [3]) ∧
       (s []).pubs.find? (fun p => p.shutter == 5 && p.begun && p.waitingDies.isEmpty) = some (publishOf true [])) := by
  decide +kernel

/-! The fabric. -/

/-- Package 0 of a pool in which partition 0 knows package 1, whose ports are all in service; port 0 is in conjunction 1, which reaches it. -/
def fabricOn (p : Port) (f : Fabric) : State :=
  { modPart (sx []) 0 (fun q => { q with peers := [(1, 3)], expbr := 0x8001 }) with
    peerValid := true, fab := { f with ports := [(0, p)], masks := [(1, (BitVec.allOnes 64, BitVec.allOnes 64))] } }
/-- The port has sent its header and has the partner's, with five slots of each class. -/
def openPort : Port := { synced := true, conj := 1, time := 1, hdrSeen := true, credit := [(0, 5), (1, 5), (2, 5), (3, 5)] }
/-- A transaction of a copy engine for package 1. -/
def outTx (k : TxKind) : Tx := unitTx (sx []) k 5 0 0 1 0x40 8
/-- One that comes from package 1. -/
def inTx (k : TxKind) : Tx := { outTx k with src := 1, dest := 0 }
/-- A whole flit that carries it. -/
def flitOf (vc n : Nat) (t : Tx) : Flit :=
  let f : Flit := ⟨BitVec.ofNat 2 vc, BitVec.ofNat 4 (typeOf t.kind), false, 0, BitVec.ofNat 12 n, false, 0, 0, 0, false, t, 0⟩
  { f with crc := sumOf f }
/-- Context L of core 0 waits for the answer to its access. -/
def askedBy (k : TxKind) : State :=
  let s := fabricOn openPort { asked := [⟨1, 0, 7, k, 0, 0, 0x1234⟩] }
  modCore s 0 fun c => { c with l := { c.l with remote := .sent 7, reqs := [⟨7, none⟩] } }

/-- FabricRows: a dark port; one that owes its header, a marker, a flit again; one that sends a transaction, and one that has none; a relay that
meets its destination; headers of both senders; flits that are damaged, in order, and out of order; the next packet of a source, one ahead, one
of before; requests that the window refuses and that it serves; answers that no one, a load and a store wait for. -/
theorem witness_FabricRows :
    portLit (fabricOn {} {}) 0 = false ∧
    (portLit (fabricOn { openPort with time := 0 } {}) 0 = true ∧ portLit (fabricOn { openPort with marker := true } {}) 0 = true) ∧
    (let p := { openPort with retry := [flitOf 0 3 (outTx .write)], replay := 1 }
     let s := fabricOn p {}
     portLit s 0 = true ∧ usable p = true ∧ 0 < p.replay ∧ p.retry.drop (p.retry.length - p.replay) ≠ [] ∧
       portRow p.slots = portRow ({ p with banks := withOne p.banks 31 } : Port).slots) ∧
    (let s := fabricOn openPort { sendq := [outTx .write] }
     portLit s 0 = true ∧ pickTx s 0 = some (outTx .write, 0, false) ∧ pickTx (fabricOn openPort {}) 0 = none) ∧
    (let s := fabricOn openPort { relay := [(outTx .write, 1)] }
     s.fab.relay.find? (fun e => e.1.dest == 1 && decide (0 < tget openPort.credit e.2.toNat 0)) = some (outTx .write, 1) ∧ partner s 0 1 = 1) ∧
    ((fabricOn openPort {}).peerValid = true ∧ (portOf (fabricOn openPort {}) 0).inService = true ∧ openPort.hdrSeen = true ∧
      openPort.wrong = false ∧ (flitOf 0 0 (inTx .write)).lseq.toNat = openPort.rxNext ∧ (flitOf 0 1 (inTx .write)).lseq.toNat ≠ openPort.rxNext ∧
      (inTx .write).dest = (fabricOn openPort {}).peer) ∧
    (let x := inTx .write
     x.pkt = tget (fabricOn openPort {}).fab.rxNext x.src.toNat 0 ∧ x.status = 0 ∧ x.unitKind ≠ 6 ∧ x.unitKind ≠ 7 ∧
       (({ x with pkt := 1023 } : Tx).pkt - 0).toNat ≤ 1023 ∧
       (tget (fabricOn openPort { rxNext := [(1, 1)], rxStatus := [(1, [(0, 0)])] }).fab.rxStatus 1 []).find? (fun e => e.1 == x.pkt) = some (x.pkt, 0) ∧
       1024 ≤ (x.pkt - 1).toNat) ∧
    (let s := putD (fabricOn openPort {}) 0x8000 8 5
     let place (k : TxKind) := exportTgt s 0 0x40 8 (k != .read) (k == .atomic)
     exportTgt (fabricOn openPort {}) 0 0x40 8 true false = none ∧ place .read = some (.phys 0x40 0x200) ∧ place .write = some (.phys 0x40 0x200) ∧
       place .atomic = some (.phys 0x40 0x200) ∧ hasBad s 0x40 8 = false) ∧
    (let f (x : Tx) (a : Asked) : Bool := a.peer == x.src && a.pkt == x.pkt
     (fabricOn openPort {}).fab.asked.find? (f (inTx .readRsp)) = none ∧
       ((askedBy .read).fab.asked.find? (f (inTx .readRsp))).isSome = true ∧ ((askedBy .write).fab.asked.find? (f (inTx .ack))).isSome = true ∧
       (ctxOf (askedBy .read) 0 (ctxOfNum 0)).remote = .sent 7 ∧ (ctxOf (askedBy .write) 0 (ctxOfNum 0)).reqs = [⟨7, none⟩] ∧
       (ctxOf (askedBy .write) 0 (ctxOfNum 0)).owed = [] ∧ (ctxOf (askedBy .write) 0 (ctxOfNum 0)).rerrValid = false) := by
  decide +kernel

/-! Recovery. -/

/-- A record in the staging buffer of die 0, whose region is of these bytes. -/
def stagedRec (size : Nat) : State :=
  let s := modPart { sx [] with cur := .cp 0 } 0 fun p => { p with trEn := true }
  modDie s 0 fun x => { x with staging := [⟨1, 0, 0, false, 0, 0, 0, 0, 0, 0, 0, 0, 0, 0, 0⟩], trBase := 0x8000, trSize := size }
/-- An update of counter 0x100 by core 0's copy engine. -/
def updateOf : EngineUpdate := ⟨0, 5, 3, 1, 0, 0x100, 2, 5⟩

/-- RecoveryRows: an engine that was not eclipsed lately, and one that was exactly 1,024 cycles ago; a context whose marks are whole, and lost; a
processor of a die; a watchdog that is due, and one that is not; a launch that asks for no rotation, and one that does not; a die of which no core
has a team; a record with a region of one record, and with none; a bad word, in a full slot and elsewhere; an update that is new, and one that is
not. -/
theorem witness_RecoveryRows :
    (me0.cur = engAgent 0 .me ∧ within me0 (seqrOf me0 0 .me).eclAt 1024 = false ∧ nrActive me0 me0.cur = false ∧
      (coreOf me0 0).stopped = false ∧
      (let s := modSeqr { me0 with now := 1024 } 0 .me fun q => { q with eclAt := some 0 }
       within s (seqrOf s 0 .me).eclAt 1024 = true ∧ within { s with now := 1025 } (seqrOf s 0 .me).eclAt 1024 = false ∧
         within s (coreOf s 0).resetAt 17000 = false ∧ markLost s 0 = false)) ∧
    (nrActive (put ve0 (qOff .ve 0) 1 16) (.ve 0) = true) ∧
    (markLost (cx []) 0 = false ∧ markLost { cx [] with bad := [scrKey 0 0x2F3600 / 8] } 0 = true ∧ (cx []).cur = .ctx 0 .L) ∧
    (within cpBase (dieOf cpBase 0).resetAt 4250000 = false ∧ cpBase.cur = .cp 0) ∧
    (watchdogDue { me0 with now := 131072 } (.me 0) = true ∧ watchdogDue { me0 with now := 131071 } (.me 0) = false) ∧
    (∀ i, i < 32 → (coreOf { State.reset with cur := .cp 0 } (32 * agentDie ({ State.reset with cur := .cp 0 } : State).cur + i)).team = none) ∧
    (traceReady (stagedRec 64) 0 = true ∧ (dieOf (stagedRec 64) 0).dropped = 0 ∧ (partOf (stagedRec 64) 0).trEn = true ∧
      (dieOf (stagedRec 63) 0).trSize < 64 ∧
      traceReady { stagedRec 64 with slotsUsed := [(slotKey (.trace 0) 0, 4096)] } 0 = false) ∧
    (let s := { ringFull [] with bad := [scrKey 0 0x11F8 / 8] }
     hasBad s (scrKey 0 0x11F8) 8 = true ∧ fullHit s 0 0x11F8 8 = [(5, 0)] ∧ hasBad s (scrKey 0 0x1200) 8 = false) ∧
    (updateIsNew updateOf (sx []) = true ∧ updateIsNew updateOf (after (.hssEngineUpdate updateOf) (sx [])) = false) := by
  decide +kernel

/-! The host and the root of trust. -/

/-- Function `fn` asks for command `n`; every partition of the list is valid. -/
def asking (fn n : Nat) (valid : List Nat) : State :=
  { State.reset with
    parts := valid.map fun k => (k, { valid := true })
    host := { doorbells := [fn], mbox := [(fn, { req := natBytes 8 n, busy := true })] } }
/-- A host access of eight bytes by a function. -/
def hostReq (fn pa : Nat) (write : Bool) : HostReq := ⟨BitVec.ofNat 4 fn, BitVec.ofNat 52 pa, write, 8, if write then natBytes 8 5 else [], false, none, false⟩

/-- HostAndManagement: accesses that the range admits to the PF, to a VF, and over CXL; of a VF that does not exist, and of one whose interface is
locked; a message that is owed; a step of an interface, and one out of order; a doorbell by a busy function and by an idle one; each command,
with every partition valid, with the last one free, and with none. What a clause asks of the items of a request's body is left free. -/
theorem witness_HostAndManagement :
    (let s : State := { sx [] with ranges := [⟨0, 0, 0x201, false⟩] }
     HostAdmits s 0xFFF8 8 9 ∧ HostAdmits s 0xFFF8 8 0 ∧ (hostReq 0 0xFFF8 false).pa.toNat = 0xFFF8 ∧ tdiShut s (hostReq 1 0xFFF8 true) = false ∧
       (partOf s 0).valid = true ∧ (hostReq 1 0xFFF8 true).data.length = 8 ∧ hasBad s 0xFFF8 8 = false ∧ fnClass 0 = 9 ∧ fnClass 1 = 0) ∧
    ((partOf (sx []) 1).valid = false ∧
      tdiShut (({ sx [] with host := { tdi := [(0, .locked)] } } : State)) (hostReq 1 0 true) = true) ∧
    (let q (b : Bool) : State := { sx [] with host := { evq := [(1, { en := true, unsent := b, mod := 9 })] } }
     (evqOf (q true) 1).en = true ∧ (evqOf (q true) 1).unsent = true ∧ (evqOf (q true) 1).mod ≠ 0 ∧ (evqOf (q false) 1).unsent = false) ∧
    (let s := modPart (sx []) 0 fun p => { p with isSealed := true }
     (partOf s 0).valid = true ∧ (partOf s 0).isSealed = true ∧ tget s.host.tdi 0 .unlocked = .unlocked ∧
       ¬ (TdiState.run = .unlocked ∨ TdiState.run = .locked)) ∧
    ((mboxOf (asking 0 1 []) 0).busy = true ∧ (mboxOf (asking 0 1 []) 1).busy = false) ∧
    (∀ n, n < 12 → reqCommand (asking 1 n [0]) 1 = n) ∧ (asking 1 7 [0]).host.doorbells = [1] ∧ (10 : Nat) < 11 ∧
    ((∀ k, k < 8 → (partOf (asking 0 1 (upto 8)) k).valid = true) ∧ (partOf (asking 0 1 (upto 7)) 7).valid = false ∧
      ∀ j, j < 7 → (partOf (asking 0 1 (upto 7)) j).valid = true) ∧
    ((partOf (asking 1 4 [0]) 0).valid = true ∧ partBusy (asking 1 4 [0]) 0 = false ∧ (partOf (asking 1 4 []) 0).valid = false ∧
      slicesDone (asking 1 5 [0]) [] = true ∧ (coreOf (asking 0 7 []) 0).team = none ∧
      hssInRange (sx []) 0 0x1FF = true ∧ hssPoisoned (sx []) 3 0x1FF = false) := by
  unfold HostAdmits; decide +kernel

/-- Partition numbers in requests of a VF are its own, and with no partition valid every one is invalid, whatever a body says. -/
theorem witness_HostAndManagement_bodies (b : List Byte) :
    reqPart 1 b = 0 ∧ (partOf (asking 0 2 []) (reqPart 0 b)).valid = false := ⟨rfl, rfl⟩

/-! Ill-formed words (spec/03_encoding.md R49 to R70). -/

/-- A template whose register fields are all unused. -/
def tpl : EngW := ⟨0xFF, 0xFF, 0xFF, 0xFF, 0, false, 0, 0, 0, 0, 0, 0, 0, ⟨false, 0, false, false⟩⟩
/-- The first form is one that the spec assigns; none of the others is. -/
def refuses (mk : EngW → Instr) (good : EngW) (bad : List EngW) : Bool := wellFormed (mk good) && bad.all fun w => !wellFormed (mk w)

theorem test_wf_arith3 : (let g : EngW := { tpl with d := 1, a := 2, b := 0x54, c := 0x8F, fmt := 1, rnd := 5, ovf := 2, mod := 0x40 }
    [Instr.vfma, Instr.vfms, Instr.vfnma].all fun mk => refuses mk g
      [{ g with d := 0x54 }, { g with a := 0x56 }, { g with b := 0x90 }, { g with c := 0x7F }, { g with fmt := 3 }, { g with rnd := 6 }, { g with
        rnd := 7 }, { g with mod := 2 }, { g with mod := 1 }, { g with immA := 1 }, { g with immB := 1 }, { g with addr := 1 }, { g with fmt := 5
        }, { g with fmt := 5, mod := 1 }]) = true := by decide +kernel

theorem test_wf_arith2 : (let g : EngW := { tpl with d := 0xFF, a := 0x55, b := 0x53, c := 0xFF, fmt := 12, mod := 1 }
    [Instr.vadd, Instr.vsub, Instr.vmul].all fun mk => refuses mk g
      [{ g with c := 0 }, { g with fmt := 0 }, { g with fmt := 8 }, { g with rnd := 1 }, { g with ovf := 1 }, { g with mod := 0x41 }, { g with
        mod := 2 }, { g with d := 0x50 }]) = true := by decide +kernel

theorem test_wf_minmax : (let g : EngW := { tpl with d := 1, a := 2, b := 3, fmt := 2, mod := 0x40 }
    [Instr.vmin, Instr.vmax].all fun mk => refuses mk g
      [{ g with mod := 1 }, { g with rnd := 1 }, { g with ovf := 1 }, { g with fmt := 4 }, { g with c := 1 }]) = true := by decide +kernel

theorem test_wf_abs : (let g : EngW := { tpl with d := 1, a := 2, fmt := 6, mod := 1 }
    [Instr.vabs, Instr.vneg].all fun mk => refuses mk g
      [{ g with b := 1 }, { g with c := 1 }, { g with fmt := 1 }, { g with rnd := 1 }]) = true := by decide +kernel

theorem test_wf_div : (let g : EngW := { tpl with d := 1, a := 2, b := 3, fmt := 1, rnd := 1, ovf := 1, mod := 0x40 }
    [Instr.vdiv].all fun mk => refuses mk g
      [{ g with fmt := 5 }, { g with mod := 1 }, { g with c := 1 }, { g with immA := 1 }]) = true := by decide +kernel

theorem test_wf_root : (let g : EngW := { tpl with d := 1, a := 2, fmt := 2 }
    [Instr.vsqrt, Instr.vrcp, Instr.vrsq].all fun mk => refuses mk g
      [{ g with b := 3 }, { g with fmt := 3 }, { g with mod := 1 }]) = true := by decide +kernel

theorem test_wf_logic : (let g : EngW := { tpl with d := 1, a := 2, b := 3, fmt := 11, mod := 0x80 }
    [Instr.vand, Instr.vor, Instr.vxor].all fun mk => refuses mk g
      [{ g with mod := 0 }, { g with mod := 0xC0 }, { g with fmt := 8 }, { g with ovf := 1 }]) = true := by decide +kernel

theorem test_wf_shift : (let g : EngW := { tpl with d := 1, a := 2, b := 3, fmt := 7 }
    [Instr.vshl, Instr.vshr, Instr.vsra, Instr.vmulh].all fun mk => refuses mk g
      [{ g with fmt := 1 }, { g with mod := 0x40 }, { g with rnd := 1 }, { g with c := 1 }]) = true := by decide +kernel

theorem test_wf_cmp : (let g : EngW := { tpl with d := 0x67, a := 2, b := 3, fmt := 4, immA := 7 }
    [Instr.vcmp].all fun mk => refuses mk g
      [{ g with d := 0x60 }, { g with d := 0x68 }, { g with d := 1 }, { g with immA := 8 }, { g with immB := 1 }, { g with fmt := 0 }]) = true :=
        by decide +kernel

theorem test_wf_sel : (let g : EngW := { tpl with d := 1, a := 2, b := 3, c := 0x60, fmt := 1 }
    [Instr.vsel].all fun mk => refuses mk g
      [{ g with c := 0x68 }, { g with c := 2 }, { g with fmt := 0 }, { g with mod := 0x40 }]) = true := by decide +kernel

theorem test_wf_class : (let g : EngW := { tpl with d := 0x61, a := 2, fmt := 3, immA := 511 }
    [Instr.vclass].all fun mk => refuses mk g
      [{ g with fmt := 5 }, { g with immA := 512 }, { g with b := 1 }]) = true := by decide +kernel

theorem test_wf_cvt : (let g : EngW := { tpl with d := 1, a := 2, fmt := 3, immA := 1, mod := 3 }
    [Instr.vcvt].all fun mk => refuses mk g
      [{ g with immA := 2 }, { g with immA := 8 }, { g with immA := 0 }, { g with fmt := 8 }, { g with mod := 4 }, { g with b := 1 }]) = true :=
        by decide +kernel

theorem test_wf_qmx : (let g : EngW := { tpl with d := 1, a := 2, fmt := 9, immA := 2, mod := 1 }
    [Instr.vqmx].all fun mk => refuses mk g
      [{ g with immA := 1 }, { g with immA := 3 }, { g with fmt := 1 }, { g with m := 1 }, { g with neg := true }, { g with ovf := 1 }]) = true
        := by decide +kernel

theorem test_wf_dqmx : (let g : EngW := { tpl with d := 1, a := 2, fmt := 2, immA := 10, mod := 1 }
    [Instr.vdqmx].all fun mk => refuses mk g
      [{ g with fmt := 1 }, { g with immA := 7 }, { g with m := 1 }, { g with mod := 2 }]) = true := by decide +kernel

theorem test_wf_pack : (let g : EngW := { tpl with d := 1, a := 2, b := 3, fmt := 0, mod := 0x81 }
    [Instr.vpack, Instr.vunpk].all fun mk => refuses mk g
      [{ g with mod := 1 }, { g with mod := 0x82 }, { g with c := 1 }]) = true := by decide +kernel

theorem test_wf_red : (let g : EngW := { tpl with d := 1, a := 2, fmt := 6, ovf := 1 }
    [Instr.vrsum, Instr.vrmax, Instr.vrmin, Instr.vscan].all fun mk => refuses mk g
      [{ g with rnd := 1 }, { g with fmt := 9 }, { g with b := 1 }, { g with mod := 0x40 }]) = true := by decide +kernel

theorem test_wf_perm : (let g : EngW := { tpl with d := 1, a := 2, b := 3, fmt := 12, mod := 1 }
    [Instr.vperm].all fun mk => refuses mk g
      [{ g with fmt := 2 }, { g with mod := 2 }, { g with c := 1 }]) = true := by decide +kernel

theorem test_wf_bcast : (let g : EngW := { tpl with d := 1, a := 2, fmt := 1, immA := 127 }
    [Instr.vbcast].all fun mk => refuses mk g
      [{ g with immA := 128 }, { g with immB := 1 }, { g with b := 1 }]) = true := by decide +kernel

theorem test_wf_slide : (let g : EngW := { tpl with d := 1, a := 2, b := 3, fmt := 1, immA := 0xFF80 }
    [Instr.vslide].all fun mk => refuses mk g
      [{ g with immA := 0xFF7F }, { g with immA := 129 }, { g with immB := 1 }]) = true := by decide +kernel

theorem test_wf_mov : (let g : EngW := { tpl with d := 1, a := 2, fmt := 8 }
    [Instr.vmov].all fun mk => refuses mk g
      [{ g with m := 1 }, { g with neg := true }, { g with fmt := 11 }, { g with fmt := 0 }, { g with rnd := 1 }]) = true := by decide +kernel

theorem test_wf_ldi : (let g : EngW := { tpl with d := 1, fmt := 1, immA := 1, immB := 0x8000 }
    [Instr.vldi].all fun mk => refuses mk g
      [{ g with a := 1 }, { g with fmt := 8 }, { g with addr := 1 }]) = true := by decide +kernel

theorem test_wf_tint : (let g : EngW := { tpl with d := 1, a := 2, fmt := 1, immA := 15 }
    [Instr.vtint].all fun mk => refuses mk g
      [{ g with immA := 16 }, { g with fmt := 5 }]) = true := by decide +kernel

theorem test_wf_tld : (let g : EngW := { tpl with fmt := 0, immA := 4, addr := 64 }
    [Instr.vtld].all fun mk => refuses mk g
      [{ g with immA := 3 }, { g with immA := 16 }, { g with fmt := 1 }, { g with d := 1 }, { g with m := 1 }, { g with addr := 0xA0000000 }]) =
        true := by decide +kernel

theorem test_wf_ld : (let g : EngW := { tpl with d := 1, fmt := 10, addr := 0x80000000 }
    [Instr.vld].all fun mk => refuses mk g
      [{ g with addr := 0xA0000000 }, { g with a := 1 }, { g with immA := 1 }, { g with fmt := 11 }]) = true := by decide +kernel

theorem test_wf_st : (let g : EngW := { tpl with a := 1, fmt := 2, m := 3 }
    [Instr.vst].all fun mk => refuses mk g
      [{ g with d := 1 }, { g with immB := 1 }, { g with mod := 1 }]) = true := by decide +kernel

theorem test_wf_lds : (let g : EngW := { tpl with d := 1, fmt := 0, mod := 0x80, immB := 4 }
    [Instr.vlds].all fun mk => refuses mk g
      [{ g with immA := 1 }, { g with fmt := 11 }, { g with mod := 0 }]) = true := by decide +kernel

theorem test_wf_sts : (let g : EngW := { tpl with a := 1, fmt := 5, immB := 4 }
    [Instr.vsts].all fun mk => refuses mk g
      [{ g with immA := 1 }, { g with fmt := 8 }, { g with b := 1 }]) = true := by decide +kernel

theorem test_wf_gath : (let g : EngW := { tpl with d := 1, b := 2, fmt := 6 }
    [Instr.vgath].all fun mk => refuses mk g
      [{ g with a := 1 }, { g with fmt := 3 }, { g with immB := 1 }]) = true := by decide +kernel

theorem test_wf_scat : (let g : EngW := { tpl with a := 1, b := 2, fmt := 1 }
    [Instr.vscat].all fun mk => refuses mk g
      [{ g with d := 1 }, { g with fmt := 12 }, { g with c := 1 }]) = true := by decide +kernel

theorem test_wf_ldt : (let g : EngW := { tpl with d := 1, a := 0x2F, fmt := 8, mod := 4, immA := 63 }
    [Instr.vldt].all fun mk => refuses mk g
      [{ g with a := 0x30 }, { g with immA := 64 }, { g with mod := 20 }, { g with mod := 1 }, { g with fmt := 1 }, { g with mod := 0x24 }]) =
        true := by decide +kernel

theorem test_wf_stt : (let g : EngW := { tpl with d := 0x2F, a := 1, fmt := 5, mod := 3, immA := 9 }
    [Instr.vstt].all fun mk => refuses mk g
      [{ g with d := 0x30 }, { g with mod := 4 }, { g with immB := 1 }]) = true := by decide +kernel

theorem test_wf_ldg : (let g : EngW := { tpl with d := 1, c := 0x80, fmt := 1, mod := 0x3F, immA := 1, immB := 2 }
    [Instr.vldg].all fun mk => refuses mk g
      [{ g with c := 0x90 }, { g with c := 0 }, { g with mod := 0x40 }, { g with fmt := 0 }]) = true := by decide +kernel

theorem test_wf_stg : (let g : EngW := { tpl with a := 1, fmt := 1, immA := 7 }
    [Instr.vstg].all fun mk => refuses mk g
      [{ g with mod := 1 }, { g with immB := 1 }, { g with d := 1 }, { g with c := 0x80 }]) = true := by decide +kernel

theorem test_wf_defer : (let g : EngW := { tpl with d := 5, a := 1, b := 2, c := 3, fmt := 5, immA := 4, immB := 4 }
    [Instr.vdefer].all fun mk => refuses mk g
      [{ g with immA := 5 }, { g with immB := 0x100 }, { g with immA := 3 }, { g with immB := 0x60 }, { g with a := 0xFF }, { g with d := 0x30 },
        { g with fmt := 2 }]) = true := by decide +kernel

theorem test_wf_drain : (let g : EngW := { tpl with d := 0x3B, a := 5, fmt := 1, immA := 4 }
    [Instr.vdrain].all fun mk => refuses mk g
      [{ g with d := 0x3C }, { g with d := 0x4C }, { g with immA := 5 }, { g with d := 0xFF }, { g with m := 1 }]) = true := by decide +kernel

theorem test_wf_tqry : (let g : EngW := { tpl with d := 1, a := 5, fmt := 5 }
    [Instr.vtqry].all fun mk => refuses mk g
      [{ g with fmt := 1 }, { g with a := 0x30 }, { g with m := 1 }]) = true := by decide +kernel

theorem test_wf_mask2 : (let g : EngW := { tpl with d := 0x61, a := 0x60, b := 0x67, fmt := 1 }
    [Instr.mand, Instr.mor, Instr.mxor].all fun mk => refuses mk g
      [{ g with d := 0x60 }, { g with a := 1 }, { g with b := 0x68 }, { g with m := 1 }, { g with fmt := 0 }]) = true := by decide +kernel

theorem test_wf_mask1 : (let g : EngW := { tpl with d := 0x61, a := 0x60, fmt := 1 }
    [Instr.mnot].all fun mk => refuses mk g
      [{ g with b := 0x60 }, { g with neg := true }]) = true := by decide +kernel

theorem test_wf_mpopc : (let g : EngW := { tpl with d := 1, a := 0x60, fmt := 5 }
    [Instr.mpopc].all fun mk => refuses mk g
      [{ g with fmt := 1 }, { g with a := 1 }]) = true := by decide +kernel

theorem test_wf_mbxRead : (let g : EngW := { tpl with d := 1, fmt := 5, immA := 15 }
    [Instr.vmbxRead].all fun mk => refuses mk g
      [{ g with immA := 16 }, { g with fmt := 1 }, { g with mod := 1 }]) = true := by decide +kernel

theorem test_wf_mbxWrite : (let g : EngW := { tpl with a := 1, fmt := 5, mod := 1, immA := 15 }
    [Instr.vmbxWrite].all fun mk => refuses mk g
      [{ g with mod := 0 }, { g with immA := 16 }, { g with d := 1 }]) = true := by decide +kernel

theorem test_wf_mma : (let g : EngW := { tpl with d := 3, a := 0, b := 15, fmt := 10, mod := 3, immA := 255 }
    [Instr.mma].all fun mk => refuses mk g
      [{ g with d := 4 }, { g with b := 16 }, { g with b := 0 }, { g with fmt := 3 }, { g with fmt := 12 }, { g with mod := 4 }, { g with immA :=
        256 }, { g with c := 1 }, { g with m := 1 }, { g with rnd := 1 }, { g with addr := 1 }]) = true := by decide +kernel

theorem test_wf_mdrn : (let g : EngW := { tpl with d := 0x2F, a := 3, fmt := 2, rnd := 5, ovf := 1, mod := 0x13, immA := 1, immB := 1 }
    [Instr.mdrn].all fun mk => refuses mk g
      [{ g with d := 0x30 }, { g with b := 0x30 }, { g with fmt := 3 }, { g with rnd := 6 }, { g with mod := 0x14 }, { g with mod := 3 }, { g
        with mod := 0x20 }, { g with m := 1 }, { g with addr := 1 }]) = true := by decide +kernel

theorem test_wf_mdrnp : (let g : EngW := { tpl with d := 0, a := 3, fmt := 11, mod := 2 }
    [Instr.mdrnp].all fun mk => refuses mk g
      [{ g with fmt := 1 }, { g with b := 1 }, { g with mod := 1 }, { g with immA := 1 }, { g with rnd := 1 }]) = true := by decide +kernel

theorem test_wf_macld : (let g : EngW := { tpl with d := 3, a := 0x2F, fmt := 11, mod := 14, immA := 255 }
    [Instr.macld].all fun mk => refuses mk g
      [{ g with mod := 1 }, { g with mod := 4 }, { g with a := 0x30 }, { g with immA := 256 }]) = true := by decide +kernel

theorem test_wf_mclr : (let g : EngW := { tpl with d := 3, fmt := 0 }
    [Instr.mclr].all fun mk => refuses mk g
      [{ g with d := 4 }, { g with fmt := 11 }, { g with mod := 1 }, { g with a := 0 }]) = true := by decide +kernel

theorem test_wf_mcoma : (let g : EngW := { tpl with fmt := 0, immA := 31 }
    [Instr.mcoma].all fun mk => refuses mk g
      [{ g with immA := 32 }, { g with d := 1 }, { g with b := 0 }]) = true := by decide +kernel

/-- Control words: fields out of the ranges of R51 to R54 and R65. -/
theorem test_wf_control :
    ([.sext ⟨false, 0, 1, 2, 2⟩, .zext ⟨false, 0, 1, 2, 2⟩, .ld ⟨false, 0, 1, 2, 3, 2, true, 0⟩, .st ⟨0, 1, 2, 3, 2, 0⟩,
      .ldx ⟨true, 0, 1, 2, 3, false, 0, 3⟩, .stx ⟨0, 1, 2, 3, 2, 3⟩, .atomAdd ⟨0, 1, 2, 3, 5⟩, .atomCas ⟨0, 1, 2, 3, 5⟩, .twaitf ⟨0, 1, 0x2F⟩,
      .twaite ⟨0, 1, 0x2F⟩, .tsetf ⟨0, 1, 2, 0x2F⟩, .tsete ⟨0, 0x2F⟩, .qwaitf ⟨0, 1, 0x2F⟩, .qwaite ⟨0, 1, 0x2F⟩, .qpush ⟨0, 1, 2, 0x2F⟩,
      .qpop ⟨0, 0x2F⟩, .qcfg ⟨0, 1, 0x2F⟩, .spawn ⟨0, 1, 2, 3⟩, .fenceFull ⟨0, 5⟩, .fenceAcq ⟨0, 5⟩, .fenceRel ⟨0, 5⟩, .fenceEng ⟨0, 5⟩,
      .cacheInv ⟨0, 1, 2⟩, .cacheClean ⟨0, 1, 1⟩, .cacheFlush ⟨0, 1, 1⟩, .cacheInvall ⟨0, 2⟩, .cacheCleanall ⟨0, 1⟩] : List Instr).all
      wellFormed = true ∧
    ([.sext ⟨false, 0, 1, 2, 3⟩, .zext ⟨false, 0, 1, 2, 3⟩, .ld ⟨false, 0, 1, 2, 3, 3, true, 0⟩, .ld ⟨true, 0, 1, 2, 3, 1, true, 0⟩,
      .st ⟨0, 1, 2, 3, 3, 0⟩, .ldx ⟨true, 0, 1, 2, 3, false, 2, 3⟩, .ldx ⟨false, 0, 1, 2, 3, false, 3, 3⟩, .stx ⟨0, 1, 2, 3, 3, 3⟩,
      .atomAdd ⟨0, 1, 2, 3, 6⟩, .atomCas ⟨0, 1, 2, 3, 7⟩, .twaitf ⟨0, 1, 0x30⟩, .twaite ⟨0, 1, 0x30⟩, .tsetf ⟨0, 1, 2, 0x30⟩, .tsete ⟨0, 0x30⟩,
      .qwaitf ⟨0, 1, 0x30⟩, .qwaite ⟨0, 1, 0x30⟩, .qpush ⟨0, 1, 2, 0x30⟩, .qpop ⟨0, 0x30⟩, .qcfg ⟨0, 1, 0x30⟩, .spawn ⟨0, 1, 0, 3⟩,
      .fenceFull ⟨0, 6⟩, .fenceAcq ⟨0, 6⟩, .fenceRel ⟨0, 6⟩, .fenceEng ⟨0, 6⟩, .cacheInv ⟨0, 1, 3⟩, .cacheClean ⟨0, 1, 2⟩,
      .cacheFlush ⟨0, 1, 2⟩, .cacheInvall ⟨0, 3⟩, .cacheCleanall ⟨0, 2⟩] : List Instr).any wellFormed = false := by decide +kernel

/-- Engine control words and Grailo ops. -/
theorem test_wf_engine_and_grailo :
    (let z : EFlags := ⟨false, 0, false, false⟩
     (([.waitf ⟨0x2F, z⟩, .esem ⟨0, 3, z⟩, .tpld ⟨62, z⟩, .lexit ⟨1, false, 5, z⟩, .grBrz ⟨1, 1⟩, .grBrnz ⟨1, 1023⟩, .grLoop ⟨1, 1, 1⟩] :
       List Instr).all wellFormed &&
      !([.waitf ⟨0x30, z⟩, .waite ⟨0x30, z⟩, .setf ⟨0x30, z⟩, .sete ⟨0x30, z⟩, .qpope ⟨0x30, z⟩, .qpushe ⟨0x30, z⟩, .esem ⟨0, 4, z⟩, .tpld ⟨63, z⟩,
        .lexit ⟨1, false, 6, z⟩, .grBrz ⟨1, 0⟩, .grBrz ⟨1, 1024⟩, .grBrnz ⟨1, 0⟩, .grLoop ⟨1, 0, 1⟩, .grLoop ⟨1, 1, 0⟩] : List Instr).any
        wellFormed)) = true := by decide +kernel

/-- Words that no row assigns: all ones, an unassigned MAJ, a field that must be zero, a SYS word that does not exist, STALL aside. -/
theorem test_unassigned_words_are_refused :
    (([0xFFFFFFFF, 0xF8000000, 0x04000050, 0x02000000, 0x00000001, 0x003F0000] : List Nat).all fun w => (decodeD w).isNone) = true ∧
    (decodeEc 0).isNone = true ∧ (decodeEc (63 * 2^26 + 2^25)).isNone = true ∧ (decodeVe (0xFF * 2^120) ⟨false, 0, false, false⟩).isNone = true ∧
    (decodeMe 0 ⟨false, 0, false, false⟩).isNone = true ∧ (decodeGr (17 * 2^26)).isNone = true ∧ (decodeGr 1).isNone = true := by
  decide +kernel

/-! Witnesses of the further clauses. -/

/-- RegisterBranches at a register that is free; SystemWords: a crew that waits for the place of the one that runs, and a latch set in the cycle
before, after the sleeping word had looked. -/
theorem witness_SystemWords_more :
    (awaited (curCtx (cx [(1, 64)])) [1, 3] = none ∧ lockAll (curCtx (cx [(1, 64)])) [1, 3] ≤ (cx [(1, 64)]).now) ∧
    (let s := { onDisp false [(0, { sliceOf 0 1 [] with num := 1 }), (1, sliceOf 1 1 [(0, onCore .bound)])] with cur := .ctx 0 .L }
     someWith (holderOf s (dieOfCore 0) 0) (fun h => placeWanted s (dieOfCore 0) (h.2.1.crew h.2.2).cores &&
       decide ((h.2.1.crew h.2.2).cores.length ≤ (partOf s h.2.1.part).frames)) = true) ∧
    (let s := { modCore (cx []) 0 fun k =>
        { k with l := { k.l with latch := true, latchAt := 4, waiting := some ⟨5, 0, 3, none, false, 0, 0, 0⟩ } } with now := 5 }
     (curCtx s).latch = true ∧ (curCtx s).latchAt + 1 = s.now ∧ someWith (curCtx s).waiting (fun k => k.kind == 5 && decide (k.since < s.now)) = true) := by
  decide +kernel

/-- A window of the package's own export table: entry 0 names the partition's VA 0 for reads, writes and atomics. -/
def exported (g : Tab Word) : State := putD (modPart { sx g with peerValid := true } 0 fun p => { p with peers := [(0, 3), (5, 3)], expbr := 0x8001 }) 0x8000 8 5
/-- A VA of that window. -/
def window (peer off : Nat) : Word := BitVec.ofNat 64 (0xFC * 2^48 + peer * 2^36 + off)

/-- Accesses by the own window and to another package; one that the window refuses; a strong access to a line that is copied and dirty; loads
that find a copy; what a remote release waits for. -/
theorem witness_Accesses_more :
    accessPlace (exported []) (window 0 0x40) 8 ⟨true, true, false, true⟩ = some (.remote 0 0x40) ∧
    ownPlace (exported []) (exported []) (window 0 0x40) 8 ⟨true, true, false, true⟩ = some (.phys 0x40 0x200) ∧
    ownPlace (putD (exported []) 0x8000 8 0) (putD (exported []) 0x8000 8 0) (window 0 0x40) 8 ⟨true, true, false, true⟩ = none ∧
    accessPlace (exported []) (window 5 0x40) 8 ⟨true, false, false, false⟩ = some (.remote 5 0x40) ∧ (5 : Nat) ≠ (exported []).peer.toNat ∧
    (∀ r ∈ (curCtx (exported [])).reqs, r.due ≠ none) ∧
    (let s := modDie (twoPages []) 0 fun x => { x with l2 := [(2^29 + 2, { data := 1, dirty := 1 })] }
     hasBad (writeBack s 0 (2^29 + 2)) (2^36 + 0x100) 8 = false) ∧
    (let s := modCore (cx []) 0 fun k => { k with l := { k.l with reqs := [⟨7, none⟩] } }
     ∃ r ∈ (curCtx s).reqs, r.due = none) := by
  decide +kernel

/-- SemaphoreWords and BarrierWords with the counter on the core's own die, and on another one; a wait that has been met, and one that stands; the
request that arrives at a store. -/
theorem witness_SemaphoreWords_more :
    dieOfCore (curCore (sx [])) = 0 ∧ CounterId (sx []) 0x1FF 0 0x1FF ∧ CounterId (sx []) 0x301FF 3 0x1FF ∧
    (let s (b : Bool) := modCore (sx []) 0 fun k => { k with l := { k.l with waiting := some ⟨2, 0, 0, some (0, 0x100, 1), b, 0, 0, 0⟩ } }
     waitMet (s true) 0 0x100 1 = true ∧ waitMet (s false) 0 0x100 1 = false ∧ waitsFor (s false) 0 0x100 1 = true ∧ hssGet (s false) 0 0x100 < 1) ∧
    (let s (op : FarOp) : State := { sx [] with farSems := [⟨0, 3, 0x100, op, 0, .L, 0, 0, 7, none⟩] }
     let found (op : FarOp) : Prop := (s op).farSems.find? (fun f => f.die = 3 && decide (f.due ≤ (s op).now)) = some ⟨0, 3, 0x100, op, 0, .L, 0, 0, 7, none⟩
     found (.add 1) ∧ found (.set 1 true) ∧ found (.try_ 0) ∧ found .rd ∧ found (.arr 4)) ∧
    (let s := modCore (sx []) 0 fun k => { k with l := { k.l with crewb := 0x60110 } }
     (curCtx s).crewb.toNat / 2^16 % 4 = 2 ∧ dieOfCore (curCore s) ≠ 2) := by
  unfold CounterId; decide +kernel

/-- Slots: nothing has changed in the cycle, and a change that a word of the cycle does not see. -/
theorem witness_SlotWaits_more :
    tailEmpty (ringOn []) 0 5 (descOf (ringOn []) 0 5) = true ∧
    headFull { ringFull [] with now := 1 } 0 5 (descOf (ringFull []) 0 5) = true ∧ (∀ e ∈ (coreOf { ringFull [] with now := 1 } 0).slotOld, e.cycle = 1 → e.id ≠ 5) ∧
    slotSeen (ringFull []) 0 5 (headSeen (ringFull []) 0 5 (descOf (ringFull []) 0 5)) ≠ 1 ∧
    slotSeen { ringFull [] with now := 1 } 0 5 (headSeen { ringFull [] with now := 1 } 0 5 (descOf (ringFull []) 0 5)) = 1 ∧
    slotSeen { ringFull [] with now := 1 } 0 5 (tailSeen { ringFull [] with now := 1 } 0 5 (descOf (ringFull []) 0 5)) = 0 ∧
    genSeen { sx [] with genOld := [⟨0, 77, 4⟩] } 77 5 = 4 := by decide +kernel

/-- SpawnWords: the last place below the ring's own area from which a task may be taken. WordBoundaryEvents: a mark that is still to be accepted,
and one whose time has come with a slot that it empties; a replay of a word whose entry is DONE, and of one whose is not. -/
theorem witness_WordBoundaryEvents_more :
    (let s := modCore (ringFull []) 0 fun k => { k with l := { k.l with accept := some ⟨5, [], 0, [(5, 0)], 4, none, [], 0⟩ } }
     someWith (curCtx s).accept (fun m => decide (s.now < m.at_)) = true) ∧
    (let s := put (put { modCore (ringFull []) 0 fun k => { k with l := { k.l with accept := some ⟨5, [], 0, [(5, 0)], 4, none, [], 0⟩ } } with now := 5 } (hdrOff 5 0) 1 2)
       (hdrOff 5 0 + 10) 1 0
     someWith (curCtx s).accept (fun m => decide (m.at_ ≤ s.now) && m.slots.any fun e => decide (e.1 < 48 ∧ e.2 < 64) &&
       slotState s 0 e.1 e.2 == 2 && sysRead s 0 (hdrOff e.1 e.2 + 10) 1 % 16 == ctxNum .L) = true) ∧
    (let s (n : Nat) := put (modCore (cx []) 0 fun k => { k with l := { k.l with replayTo := 1 } }) (logOff .L 0) 8 n
     (curCtx (s 0)).ord < (curCtx (s 0)).replayTo ∧ rdN (s (2^31)).mem (scrKey 0 (logOff .L 0)) 8 / 2^31 % 2 = 1 ∧
       rdN (s 0).mem (scrKey 0 (logOff .L 0)) 8 / 2^31 % 2 = 0) ∧
    LoggedRow (.spawnTake ⟨0, 3, 2⟩) 0 (some 3) ∧ LoggedRow (.sev ⟨0, 1⟩) 0 none := by
  refine ⟨by decide +kernel, by decide +kernel, by decide +kernel, ?_, ?_⟩
  · exact Or.inr (Or.inr (Or.inr (Or.inl ⟨_, rfl, rfl, rfl⟩)))
  · exact Or.inr (Or.inr (Or.inr (Or.inr (Or.inr (Or.inr (Or.inr (Or.inr (Or.inr ⟨_, rfl, rfl, rfl⟩))))))))

/-- EngineControlWords and VectorMemory: no job of the matrix engine on a ring, a slot at HEAD that may be popped and one at TAIL that may be
filled; a store that leaves no uncorrectable word in part. VectorMovesAndTables: an unsound user table. -/
theorem witness_EngineWords_more :
    JobsApart me0 0 .me 5 ∧ tailEmpty (ringAt 16 0x1000 512 1 4 4 false ve0) 0 16 (descOf (ringAt 16 0x1000 512 1 4 4 false ve0) 0 16) = true ∧
    headFull (fullSlot 5 0 0x1000 (ringAt 5 0x1000 512 2 3 3 false me0)) 0 5 (descOf (fullSlot 5 0 0x1000 (ringAt 5 0x1000 512 2 3 3 false me0)) 0 5) = true ∧
    cutAt { ve0 with bad := [scrKey 0 0x1000 / 8] } 0 ((upto 8).map (0x1000 + ·)) = none ∧
    cutAt { ve0 with bad := [scrKey 0 0x1000 / 8] } 0 [0x1000] = some 0x1000 ∧
    badEdge { ve0 with bad := [scrKey 0 0x1000 / 8] } (scrKey 0 0x1000) 8 = false ∧
    badEdge { ve0 with bad := [scrKey 0 0x1000 / 8] } (scrKey 0 0x1000) 4 = true := by
  refine ⟨fun _ => ⟨by decide +kernel, fun j h => ?_⟩, by decide +kernel, by decide +kernel, by decide +kernel, by decide +kernel, by decide +kernel,
    by decide +kernel⟩
  have h' : (none : Option DrainJob) = some j := h
  cases h'

/-! Units. -/

/-- CopyEngineRows: a packet to be read again after an eclipse, and one that had ended; a slot that is still the packet's, and one that another filler has
taken; a request that waits for its answer, a refusal. -/
theorem witness_CopyEngineRows_more :
    (let s (st : Nat) := put (onCe { jobOf 1 0 0 0x100 64 with reload := true, va := (own 0x600).toNat }) 0x640 1 st
     (jobOf 1 0 0 0x100 64).held = false ∧ okWith (unitRead (s 0) 0 0 (own 0x600).toNat 64).1 (fun l => decide (((jobOf 1 0 0 0x100 64).again l).stage < 4)) = true) ∧
    (let j := { jobOf 1 16 0 ((own 0).toNat + 5) 64 with slot := some (0, 5, 0), next := 64 }
     slotTaken (ringOn []) j = false ∧ slotTaken (fullSlot 5 0 0 (ringOn [])) j = true ∧ j.total ≤ j.next ∧ j.outs = [] ∧ j.rd = none ∧ j.refused = none ∧
       (j.flag 4 = true → j.slot ≠ none)) ∧
    (let s := { onCe (jobOf 1 0 0 0x100 64) with bad := [scrKey 0 0x100 / 8] }
     badEdge s (scrKey 0 0x104) 4 = true ∧ badEdge s (scrKey 0 0x100) 64 = false) := by decide +kernel

/-- A grid of two partitions. -/
def farGrid : Grid :=
  { lineGrid 0 with desc := (lineGrid 0).desc.take 8 ++ natBytes 4 8 ++ natBytes 4 1 ++ natBytes 4 1 ++ [2, 0, 1, 0, 1, 0, 0, 0] ++ (lineGrid 0).desc.drop 0x1C, map := [0x1000 * 2^32, 0x1000 * 2^32 + 5] }
/-- The halo engine with that grid, whose second partition is of package 5. -/
def onFar (l : List HaloStage) : State := modHe (onHe 0 l []) 0 fun h => { h with grids := [farGrid] }

/-- CollectiveAndHaloRows: nothing that met a full fault queue, and something; a face whose neighbour is in another package; cells in error; a strip
that has landed and waits for its sender's record. -/
theorem witness_CollectiveAndHaloRows_more :
    (dieOf (onHe 0 [staged] []) 0).he.full = [] ∧ (dieOf (onHe 0 [staged] []) 0).he.openStages = [staged] ∧
    okWith (nextStage (onFar [staged]) 0 [staged]) (fun r => someWith r fun x => !x.2.1.physical x.1.idx x.2.2.1 &&
      mapPeer (x.2.1.entry (x.2.1.neighbour x.1.idx x.2.2.1)) != (onFar []).peer.toNat &&
      (x.2.1.region (opposite x.2.2.1)).all fun i => !badCell (onFar [staged]) x.2.1 x.1 0 0x1000 (stripCell x.2.1 (opposite x.2.2.1) i)) = true ∧
    (let st := { staged with cells := [] }
     let s := { onFar [st] with bad := (upto 6).map fun i => scrKey 0 0x1000 / 8 + i }
     okWith (nextStage s 0 [st]) (fun r => someWith r fun x =>
       (x.2.1.region (opposite x.2.2.1)).any fun i => badCell s x.2.1 x.1 0 0x1000 (stripCell x.2.1 (opposite x.2.2.1) i)) = true) ∧
    (let s := { onHe 0x09 [staged] [] with bad := (upto 6).map fun i => scrKey 0 0x1000 / 8 + i }
     okWith (nextStage s 0 [staged]) (fun r => someWith r fun x => x.2.1.physical x.1.idx x.2.2.1 && x.2.1.rule x.2.2.1 == 1 &&
       cutCells s x.2.1 0 0x1000 ((x.2.1.region x.2.2.1).map fun i => (i, ruleBytes s x.2.1 x.1 0 0x1000 x.2.2.1 i))) = true) ∧
    (let s := { onHe 0x1B [{ staged with cells := [] }] [] with bad := (upto 6).map fun i => scrKey 0 0x1000 / 8 + i }
     okWith (nextStage s 0 [{ staged with cells := [] }]) (fun r => someWith r fun x => x.2.1.physical x.1.idx x.2.2.1 && x.2.1.rule x.2.2.1 == 3 &&
       (x.2.1.region x.2.2.1).any fun i => badCell s x.2.1 x.1 0 0x1000 (ruleCell x.2.1 x.2.2.1 i)) = true) ∧
    (let s := modDie (onHe 0 [staged] [strip]) 0 fun x => { x with tlb := [] }
     okWith (nextStage s 0 [staged]) (fun _ => true) = false ∧ okWith (nextStrip s 0 [strip]) (fun _ => true) = false ∧
       (nextStage s 0 [staged] matches .error _) ∧ (nextStrip s 0 [strip] matches .error _)) ∧
    okWith (nextStrip (onHe 0 [] [{ strip with done := true }]) 0 [{ strip with done := true }]) (fun r => someWith r fun x => x.1.done) = true ∧
    (let s := { onHe 0 [] [strip] with bad := [scrKey 0 0x1000 / 8] }
     okWith (nextStrip s 0 [strip]) (fun r => someWith r fun x => cutCells s x.2.1 0 0x1000 (stripCells x.2.1 x.1)) = true) ∧
    (let s := modHe (onHe 0 [staged] [strip]) 0 fun h => { h with full := [.step staged, .strip strip] }
     (dieOf s 0).he.full = .step staged :: [.strip strip] ∧ okWith (nextStage s 0 [staged]) (fun _ => true) = true ∧ okWith (nextStrip s 0 [strip]) (fun _ => true) = true) := by
  decide +kernel

/-- A contribution of a collective that is bad already. -/
theorem witness_CollectiveAndHaloRows_bad :
    (let g : Coll := ⟨0, 0x800, 7, [], true⟩
     let s := modXe (onXe [collJob 1 2] [(collJob 1 2).contrib (List.replicate 16 1)]) 0 fun e => { e with colls := [g] }
     (xeOf s 0).colls.find? (fun g => g.part == (0 : BitVec 3) && g.group = 0x800 && g.inst = 7) = some g ∧ g.bad = true) ∧
    (let j := { collJob 1 2 with result := some (List.replicate 16 1), stages := 1, stage := 1, next := 16 }
     xeReady (onXe [j] []) 0 = some j ∧ j.flag 5 = false) ∧
    (let j := { collJob 1 2 with result := some (List.replicate 16 1), stages := 1, stage := 3, next := 16 }
     xeReady (onXe [j] []) 0 = some j ∧ collLevels (j.f 0x2E 2) ≤ j.stages) := by decide +kernel

/-- DispatchRows: a holder that cannot be saved yet, since an answer is outstanding; a quantum that has run out; a parked slice that is extended, in part
and in full, and cancelled. -/
theorem witness_DispatchRows_more :
    (let s := modCore (contest 1 99 0) 0 fun k => { k with l := { k.l with acq := [7] } }
     (endedCrew s 0).isNone = true ∧ (unsavedCrew s 0).isNone = true ∧ (lostCrew s 0).isNone = true ∧ (nextBind s 0).isNone = true ∧
       someWith (nextDecision s 0) (fun r => decision s r.1.sl r.2.2.1 (r.2.2.1.crew r.2.2.2) == 2 && !canSave s (r.2.2.1.crew r.2.2.2)) = true) ∧
    (let s := { onDisp false [(0, { sliceOf 0 1 [] with num := 1 }), (1, sliceOf 1 1 [(0, { onCore .bound with scyAt := [0] })])] with now := 2^20 }
     someWith (swapDue s 0) (fun r => !r.2.2.2) = true) ∧
    (let sl : Slice := { sliceOf 0 1 [] with parked := true }
     let s := onDisp true [(0, sl)]
     (bindRec 3 1).ctl.getLsbD 0 = true ∧ (bindRec 3 1).ctl.getLsbD 1 = true ∧ (bindRec 3 1).ctl.getLsbD 2 = false ∧ (bindRec 5 1).ctl.getLsbD 2 = true ∧
       sl.parked = true ∧ min (partOf s 0).bcap (sl.eff + (bindRec 3 1).extra.toNat) = 50 ∧ usedNow s sl < 50 ∧
       usedNow s { sl with used := 50 } = 50) := by decide +kernel

/-- PagingRows: requests that wait for an entry, the requester's own first and another's; what an entry may hold, of each kind; a shutter whose back buffer
is named by SEL, with a line of the new front in a die's copy. -/
theorem witness_PagingRows_more :
    (let s (l : List FqWait) : State := modDie (faults []) 0 fun x => { x with fqWait := l }
     fqWaiters (s []) 0 = [] ∧ fqWaiters (s [⟨6, 0, 7, 0⟩]) 0 = [⟨6, 0, 7, 0⟩] ∧ fqWaiters (s [⟨5, 3, 7, 0⟩]) 0 = [⟨5, 3, 7, 0⟩]) ∧
    (let s := copyQueue 1 0 (sx [])
     tget? (ceOf s 0).slots 3 = some ⟨own 0x400, 0, false, false, false⟩) ∧
    (let s := modSeqr (queued 1) 0 .ve fun q => { q with heldImage := true }
     (seqrOf s 0 .ve).heldImage = true ∧ (seqrOf s 0 .ve).part = 0) ∧
    (let s := modHe (onHe 0 [staged] []) 0 fun h => { h with held := [(2, .step staged)] }
     tget? (dieOf s 0).he.held 2 = some (.step staged)) ∧
    (let s := onXe [{ collJob 1 2 with held := true }] []
     someWith (tget? (xeOf s 0).jobs 3) (fun j => j.held && j.queue == 3) = true) ∧
    (let s := modXe (queuedXe 1) 0 fun e => { e with held := [3] }
     tget? (xeOf s 0).jobs 3 = none ∧ 3 ∈ (xeOf s 0).held ∧ tget? (xeOf s 0).slots 3 = some ⟨0x400, 0, false, false, false⟩) ∧
    (let s := modCp cpBase 0 fun c => { c with q := [(5, { limit := 1, held := true })] }
     someWith (tget? (cpOf s 0).q 5) (·.held) = true) ∧
    (let g : GraphInst := ⟨4, 0, 0, 0x1000, 0, 0x3000, [0x2000], [], [], [], false, false, true⟩
     let s := modCp cpBase 0 fun c => { c with graphs := [{ g with held := true }] }
     someWith ((cpOf s 0).graphs.find? fun g => g.tok = 4) (·.held) = true) ∧
    (let s := modCp cpBase 0 fun c => { c with recs := [⟨2, 5, 0, 0x1000, [1], true⟩] }
     (cpOf s 0).recs.find? (fun r => r.n = 2) = some ⟨2, 5, 0, 0x1000, [1], true⟩) ∧
    (let s := modDie { sx [] with shutters := [(5, { size := 1, en := true, back0 := 0x20000, sel := true })] } 3 fun x => { x with l2 := [(0x400, {})] }
     (tget s.shutters 5 {}).sel = true ∧ (0x20000 : Nat) ≤ 128 * 0x400 ∧ 128 * 0x400 < 0x20000 + 1 * 2^16 ∧ tget? (dieOf s 3).l2 0x400 = some {}) := by
  decide +kernel

/-- FabricRows: a marker that has no slot; a flit to be sent again that has none, an idle port, one that may send nothing; a full list of what is not
acknowledged; nothing to relay; damaged flits, of reserved types, of management, with an acknowledgement and slots; the next packet of a source held; a
signal that comes, is refused, is applied; answers for each unit. -/
theorem witness_FabricRows_more :
    ({ openPort with marker := true, credit := [] } : Port).marker = true ∧ tget ({ openPort with marker := true, credit := [] } : Port).credit 3 0 = 0 ∧
    (let p := { openPort with retry := [flitOf 0 3 (outTx .write)], replay := 1, credit := [] }
     p.retry.drop (p.retry.length - p.replay) ≠ [] ∧ (p.retry.all fun x => tget p.credit x.vc.toNat 0 == 0) = true) ∧
    usable { openPort with hdrSeen := false } = false ∧ (fabricOn openPort {}).fab.relay = [] ∧
    ((fabricOn openPort {}).peerValid = true ∧ (sx []).peerValid = false ∧ (portOf (fabricOn openPort {}) 0).whole = true ∧ openPort.inService = true) ∧
    (let f := flitOf 0 0 (inTx .write)
     carriedBy f = some (inTx .write) ∧ f.typ.toNat < 11 ∧ (∀ n, n < 11 → ({ f with typ := BitVec.ofNat 4 n } : Flit).typ.toNat < 11) ∧
       carriedBy { f with typ := 10 } = none ∧ carriedBy { f with typ := 0 } = none ∧ 11 ≤ ({ f with typ := 11 } : Flit).typ.toNat ∧
       ({ f with ackv := true, nak := true } : Flit).ackv = true) ∧
    (let x := inTx .signal
     let y := { x with operand := 0x100 }
     let s := fabricOn openPort { held := [{ inTx .write with pkt := 1 }] }
     (∃ h ∈ s.fab.held, h.src = x.src ∧ h.pkt = tget s.fab.rxNext x.src.toNat 0 + 1) ∧ (∀ h ∈ (fabricOn openPort {}).fab.held, h.src = x.src → h.pkt ≠ 1) ∧
       (sigTarget s x.part.toNat y.operand).isSome = true ∧ (sigTarget s x.part.toNat (2^18)).isSome = false ∧ x.kind = .signal ∧ x.unitKind ≠ 6 ∧
       ({ x with status := 0x16 } : Tx).status ≠ 0) ∧
    (let s := { putD (fabricOn openPort {}) 0x8000 8 5 with bad := [8] }
     exportTgt s 0 0x40 8 false false = some (.phys 0x40 0x200) ∧ hasBad s 0x40 8 = true) ∧
    (let s (u : BitVec 4) (w : BitVec 16) := fabricOn openPort { asked := [⟨1, 0, 7, .write, u, w, 0x1234⟩] }
     let f (x : Tx) (a : Asked) : Bool := a.peer == x.src && a.pkt == x.pkt
     [5, 6, 7].all (fun u => someWith ((s u 0).fab.asked.find? (f (inTx .ack))) fun a => a.unitKind == u) = true) := by
  decide +kernel

/-- A flit whose CRC does not hold. -/
theorem witness_FabricRows_damaged :
    let f := flitOf 0 0 (inTx .write)
    let g : Flit := { f with crc := sumOf f + 1 }
    f.crc = sumOf f ∧ sumOf g = sumOf f ∧ (f.crc + 1 ≠ f.crc) := by
  refine ⟨rfl, rfl, fun h => ?_⟩
  have h2 := congrArg (fun x => x - (flitOf 0 0 (inTx .write)).crc) h
  simp only [BitVec.sub_self] at h2
  have h3 : (flitOf 0 0 (inTx .write)).crc + 1 - (flitOf 0 0 (inTx .write)).crc = 1 := by
    rw [BitVec.add_comm]; exact BitVec.add_sub_cancel 1 _
  rw [h3] at h2
  exact absurd h2 (by decide)

/-- Answers: to a copy engine's read and write in its packet; to a context's load that goes on while it is outstanding; a signal's. -/
theorem witness_FabricRows_answers :
    (let j := { jobOf 1 0 0 0x100 64 with rd := some 7 }
     let k := { jobOf 1 0 0 0x100 64 with outs := [7] }
     (ceOf (onCe j) 0).job = some j ∧ j.rd = some 7 ∧ (ceOf (onCe k) 0).job = some k ∧ k.rd ≠ some 7 ∧ 7 ∈ k.outs ∧ k.refused = none) ∧
    (let w : Await := ⟨7, 0x1234, 0, 1, 8, false, false⟩
     let s := modCore (askedBy .read) 0 fun c => { c with l := { c.l with remote := .idle, pend := [⟨3, 0, 0, true, false, some w⟩] } }
     let y := ctxOf s 0 (ctxOfNum 0)
     y.remote ≠ .sent 7 ∧ 7 ∉ y.acq ∧ (y.pend.filterMap fun p => p.await).find? (fun w => w.id = 7) = some w ∧ y.refused = none) ∧
    ((∃ r ∈ (ctxOf (askedBy .signal) 0 (ctxOfNum 0)).reqs, r.due = none ∧ r.id = 7) ∧ 7 ∉ (ctxOf (askedBy .write) 0 (ctxOfNum 0)).acq) := by
  decide +kernel

/-- RecoveryRows: engines of a die and copy engines that were eclipsed lately, and not; an escalation to the die and to the package; a die whose cores hold
a team and whose copies are in DRAM; a stopped core's unit; a record after dropped ones; each storage that a scrub reads. -/
theorem witness_RecoveryRows_more :
    (let s := { sx [] with cur := .ce 0 }
     within s (lastEclipse s s.cur) 1024 = false ∧ unitStopped s s.cur = false ∧
       (let t := modCe s 0 fun e => { e with eclAt := some 0 }
        within t (lastEclipse t t.cur) 1024 = true ∧ within t (coreOf t 0).resetAt 17000 = false ∧ markLost t 0 = false) ∧
       unitStopped (modCore s 0 fun k => { k with stopped := true }) s.cur = true) ∧
    (let s := modHe { sx [] with cur := .he 0 } 0 fun h => { h with eclAt := some 0 }
     within s (lastEclipse s s.cur) 1024 = true ∧ within s (dieOf s (agentDie s.cur)).resetAt 4250000 = false) ∧
    (let s := modCore (cx []) 0 fun k => { k with resetAt := some 0 }
     within s (coreOf s 0).resetAt 17000 = true ∧ within s (dieOf s 0).resetAt 4250000 = false ∧
       within (modDie s 0 fun x => { x with resetAt := some 0 }) (dieOf (modDie s 0 fun x => { x with resetAt := some 0 }) 0).resetAt 4250000 = true) ∧
    (let s := modDie { sx [] with cur := .cp 0 } 0 fun x => { x with l2 := [(2^29 + 2, {})] }
     (∀ e ∈ (dieOf s 0).l2, e.1 < 2^45) ∧ (∀ i, i < 32 → markLost s (32 * 0 + i) = false) ∧ (coreOf s 0).team ≠ none) ∧
    (let s := modDie (stagedRec 64) 0 fun x => { x with dropped := 3 }
     traceReady s 0 = true ∧ (dieOf s 0).dropped ≠ 0 ∧ (partOf s 0).trEn = true ∧ 64 ≤ (dieOf s 0).trSize) ∧
    (let s := vx fun v => { v with tabs := [(2, ⟨0, 0, 0, 0, 0, [], false⟩)], regs := [(1, {})] }
     (tget? (coreOf s 0).ve.tabs 2).isSome = true ∧ fullHit (ringFull []) 0 0x1000 8 = [(5, 0)] ∧ fullHit (ringFull []) 0 0x2000 8 = [] ∧
       (tget? (dieOf (modDie s 0 fun x => { x with l2 := [(4, {})] }) 0).l2 4).isSome = true) ∧
    (hssPoisoned (sx []) 3 0x100 = false ∧ hssPoisoned (modDie (sx []) 3 fun x => { x with hssPoison := [0x100] }) 3 0x100 = true) := by
  decide +kernel

/-- HostAndManagement: knock words by the host, refused ranges, an error in the bytes; registers that a function has and has not; a management core's access,
refused and served; commands on a partition with a key, on a stopped core, on slots beyond a period. -/
theorem witness_HostAndManagement_more :
    (let s : State := modDie { sx [] with ranges := [⟨0, 17, 1, false⟩] } 0 fun x => { x with cp := { x.cp with lqbase := 0x400 } }
     someWith (knockAt s (2^20 + 0x418)) (fun r => r == (0, 3)) = true ∧ knockAt s (2^20 - 8) = none ∧ knockAt s 0x100 = none) ∧
    (let s : State := { sx [] with ranges := [⟨0, 0, 0x201, false⟩] }
     HostAdmits { s with bad := [0xFFF8 / 8] } 0xFFF8 8 9 ∧ hasBad { s with bad := [0xFFF8 / 8] } 0xFFF8 8 = true ∧
       rangeCheckAll s 0x20000 8 ⟨0, true⟩ ≠ none ∧ isDram (2^51) = false) ∧
    (bar0Get (sx []) 0 (.lqbase 0)).isSome = true ∧ bar0Get (sx []) 1 (.lqbase 0) = none ∧ (bar0Get (sx []) 1 .eqhead).isSome = true ∧
    (let s : State := { sx [] with cur := .mgmt 2, ranges := [⟨0, 0, 0x100, false⟩] }
     s.cur = .mgmt 2 ∧ rangeCheckAll s 0x100 8 ⟨8, false⟩ = none ∧ isDram 0x100 = true ∧ hasBad s 0x100 8 = false ∧ rangeCheckAll s 0x20000 8 ⟨8, false⟩ ≠ none) ∧
    ((coreOf (modCore (asking 0 7 [0]) 0 fun k => { k with stopped := true }) 0).stopped = true ∧
      (coreOf (asking 0 7 [0]) 0).stopped = false) ∧
    overGranted (asking 0 1 []) { valid := true, slots := [(slotKey (.trace 0) 0, 4097)] } = true := by
  unfold HostAdmits; decide +kernel

theorem witness_HostAndManagement_fromHost : FromHost (sx []) := fun d h => by
  have : (sx []).cur = .ctx 0 .L := by decide +kernel
  rw [this] at h; cases h

/-- TlbAndPrefetchWords with every token taken; GridLoadAndSignalWords by the other window, and a signal behind a write that is not acknowledged;
CopyWord's and HaloWords' own records. -/
theorem witness_Words_more :
    (let s := modCore (cx []) 0 fun k => { k with l := { k.l with tokens := 0xFFFF } }
     ∀ j, j < 16 → (curCtx s).tokens.getLsbD j = true) ∧
    (BitVec.ofNat 64 (0xFD * 2^48 + 2^22 * curCore (cx []) + 0x1000) : Word).toNat = 0xFD * 2^48 + 2^22 * curCore (cx []) + 0x1000 ∧
    (0x1000 : Nat) < 2^22 ∧ curCore (cx []) < 128 ∧
    sigBehind (askedBy .write) = [(1, 0)] ∧ (askedBy .write).fab.sigs = [] ∧
    (∀ i ∈ (lineGrid 0).interior, hasBad (gridIn 0 3 2 (cx [])) (scrKey 0 (0x1000 + i * (lineGrid 0).cellBytes)) (lineGrid 0).cellBytes = false) := by
  decide +kernel

/-- VectorMovesAndTables: a user table whose X0 is infinite is unsound, and one of X0 zero is not. -/
theorem witness_VectorMovesAndTables_unsound :
    (userTable ⟨0x7F800000, 0, 0, 0, 0, [], false⟩).sound = false ∧ (userTable ⟨0, 0, 0, 0, 0, [], false⟩).sound = true ∧
    isNan (valOf false 1 0) = false := by decide +kernel

/-! Witnesses of the clauses that a further reading added. -/

/-- TrapEntry, Accesses, TlbAndPrefetchWords, SemaphoreWords, LaunchWords, SpawnWords, GridLoadAndSignalWords: the stop on breakpoints as the context sees
it; no access to another package outstanding; room in the die's L2; a wait that stands at its store and one on its way; a request that arrives at a
poisoned counter, and one that may change it; a grid load of interior cells alone. -/
theorem witness_Words_second :
    ((curDbg (cx [])).getLsbD 0 = false ∧ (curDbg (modCore (cx []) 0 fun k => { k with dbg := 1 })).getLsbD 0 = true) ∧
    (openPeers (cx []) = [] ∧ openPeers (askedBy .write) = [1]) ∧ (dieOf (cx []) 0).l2.length < l2Cap ∧
    (let s (w : Nat) : State := { modCore (sx []) 0 fun k => { k with l := { k.l with waiting := some ⟨2, 0, 0, some (3, 0x1FF, 1), false, 0, 0, 0⟩ } } with now := w }
     waitArrived (s 1000) 3 0x1FF 1 = true ∧ waitArrived (s 0) 3 0x1FF 1 = false ∧ waitArrived (sx []) 3 0x1FF 1 = false ∧
       waitArrived (sx []) 0 0x1FF 1 = true ∧ waitMet (s 0) 3 0x1FF 1 = false) ∧
    (let s (op : FarOp) : State := { modDie (sx []) 3 fun x => { x with hssPoison := [0x100] } with farSems := [⟨0, 3, 0x100, op, 0, .L, 0, 0, 7, none⟩] }
     farFirst 3 (s (.add 1)) = some ⟨0, 3, 0x100, .add 1, 0, .L, 0, 0, 7, none⟩ ∧ hssPoisoned (s (.add 1)) 3 0x100 = true ∧ (FarOp.add 1).heals = false ∧
       (FarOp.set 1 true).heals = true ∧ hssPoisoned (sx []) 3 0x100 = false) ∧
    (curCtx (record 1 (sx [(1, own 0x200)]))).acq = [] ∧ openPeers (put (cx [(2, own 0x100)]) 0x2F5008 4 1) = [] ∧
    faceOfByte (lineGrid 0) 0x1000 0x1004 = none ∧ readInStep (lineGrid 0) 0 0 = true := by decide +kernel

/-- A store to device memory is refused by no host. -/
theorem witness_SpawnWords_place (s : State) : hostDrops s (.phys 0x100 0x3D) = false ∧ hostDrops s (.scr 0 0x100) = false := ⟨rfl, rfl⟩

/-- CopyWord: the probes of its three writes succeed, and then the writes do. -/
theorem witness_CopyWord_probes :
    (let s := linImage 0x500 (copyQueue 3 0 (cx [(1, 0x180), (2, own 0x500)]))
     match ctxRead64 (own 0x500) s with
     | .ok (x, s1) =>
       match unitRead s1 0 0 (own 0x400).toNat 64 with
       | (.ok l, s2) =>
         let d := qDescOf l
         let probe (u : State) (va n : Nat) := probeVia (servedTgt 0 0) (n / 64 + 2) u va n
         let u1 := probe s2 ((own 0x400).toNat + 0x10) 8
         let u2 := probe u1.2 (d.entry d.widx) 64
         let u3 := probe u2.2 ((own 0x400).toNat + 0x20) 8
         let w1 := unitWrite u3.2 0 0 ((own 0x400).toNat + 0x10) (natBytes 8 (d.widx + 1))
         let w2 := unitWrite w1.2 0 0 (d.entry d.widx) (cpyPacket (natBytes 64 x) 0 d.widx)
         let w3 := unitWrite w2.2 0 0 ((own 0x400).toNat + 0x20) (natBytes 8 (d.widx + 1))
         u1.1.isNone && u2.1.isNone && u3.1.isNone && w1.1.isNone && w2.1.isNone && w3.1.isNone
       | _ => false
     | .error _ => false) = true := by decide +kernel

/-- EngineControlWords and LaunchLifecycle: a fill that was made before an eclipse; a record that takes its STATUS and one that refuses it; the final mark
and STATUS 2; a wait that has not been met. -/
theorem witness_Engines_second :
    (let s := modSeqr ve0 0 .ve fun q => { q with refill := [16] }
     16 ∈ (seqrOf s 0 .ve).refill ∧ 17 ∉ (seqrOf s 0 .ve).refill ∧ (seqrOf ve0 0 .ve).nbv ≠ 1 ∧ (seqrOf ve0 0 .ve).refill = []) ∧
    (let s := modSeqr (queued 1) 0 .ve fun q => { q with recVa := [(0, own 0x100)] }
     (seqrOf s 0 .ve).puts = [] ∧ (entryPut s 0 .ve 0 0xFC 4 1).1 = none ∧
       okWith (readImage (entryPut s 0 .ve 0 0xFC 4 1).2 0 .ve 3).1 (fun i => i.words == [0]) = true) ∧
    (entryPut (modSeqr (queued 1) 0 .ve fun q => { q with recVa := [(0, own 0x2F0000)] }) 0 .ve 0 0xFC 4 1).1 = some (.code 9, 0xFE * 2^48 + 0x2F00FC) ∧
    (let s := modSeqr ve0 0 .ve fun q => { q with phase := .finish, endMarked := true, recVa := [(0, own 0x100)] }
     (seqrOf s 0 .ve).heldImage = false ∧ (entryPut (finalMark 0 .ve (settleEng 0 .ve s)) 0 .ve 0 0xFC 4 2).1 = none) ∧
    (let w : Waiting := ⟨2, 0, 0, none, false, 0, 0, 0⟩
     w.met = false ∧ w.kind ≠ 5) := by
  refine ⟨by decide +kernel, ⟨by decide +kernel, by decide +kernel, by decide +kernel⟩, by decide +kernel, ⟨by decide +kernel, by decide +kernel⟩, by decide +kernel⟩

/-- MatrixJobs: with no word in error no byte is, and no byte of a row is where the errors lie elsewhere. -/
theorem witness_MatrixJobs_clean (l : List (Nat × Nat)) : firstBad kState 0 l = none := by
  have h : kState.bad.isEmpty = true := by decide +kernel
  unfold firstBad; rw [if_pos h]

/-- LaunchPackets and KnocksAndScans: a counter of another die, records of the queue in memory, a knock in the clear of a locked interface, a knock in the
cycle of the scan. -/
theorem witness_Queues_second :
    (mapped (lqRec cpBase 0 0 + 0x68) = true ∧ mapped (lqRec cpBase 0 0 + 0x6C) = true ∧ mapped (lqRec cpBase 0 0 + 0x18) = true ∧
      mapped (lqRec cpBase 0 0 + 0x70) = true ∧ mapped (lqRec cpBase 0 0 + 0x78) = true) ∧
    (let b := packet 4 0 0 (0x100 + 2^16) 1
     someWith (cpPick (withPacket b cpBase) 0 5) (fun r => r.1 == 0) = true ∧ recF b 4 4 / 2^16 % 4 ≠ 0 ∧ hssPoisoned cpBase 1 0x100 = false) ∧
    (fnShut { cpBase with host := { tdi := [(0, .locked)] } } 1 false = true ∧ fnShut cpBase 1 false = false) ∧
    (let c := cpOf (modCp cpBase 0 fun c => { c with kvec := [5], fresh := [(5, 0)] }) 0
     c.fresh.contains (5, cpBase.now) = true ∧ (cpOf cpBase 0).fresh.contains (5, cpBase.now) = false) := by decide +kernel

/-- CopyEngineRows: a packet whose page is still to be translated; its own record's writes, taken, held and refused; a landing on its way, and none; a
counter that is poisoned, and not; each write of its end. -/
theorem witness_CopyEngineRows_second :
    (let j := { jobOf 1 2 0 0x100 0x20000 with groups := 1 }
     j.flag 1 = true ∧ j.shut = none ∧ 0 < j.groups ∧ j.wr = none ∧ j.buf = [] ∧ j.flush = [] ∧ j.fin = none ∧ j.start = false ∧
       (jobOf 1 0 0 0x100 64).kind ≠ 6 ∧ (jobOf 1 0 0 0x100 64).flag 1 = false) ∧
    (let j := jobOf 1 0 0 0x100 64
     let r (j : CopyJob) := (ceMark (onCe j) 0 j 1 1).1
     r j = none ∧ r { j with va := 0x40000000 } = some (.walk 1, 0x40000034) ∧ r { j with va := 0xFE * 2^48 + 0x2F0000 } = some (.code 9, 0xFE * 2^48 + 0x2F0034)) ∧
    (let j := { jobOf 1 0 0 0x100 64 with stage := 1 }
     let l : Landing := ⟨0, 0x2EFFF0, false, 0, 3, 7, 1, 1⟩
     landingOpen (onCe j) 0 = false ∧ landingOpen { onCe j with events := [⟨.ce 0, some (.landing l)⟩] } 0 = true) ∧
    (let j := { jobOf 1 0 0 0x100 64 with stage := 2 }
     someWith (ceUpdate (onCe j) 0 j) (fun u => !updateLost u (onCe j)) = true ∧
       (let s := modDie (onCe j) 0 fun x => { x with hssPoison := [0x100] }
        someWith (ceUpdate s 0 j) (fun u => updateLost u s) = true)) ∧
    (let j := jobOf 1 0 0 0x100 64
     let s1 := cePut (onCe j) 0 j 2 2 2
     let s2 := ceMark s1.2 0 j j.groups 4
     let s3 := traceCe 0 j 0x02 j.seq j.groups 4 s2.2
     s1.1 = none ∧ s2.1 = none ∧ j.flag 0 = false ∧
       someWith (tget? (ceOf s3 0).slots j.queue) (fun qd => (unitWrite s3 0 j.part.toNat (qd.desc.toNat + 0x18) (natBytes 8 (j.idx + 1))).1.isNone) = true) ∧
    (let j := { jobOf 1 16 0 ((own 0).toNat + 5) 64 with slot := some (0, 5, 0), next := 64, taken := some 0 }
     j.limit ≠ 0 ∧ ({ onCe j with now := 11 } : State).now - j.taken.getD 11 = 11 ∧ j.limit < 11 ∧ (0 : Nat) - j.taken.getD 0 ≤ j.limit) ∧
    ({ jobOf 1 0 0 0x100 64 with fin := some (2, true) } : CopyJob).held = false := by
  refine ⟨by decide +kernel, by decide +kernel, by decide +kernel, by decide +kernel, by decide +kernel, by decide +kernel, rfl⟩

/-- CollectiveAndHaloRows: STATUS RUNNING taken, held and refused; a contribution that was sent on; each write of an end; the record's writes for a face and
for a strip; a peer's strip that has landed before. -/
theorem witness_CollectiveAndHaloRows_second :
    (let j := { collJob 1 2 with start := true }
     let r (j : XeJob) := (xePut (onXe [j] []) 0 j 2 2 1).1
     someWith (xeUnsent (onXe [j] []) 0) (fun x => x.start) = true ∧ r j = none ∧ r { j with va := 0x40000000 } = some (.walk 1, 0x40000002) ∧
       r { j with va := 0xFE * 2^48 + 0x2F0000 } = some (.code 9, 0xFE * 2^48 + 0x2F0002)) ∧
    (let x := { (collJob 1 2).contrib [] with onward := true }
     (xeOf (onXe [] [x]) 0).inbox = (0, x) :: [] ∧ x.onward = true ∧ ((collJob 1 2).contrib []).onward = false) ∧
    (let j := { collJob 1 2 with fin := some (2, true) }
     xeReady (onXe [j] []) 0 = some j ∧ (collJob 1 2).fin = none) ∧
    (let j := collJob 1 2
     let s := modXe (onXe [j] []) 0 fun e => { e with slots := [(3, ⟨0x400, 0, false, false, false⟩)] }
     let s1 := xePut s 0 j 2 2 2
     j.flag 0 = false ∧ s1.1 = none ∧
       someWith (tget? (xeOf s1.2 0).slots j.queue) (fun qd => (dieWrite s1.2 0 j.part.toNat (qd.desc.toNat + 0x18) (natBytes 8 (j.idx + 1))).1.isNone) = true) ∧
    okWith (nextStage (onHe 0x09 [staged] []) 0 [staged]) (fun r => someWith r fun x =>
      let s := onHe 0x09 [staged] []
      let g := x.2.1
      let f := x.2.2.1
      let s0 := modHe { s with free := s.free + g.frameBytes } 0 fun h => { h with ready := s.now + 1 }
      let cells := if g.rule f = 5 then [] else (g.region f).map fun i => (i, ruleBytes s g x.1 0 0x1000 f i)
      let u := setTag 0 g x.1.idx f x.1.step (tagged 0 g f (putCells (noteHandled 0 x.1 f s0) g 0 0x1000 cells))
      let v := dieRead u.2 0 x.1.part.toNat (g.state + 64 * x.1.idx) 64
      u.1.isNone && okWith v.1 fun r' => (setSent 0 g x.1.idx f r' v.2).1.isNone) = true ∧
    okWith (nextStrip (onHe 0 [] [strip]) 0 [strip]) (fun r => someWith r fun x =>
      let s0 := modHe (dropStrip 0 x.1 (onHe 0 [] [strip])) 0 fun h => { h with ready := 1 }
      let g := x.2.1
      let u := setTag 0 g x.1.idx x.1.face x.1.step (tagged 0 g x.1.face (putCells s0 g 0 0x1000 (stripCells g x.1)))
      let v := dieRead u.2 0 x.1.part.toNat (g.state + 64 * x.1.idx) 64
      !landedBefore x.2.2 x.1 && !x.1.done && u.1.isNone && okWith v.1 fun r' => (setSent 0 g x.1.idx x.1.face r' v.2).1.isNone) = true ∧
    (let x := { strip with sender := none, step := 3, sig := some (inTx .signal) }
     okWith (nextStrip (onHe 0 [] [x]) 0 [x]) (fun r => someWith r fun y => landedBefore y.2.2 y.1) = true) := by
  refine ⟨by decide +kernel, by decide +kernel, by decide +kernel, by decide +kernel, by decide +kernel, by decide +kernel, by decide +kernel⟩

/-- A slice of graph instance 4 is to be handed over. -/
def graphSlice : State :=
  let s := modDisp (onDisp true []) 0 fun x => { x with pending := [{ handed 0 1 with node := some 0, tok := 4 }] }
  modCp s 0 fun c => { c with graphs := [⟨4, 0, 0, 0x1000, 0, 0x3000, [0x2000], [], [], [], false, false, false⟩] }

/-- DispatchRows: the record of a graph's slice that can be read, within range and not, and one that cannot; a slot table that the firmware may write, and
one that it may not. -/
theorem witness_DispatchRows_second :
    (let rd (s : State) (va : Nat) := (readVia (cpTgt 0 0) 6 (modDisp s 0 fun x => { x with pending := [] }) 0 va 256).1
     freeEntry graphSlice 0 = some 0 ∧ ((cpOf graphSlice 0).graphs.find? fun g => g.tok = 4).isSome = true ∧
       okWith (rd (sliceRec graphSlice) 0x2000) (fun b => !badSlice b) = true ∧ okWith (rd graphSlice 0x2000) badSlice = true ∧
       okWith (rd graphSlice 0x40000000) (fun _ => true) = false) ∧
    (fwMay { onDisp true [] with ranges := [⟨0, 0, 0x100, false⟩] } 0x8000 32 = true ∧ fwMay (onDisp true []) 0x8000 32 = false) := by decide +kernel

/-- PagingRows: a requester's own place and another's; a copy's end and a launch record's field that wait for their write; room in an instruction cache. -/
theorem witness_PagingRows_second :
    (let e : FqWait := ⟨6, 0, 7, 0⟩
     e.isOf 6 0 0x70000 = true ∧ e.isOf 6 0 0x80000 = false) ∧
    (let j := { jobOf 1 0 0 0x100 64 with held := true, fin := some (2, false) }
     (ceOf (onCe j) 0).job = some j ∧ j.held = true ∧ j.fin = some (2, false)) ∧
    (let s := modSeqr (queued 1) 0 .ve fun q => { q with heldImage := true, puts := [(0x100, [1])] }
     (seqrOf s 0 .ve).puts ≠ [] ∧ (seqrOf (queued 1) 0 .ve).puts = []) ∧
    (coreOf (sx []) 0).icache.length < icacheCap := by decide +kernel

/-- FabricRows: a header that is due; a transaction that is sent again; losses of light that are still to be told, and none; a management flit; a strip that
is not kept; a read that crosses a window entry; an access of a unit that waits. -/
theorem witness_FabricRows_second :
    (let p := { openPort with time := 0, hdrSeen := false }
     portLit (fabricOn p {}) 0 = true ∧ p.time = 0) ∧
    ((fabricOn openPort { sendq := [outTx .write], again := [outTx .write] }).fab.again = [outTx .write] ∧ (fabricOn openPort {}).fab.again = []) ∧
    (({ openPort with los := [1] } : Port).los ≠ [] ∧ openPort.marker = false ∧ openPort.replay = 0 ∧ openPort.los = []) ∧
    (({ flitOf 0 0 (inTx .write) with typ := 10 } : Flit).lseq.toNat = openPort.rxNext ∧ heKeeps (inTx .write) (fabricOn openPort {}) = false) ∧
    (let s := { putD (putD (fabricOn openPort {}) 0x8000 8 5) 0x8008 8 (0x40000000 + 5) with ranges := [⟨0, 2^16, 1, false⟩] }
     okWith (exportRuns s 0 (2^30 - 32) 64 false) (fun l => l == [(.phys (2^30 - 32) 0x200, 32), (.phys 0x40000000 0x200, 64 - 32)]) = true ∧
       2^30 < (2^30 - 32) % 2^30 + 64 ∧ hasBad s (2^30 - 32) 32 = false ∧ hasBad s 0x40000000 32 = false ∧
       copyable 0 (2^30 - 32) 0x200 = false ∧ copyable 0 0x40000000 0x200 = false) ∧
    (let s := { fabricOn openPort { asked := [⟨1, 0, 7, .read, 5, 0, 0x1234⟩] } with farReads := [⟨.ce 0, 0, 1, 0, 0, 7, [], none, false, false⟩] }
     (∃ e ∈ s.farReads, e.id = 7) ∧ (fabricOn openPort {}).farReads = []) := by
  refine ⟨by decide +kernel, ⟨rfl, rfl⟩, by decide +kernel, by decide +kernel, by decide +kernel, by decide +kernel⟩

/-- RecoveryRows: an engine's mark area that is lost, and whole; a die whose scrub slots are used up, and one with slots left. -/
theorem witness_RecoveryRows_second :
    (engMarkLost { me0 with bad := [scrKey 0 0x2F2000 / 8] } 0 .me = true ∧ engMarkLost me0 0 .me = false ∧ engMarkLost ve0 0 .ve = false) ∧
    (scrubFull (sx []) 0 = false ∧ scrubFull { sx [] with slotsUsed := [(slotKey (.scrub 0) 0, 4096)] } 0 = true) := by decide +kernel

/-- HostAndManagement: an access through BAR4; the firmware's store to a CTL of the slot table, and one elsewhere; registers that a locked interface shuts;
a queue with records lost, with and without room; the ranges of a stopped core's image. -/
theorem witness_HostAndManagement_second :
    (let s : State := { sx [] with ranges := [⟨0, 0, 0x201, false⟩] }
     let w := { hostReq 0 0xFFF8 false with bar4 := true }
     w.bar4 = true ∧ 0xFFF8 = w.pa.toNat % 2^36 + 2^36 * s.host.p2psel.toNat) ∧
    (let s := { onDisp true [] with ranges := [⟨0, 0, 0x100, false⟩], cur := .mgmt 0 }
     fwMay s 0x8004 4 = true ∧ fwMay s 0x100 8 = true ∧ (dispOf s 0).sltbase = 0x8000 ∧ (∀ d, d < 4 → d ≠ 0 → (dispOf s d).sltbase = 0) ∧
       0x100 + 8 ≤ (dispOf s 0).sltbase) ∧
    (let q : EvQueue := { en := true, lost := 2, log := 6, tail := 5 }
     q.lost ≠ 0 ∧ q.en = true ∧ q.full = false ∧ ({ q with head := 6 } : EvQueue).full = true) ∧
    (let s := modCore (asking 0 7 []) 0 fun k => { k with stopped := true }
     (∀ r ∈ imageRanges s 0, r.2 ≤ scrKey (0 + 1) 0) ∧ sealedCore s 0 = false) ∧
    sealedCore (modPart (sx []) 0 fun p => { p with isSealed := true }) 0 = true ∧
    (∀ n, n < 3 → (PowerSample.mk 1000 (some (BitVec.ofNat 2 n))).mode ≠ some 3) := by decide +kernel

/-- What a dump holds of a context and of a vector register is what is read from it; a tag's reserved byte is not kept. -/
theorem test_dump_codec :
    (let x : Ctx := { (ctxOf (cx [(1, 5)]) 0 .L) with pc := 0x40, uie := true, uq := [⟨1, 2, 3⟩] }
     let y := rdCtx 7 (ctxOf (cx []) 0 .L) (ctxWords 7 x ++ [9])
     y.2 == [9] ∧ gFinal y.1 1 = 5 ∧ y.1.pc = 0x40 ∧ y.1.uie = true ∧ y.1.uq == x.uq) ∧
    (let y := rdReg (regWords ⟨3 * 2^2048 + 5, 0x12FF⟩)
     y.1 = ⟨3 * 2^2048 + 5, 0x1200⟩ ∧ y.2 = []) := by decide +kernel
end Sys2Proof.Tests
end

/-! PROOFS. What a control word's operation leaves as it was: running an operation, the frame `Kept` of every named update that a
context's word is made of, and the special registers. -/
section
namespace Sys2Proof.Machine

/-! Running an operation. -/

/-- An operation that succeeds hands its answer and its state to the next. -/
theorem op_bind_ok {α β : Type} {x : Op α} {f : α → Op β} {s t : State} {a : α} (h : x s = .ok (a, t)) : (x >>= f) s = f a t := by
  show (x s >>= fun p => f p.1 p.2) = f a t
  rw [h]
  rfl

/-- A word that can issue passes its wait for operands. -/
theorem Readable.operands_eq {s : State} {srcs dsts : List Nat} (h : Readable s srcs dsts) : operands srcs dsts s = .ok ((), s) := by
  obtain ⟨hawait, hlock, -⟩ := h
  exact operands_ok srcs dsts s hlock hawait

/-- A word that can issue obtains the value of each source. -/
theorem Readable.gr_eq {s : State} {srcs dsts : List Nat} (h : Readable s srcs dsts) {r : Nat} (hr : r ∈ srcs) :
    gr r s = .ok (reg s r, s) := by
  obtain ⟨-, -, hfree⟩ := h
  exact gr_ok r s (hfree r hr)

/-! A context of a core replaced. -/

theorem setCtx_setCtx (k : CoreSt) (x : CtxSel) (v w : Ctx) : (k.setCtx x v).setCtx x w = k.setCtx x w := by cases x <;> rfl

theorem setCtx_self (k : CoreSt) (x : CtxSel) : k.setCtx x (k.ctx x) = k := by cases x <;> rfl

/-- The cores after a change of the issuing context. -/
theorem coreOf_modCur (s : State) (f : Ctx → Ctx) (c : Nat) :
    coreOf (modCur s f) c = if c = curCore s then (coreOf s c).setCtx (curSel s) (f (curCtx s)) else coreOf s c := by
  split
  · rename_i h
    subst h
    exact coreOf_modCore_same s _ _
  · rename_i h
    exact coreOf_modCore_ne s _ h

/-! The frame. -/

/-- A frame keeps the acting agent. -/
theorem Kept.cur_eq {s t : State} (h : Kept s t) : t.cur = s.cur := by
  obtain ⟨hrest, -⟩ := h
  exact congrArg (·.cur) hrest

/-- Nothing changed is a frame. -/
theorem Kept.refl (s : State) : Kept s s := by
  refine ⟨rfl, fun c => ?_, fun _ => rfl, fun _ => rfl⟩
  split
  · rename_i h
    subst h
    exact (setCtx_self _ _).symm
  · rfl

/-- One frame after another is a frame. -/
theorem Kept.trans {s t u : State} (h : Kept s t) (h' : Kept t u) : Kept s u := by
  have hcur : t.cur = s.cur := h.cur_eq
  have hcore : curCore t = curCore s := congrArg agentCore hcur
  have hsel : curSel t = curSel s := by simp only [curSel, hcur]
  obtain ⟨hrest, hcores, hdies, hmem⟩ := h
  obtain ⟨hrest', hcores', hdies', hmem'⟩ := h'
  refine ⟨hrest'.trans hrest, fun c => ?_, fun d => (hdies' d).trans (hdies d), fun k => (hmem' k).trans (hmem k)⟩
  rw [hcores', hcores, hcore, hsel]
  split
  · exact setCtx_setCtx _ _ _ _
  · rfl

/-- A change of the issuing context is within the frame. -/
theorem kept_modCur (s : State) (f : Ctx → Ctx) : Kept s (modCur s f) :=
  ⟨rfl, fun c => by rw [coreOf_modCur, curCtx_modCur], fun _ => rfl, fun _ => rfl⟩

/-- A trace record is within the frame: it touches a die's staging alone. -/
theorem kept_pushTrace (d : Nat) (r : TraceRec) (s : State) : Kept s (pushTrace d r s) := by
  obtain ⟨-, hcores, -⟩ := Kept.refl s
  refine ⟨rfl, hcores, fun k => ?_, fun _ => rfl⟩
  by_cases hk : k = d
  · subst hk
    rw [pushTrace, dieOf_modDie_same]
    split
    · rfl
    · split <;> rfl
  · rw [pushTrace, dieOf_modDie_ne _ _ hk]

theorem kept_traceCtx (kind cls obj a b lastu : Nat) (s : State) : Kept s (traceCtx kind cls obj a b lastu s) := kept_pushTrace _ _ s

theorem kept_traceBranch (pc tgt n : Nat) (s : State) : Kept s (traceBranch pc tgt n s) := kept_pushTrace _ _ s

/-- The end of a wait is within the frame. -/
theorem kept_endWait (s : State) : Kept s (endWait s) := by
  unfold endWait
  split
  · exact Kept.refl s
  · simp only
    split
    · exact kept_modCur s _
    · exact (kept_modCur s _).trans (kept_traceCtx ..)

/-- Retiring a word is within the frame. -/
theorem kept_retire (st : Nat) (s : State) : Kept s (retire st s) := (kept_endWait s).trans (kept_modCur _ _)

/-- A taken branch is within the frame. -/
theorem kept_branchTo (tgt : Word) (st : Nat) (s : State) : Kept s (branchTo tgt st s) := by
  have hmove := fun f => (kept_endWait s).trans (kept_modCur (endWait s) f)
  unfold branchTo
  simp only
  split
  · exact (hmove _).trans (kept_traceBranch ..)
  · exact hmove _

/-! What a taken branch does to its context (spec/04_contexts.md R88, spec/03_encoding.md R59). -/

@[simp] theorem curCtx_traceBranch (pc tgt n : Nat) (s : State) : curCtx (traceBranch pc tgt n s) = curCtx s := rfl

@[simp] theorem curCtx_branchTo (tgt : Word) (st : Nat) (s : State) : curCtx (branchTo tgt st s) =
    { killQ s.now (curCtx s) with
      waiting := none, pc := tgt, ready := s.now + max 3 (1 + st), passAt := passGone (curCtx s), branches := (curCtx s).branches + 1 } := by
  unfold branchTo
  simp only
  split <;> simp [killQ, passGone]

/-! Special registers: none belongs to what a result, a predicate, retiring or branching changes. -/

/-- A delivered result changes the registers and the results in flight alone. -/
theorem putReg_eq_update (dst : Nat) (v : Word) (lat : Nat) (lock q : Bool) (now : Nat) (x : Ctx) :
    ∃ g l, putReg dst v lat lock q now x = { x with g := g, pend := l } := by
  simp only [putReg]
  split
  · split <;> exact ⟨_, _, rfl⟩
  · split <;> exact ⟨_, _, rfl⟩

/-- A write to a predicate changes the predicates alone. -/
theorem setPrd_eq_update (x : Ctx) (p : Nat) (b : Bool) : ∃ w, setPrd x p b = { x with p := w } := by
  unfold setPrd
  split <;> exact ⟨_, rfl⟩

@[simp] theorem special_putReg (dst : Nat) (v : Word) (lat : Nat) (lock q : Bool) (now : Nat) (x : Ctx) :
    (putReg dst v lat lock q now x).special = x.special := by
  obtain ⟨g, l, h⟩ := putReg_eq_update dst v lat lock q now x
  rw [h]
  rfl

@[simp] theorem special_setPrd (x : Ctx) (p : Nat) (b : Bool) : (setPrd x p b).special = x.special := by
  obtain ⟨w, h⟩ := setPrd_eq_update x p b
  rw [h]
  rfl

@[simp] theorem special_unpackPrd (v : Word) (x : Ctx) : (unpackPrd v x).special = x.special := rfl

@[simp] theorem special_retire (st : Nat) (s : State) : (curCtx (retire st s)).special = (curCtx s).special := by
  rw [curCtx_retire]
  rfl

@[simp] theorem special_branchTo (tgt : Word) (st : Nat) (s : State) : (curCtx (branchTo tgt st s)).special = (curCtx s).special := by
  rw [curCtx_branchTo]
  rfl

end Sys2Proof.Machine
end

/-! PROOFS. Registers and predicates of the issuing context after each update: results in flight, predicate bits, conditions. -/
section
namespace Sys2Proof.Machine

/-! Registers after an update of something else. -/

@[simp] theorem reg_retire (st : Nat) (s : State) (r : Nat) : reg (retire st s) r = reg s r := by
  unfold reg
  rw [curCtx_retire]
  rfl

@[simp] theorem pc_setPrd (x : Ctx) (p : Nat) (b : Bool) : (setPrd x p b).pc = x.pc := by
  obtain ⟨w, h⟩ := setPrd_eq_update x p b
  rw [h]

@[simp] theorem gFinal_setPrd (x : Ctx) (p : Nat) (b : Bool) (r : Nat) : gFinal (setPrd x p b) r = gFinal x r := by
  obtain ⟨w, h⟩ := setPrd_eq_update x p b
  rw [h]
  rfl

/-! Results in flight. -/

/-- The latest result for a register is the one appended last. -/
theorem dueOf_append_same (l : List Pend) (p : Pend) : dueOf (l ++ [p]) p.dst = p.due := by
  induction l with
  | nil => simp [dueOf]
  | cons e r ih => simp [dueOf, ih]

/-- With no result in flight a register may be read at once. -/
theorem dueOf_eq_zero (l : List Pend) (k : Nat) (h : l.all (fun p => p.dst != k) = true) : dueOf l k = 0 := by
  induction l with
  | nil => rfl
  | cons e r ih =>
    simp only [List.all_cons, Bool.and_eq_true, bne_iff_ne, ne_eq] at h
    simp [dueOf, h.1, ih h.2]

@[simp] theorem physReg_putReg (dst : Nat) (v : Word) (lat : Nat) (lock q : Bool) (now : Nat) (x : Ctx) (r : Nat) :
    physReg (putReg dst v lat lock q now x) r = physReg x r := by
  obtain ⟨g, l, h⟩ := putReg_eq_update dst v lat lock q now x
  rw [h]
  rfl

/-- A delivered result may be read once its latency has passed (spec/03_encoding.md R56). -/
theorem dueOf_putReg_le (dst : Nat) (v : Word) (lat : Nat) (lock q : Bool) (now : Nat) (x : Ctx) (h : dst ≠ 0) :
    dueOf (putReg dst v lat lock q now x).pend (physReg x dst) ≤ now + lat := by
  simp only [putReg, h, if_false]
  split
  · rename_i hp
    simp only [Bool.and_eq_true] at hp
    rw [dueOf_eq_zero _ _ hp.2]
    exact Nat.zero_le _
  · exact Nat.le_of_eq (dueOf_append_same _ _)

@[simp] theorem p_putReg (dst : Nat) (v : Word) (lat : Nat) (lock q : Bool) (now : Nat) (x : Ctx) :
    (putReg dst v lat lock q now x).p = x.p := by
  obtain ⟨g, l, h⟩ := putReg_eq_update dst v lat lock q now x
  rw [h]

@[simp] theorem pc_putReg (dst : Nat) (v : Word) (lat : Nat) (lock q : Bool) (now : Nat) (x : Ctx) :
    (putReg dst v lat lock q now x).pc = x.pc := by
  obtain ⟨g, l, h⟩ := putReg_eq_update dst v lat lock q now x
  rw [h]

/-- Of the 32 names a delivered result changes its destination alone, and g0 not at all (spec/05_registers.md R110). -/
theorem gFinal_putReg {r d : Nat} (hr : r < 32) (hd : d < 32) (v : Word) (lat : Nat) (lock q : Bool) (now : Nat) (x : Ctx) :
    gFinal (putReg d v lat lock q now x) r = if r = d ∧ d ≠ 0 then v else gFinal x r := by
  by_cases hrd : r = d
  · subst hrd
    by_cases h0 : r = 0
    · subst h0
      rfl
    · rw [gFinal_putReg_same _ _ _ _ _ _ _ h0, if_pos ⟨rfl, h0⟩]
  · rw [gFinal_putReg_ne _ _ _ _ _ _ _ hr hd hrd, if_neg fun h => hrd h.1]

/-- A result for g0 that is not interlocked is discarded (R110). -/
theorem putReg_zero (v : Word) (lat : Nat) (q : Bool) (now : Nat) (x : Ctx) : putReg 0 v lat false q now x = x := by
  simp [putReg]

/-- Killing squashable words after an unsquashable result was delivered is delivering it after the kill, to any reader. -/
theorem gFinal_killQ_putReg {r d : Nat} (hr : r < 32) (hd : d < 32) (v : Word) (lat : Nat) (now : Nat) (x : Ctx) :
    gFinal (killQ now (putReg d v lat false false now x)) r = if r = d ∧ d ≠ 0 then v else gFinal (killQ now x) r := by
  by_cases hd0 : d = 0
  · subst hd0
    rw [putReg_zero, if_neg fun h => h.2 rfl]
  by_cases hr0 : r = 0
  · subst hr0
    rw [if_neg fun h => hd0 h.1.symm]
    rfl
  have hphys : physReg x d = physReg x r ↔ r = d :=
    ⟨fun h => Decidable.byContradiction fun hne => physReg_ne x hr hd hne h.symm, fun h => h ▸ rfl⟩
  simp only [putReg, hd0, killQ, gFinal, hr0, ne_eq, not_false_eq_true, and_true, if_false]
  split
  · rename_i hp
    simp only [Bool.and_eq_true, List.all_eq_true] at hp
    change overlay (x.pend.filter _) (physReg x r) (tget (tput x.g (physReg x d) v) (physReg x r) 0) = _
    split
    · rename_i hrd
      subst hrd
      rw [tget_tput_same, overlay_other]
      exact List.all_eq_true.2 fun p hmem => hp.2 p (List.mem_filter.1 hmem).1
    · rename_i hrd
      rw [tget_tput_ne _ _ _ fun h => hrd (hphys.1 h.symm)]
      rfl
  · simp only [decide_false, Bool.false_and, Bool.false_eq_true, if_false]
    rw [List.filter_append]
    change overlay (x.pend.filter _ ++ [_]) (physReg x r) _ = _
    rw [overlay_append]
    simp only [hphys]
    rfl

/-! Predicates. -/

@[simp] theorem prd_zero (x : Ctx) : prd x 0 = true := rfl

/-- A write to a predicate is read there, but for p0, and nowhere else (spec/04_contexts.md R90). -/
theorem prd_setPrd (x : Ctx) (b : Bool) {p k : Nat} (hp : p < 8) (hk : k < 8) :
    prd (setPrd x p b) k = if k = p ∧ k ≠ 0 then b else prd x k := by
  by_cases hk0 : k = 0
  · subst hk0
    rw [if_neg fun h => h.2 rfl]
    rfl
  by_cases hp0 : p = 0
  · subst hp0
    rw [if_neg fun h => hk0 h.1]
    rfl
  have hbit : (BitVec.ofNat 8 (2^p)).getLsbD k = decide (p = k) := by
    rw [BitVec.getLsbD_ofNat, Nat.testBit_two_pow, decide_eq_true hk, Bool.true_and]
  have hnew : (if b then BitVec.ofNat 8 (2^p) else 0).getLsbD k = (b && decide (p = k)) := by
    cases b
    · exact BitVec.getLsbD_zero
    · exact hbit
  simp only [setPrd, hp0, prd, hk0, if_false, BitVec.getLsbD_or, BitVec.getLsbD_and, BitVec.getLsbD_not, hbit, hnew]
  by_cases hkp : k = p
  · simp [hkp, hp0]
  · simp [hkp, hk, Ne.symm hkp]

/-- The condition that a code names is what CMP evaluates (spec/03_encoding.md R54). -/
theorem condHolds_iff (n : BitVec 3) (x y : Word) : condHolds n.toNat x y = true ↔ Condition n x y := by
  have codes : n = 0 ∨ n = 1 ∨ n = 2 ∨ n = 3 ∨ n = 4 ∨ n = 5 ∨ n = 6 ∨ n = 7 := by
    revert n
    decide
  rcases codes with rfl | rfl | rfl | rfl | rfl | rfl | rfl | rfl <;>
    simp [Condition, condHolds, BitVec.slt, BitVec.sle, BitVec.ult, BitVec.ule]

theorem combine_eq_combined (c : BitVec 2) (old t : Bool) : combine c.toNat old t = combined c old t := by
  revert c old t
  decide

/-- Bit k of PGET's value is pk for k below 8, and zero above (spec/04_contexts.md R92). -/
theorem getLsbD_packPrd (x : Ctx) (k : Nat) : (packPrd x).getLsbD k = (decide (k < 8) && prd x k) := by
  have hbits : (packPrd x).getLsbD k = (decide (k < 64) && x.p.getLsbD k || decide (k = 0)) := by
    simp [packPrd, BitVec.getLsbD_one]
  rw [hbits, prd]
  by_cases hk : k < 8
  · simp [hk, show k < 64 by omega, Bool.or_comm]
  · simp [hk, BitVec.getLsbD_of_ge x.p k (by omega), show k ≠ 0 by omega]

/-- PSET's predicates are the bits of its source, p0 true (R92). -/
theorem prd_unpackPrd (v : Word) (x : Ctx) {k : Nat} (hk : k < 8) : prd (unpackPrd v x) k = (decide (k = 0) || v.getLsbD k) := by
  have hbits : (unpackPrd v x).p.getLsbD k = (v.getLsbD k || decide (k = 0)) := by
    simp [unpackPrd, hk]
  rw [prd, hbits]
  cases decide (k = 0) <;> simp

end Sys2Proof.Machine
end

/-! PROOFS. The outcome of a word that delivers one result, sets predicates, or branches, and the encodings of their words. -/
section
namespace Sys2Proof.Machine

@[simp] theorem now_modCur (s : State) (f : Ctx → Ctx) : (modCur s f).now = s.now := rfl

/-! The parts of an operation that always succeed. -/

theorem gets_eq {α : Type} (f : State → α) (s : State) : gets f s = .ok (f s, s) := rfl

theorem gw_eq (dst : Nat) (v : Word) (lat : Nat) (lock q : Bool) (s : State) :
    gw dst v lat lock q s = .ok ((), modCur s (putReg dst v lat lock q s.now)) := rfl

/-! Words that go on to the next word. -/

section
variable {i : Instr} {s : State} {st : BitVec 3} {body : Op Unit} {f : Ctx → Ctx}

/-- A word that changes its context and not its program counter retires. -/
theorem retired_retire_modCur (hpc : (f (curCtx s)).pc = (curCtx s).pc) : Retired s (retire st.toNat (modCur s f)) st := by
  simp [Retired, hpc]

/-- A word that changes its context retires within the frame. -/
theorem kept_retire_modCur : Kept s (retire st.toNat (modCur s f)) := (kept_modCur s f).trans (kept_retire _ _)

/-- A word whose operation delivers one result has that one effect. -/
theorem computes_of_gw {d : BitVec 5} {v : Word} {lat : Nat} (lock q : Bool) (hexec : exec i s = ctxWord st body s)
    (hbody : body s = gw d.toNat v lat lock q s) : Computes i s st d v lat := by
  refine ⟨_, hexec.trans (ctxWord_ok (hbody.trans (gw_eq ..))), retired_retire_modCur (pc_putReg ..), fun r hr => ?_, fun hd => ?_, ?_, ?_,
    kept_retire_modCur⟩
  · rw [reg_retire, reg, curCtx_modCur, gFinal_putReg hr d.isLt, reg]
  · have hd0 : d.toNat ≠ 0 := fun h => hd (BitVec.eq_of_toNat_eq h)
    rw [curCtx_retire, curCtx_modCur]
    have := dueOf_putReg_le d.toNat v lat lock q s.now (curCtx s) hd0
    rwa [← physReg_putReg d.toNat v lat lock q s.now] at this
  · rw [SamePreds, curCtx_retire, curCtx_modCur]
    exact p_putReg ..
  · rw [SameSpecial, special_retire, curCtx_modCur, special_putReg]

/-- A word whose operation sets a predicate has that one effect. -/
theorem setsPred_of_setPrd {p : BitVec 3} {b : Bool} (hexec : exec i s = ctxWord st body s) (hbody : body s = .ok ((), modCur s f))
    (hf : f (curCtx s) = setPrd (curCtx s) p.toNat b) : SetsPred i s st p b := by
  refine ⟨_, hexec.trans (ctxWord_ok hbody), retired_retire_modCur ?_, fun k hk => ?_, fun r _ => ?_, ?_, kept_retire_modCur⟩
  · rw [hf, pc_setPrd]
  · rw [curCtx_retire, curCtx_modCur, hf]
    exact prd_setPrd _ _ p.isLt hk
  · rw [reg_retire, reg, curCtx_modCur, hf, gFinal_setPrd, reg]
  · rw [SameSpecial, special_retire, curCtx_modCur, hf, special_setPrd]

end

/-! Words that branch. -/

section
variable {i : Instr} {s : State} {st : BitVec 3} {body : Op (Option Word)} {tgt : Word}

theorem ctxBranch_taken {t : State} (h : body s = .ok (some tgt, t)) : ctxBranch st body s = .next (branchTo tgt st.toNat t) := by
  unfold ctxBranch
  rw [h]

theorem ctxBranch_not_taken {t : State} (h : body s = .ok (none, t)) : ctxBranch st body s = .next (retire st.toNat t) := by
  unfold ctxBranch
  rw [h]

/-- A register after a taken branch is read with the squashable words in flight killed. -/
theorem reg_branchTo (tgt : Word) (st : Nat) (s : State) (r : Nat) : reg (branchTo tgt st s) r = gFinal (squashed s) r := by
  rw [reg, curCtx_branchTo]
  rfl

theorem squashed_modCur (s : State) (f : Ctx → Ctx) : squashed (modCur s f) = killQ s.now (f (curCtx s)) := by
  rw [squashed, curCtx_modCur]
  rfl

/-- A taken branch with no other effect. -/
theorem jumps_of_target (hexec : exec i s = ctxBranch st body s) (hbody : body s = .ok (some tgt, s)) : Jumps i s st tgt none := by
  refine ⟨_, hexec.trans (ctxBranch_taken hbody), ?_, fun r _ => reg_branchTo .., ?_, special_branchTo .., kept_branchTo ..⟩
  · simp [Branched]
  · rw [SamePreds, curCtx_branchTo]
    rfl

/-- A taken branch that writes g31: the link survives the kill, and the rest is as after the branch alone. -/
theorem jumps_of_link {v : Word} (hexec : exec i s = ctxBranch st body s)
    (hbody : body s = .ok (some tgt, modCur s (putReg 31 v 1 false false s.now))) : Jumps i s st tgt (some v) := by
  refine ⟨_, hexec.trans (ctxBranch_taken hbody), ?_, fun r hr => ?_, ?_, ?_, (kept_modCur s _).trans (kept_branchTo ..)⟩
  · simp [Branched]
  · have hlink := gFinal_killQ_putReg hr (show 31 < 32 by decide) v 1 s.now (curCtx s)
    have hg31 : (r = 31 ∧ 31 ≠ 0) ↔ r = 31 := ⟨fun h => h.1, fun h => ⟨h, by decide⟩⟩
    simp only [hg31] at hlink
    rw [reg_branchTo, squashed_modCur]
    exact hlink
  · rw [SamePreds, curCtx_branchTo, curCtx_modCur]
    exact p_putReg ..
  · rw [SameSpecial, special_branchTo, curCtx_modCur, special_putReg]

/-- The target of a block offset (spec/03_encoding.md R47). -/
theorem blockTarget_eq (pc off : Word) : blockTarget pc off = blockStart pc + off * 64 := by
  rw [blockTarget, BitVec.shiftLeft_eq_mul_twoPow]
  rfl

end

/-! Encodings. -/

/-- A word whose bits are a sum of its fields. -/
theorem encode_of_bits {i : Instr} {a b : Nat} (h : encode i = some (32, a)) (hab : a = b) : encode i = some (32, b) := hab ▸ h

/-- PLOG words with the function's code in bits 12 to 10 (spec/03_encoding.md R54). -/
theorem bitsPlW_eq (w : PlW) (code : Nat) : 0x30000000 + code * 2^10 + bitsPlW w =
    wordHead 0x0C w.q w.st + w.d.toNat * 2^19 + w.a.toNat * 2^16 + w.b.toNat * 2^13 + code * 2^10 := by
  simp only [bitsPlW, wordHead, up]
  omega

/-- A J-format word is its head and its offset (spec/03_encoding.md R49). -/
theorem bitsJW_eq (w : JW) (maj : Nat) : maj * 2^26 + bitsJW w = wordHead maj false w.st + w.i.toNat := by
  simp only [bitsJW, wordHead, up, Bool.toNat_false]
  omega

/-- Of major 0x0C, a word with a bit set below the function's code is no word (R51). -/
theorem decodeD_plog_low_bits {n : Nat} (hmaj : n / 2^26 = 0x0C) (hlow : n % 2^10 ≠ 0) : decodeD n = none := by
  have hfld : fld n 26 6 = 12 := by
    simp only [fld]
    omega
  have hcode : fld n 0 13 % 1024 ≠ 0 := by
    simp only [fld]
    omega
  have hraw : decodeDRaw n = none := by
    simp only [decodeDRaw, hfld]
    repeat rw [if_neg (by omega)]
  rw [decodeD, hraw]
  rfl

end Sys2Proof.Machine
end

/-! PROOFS. Compares, predicates and direct branches (spec/04_contexts.md R90 to R95). -/
section
namespace Sys2Proof.Machine

/-- A compare whose condition evaluates to `b` sets its predicate to the combination with `b`. -/
theorem setsPred_of_comparePrd {i : Instr} {s : State} {st : BitVec 3} {body : Op Unit} {p : BitVec 3} {c : BitVec 2} {n : BitVec 3}
    {x y : Word} {b : Bool} (hexec : exec i s = ctxWord st body s) (hbody : body s = comparePrd p.toNat c.toNat (condHolds n.toNat x y) s)
    (hb : b = true ↔ Condition n x y) : SetsPred i s st p (combined c (prd (curCtx s) p.toNat) b) := by
  have hcond : condHolds n.toNat x y = b := Bool.eq_iff_iff.2 ((condHolds_iff n x y).trans hb.symm)
  refine setsPred_of_setPrd hexec (hbody.trans rfl) ?_
  simp only [combine_eq_combined, hcond]

/-- Settles O13: both words run `comparePrd` on the sources they read. -/
theorem compareWords : Obligations.CompareWords := by
  intro w v s b
  refine ⟨fun hr hb => ?_, fun hr hb => ?_, encode_of_bits rfl ?_, encode_of_bits rfl ?_⟩
  · refine setsPred_of_comparePrd rfl ?_ hb
    rw [op_bind_ok hr.operands_eq, op_bind_ok (hr.gr_eq (by simp)), op_bind_ok (hr.gr_eq (by simp))]
  · refine setsPred_of_comparePrd rfl ?_ hb
    rw [op_bind_ok hr.operands_eq, op_bind_ok (hr.gr_eq (by simp))]
  · simp only [bitsCmpW, wordHead, up]
    omega
  · simp only [bitsCmpiW, wordHead, up]
    omega

/-- A word that sets a predicate to a function of two. -/
theorem setsPred_of_logicPrd {i : Instr} {s : State} {st d a b : BitVec 3} (f : Bool → Bool → Bool)
    (hexec : exec i s = ctxWord st (logicPrd d.toNat a.toNat b.toNat f) s) :
    SetsPred i s st d (f (prd (curCtx s) a.toNat) (prd (curCtx s) b.toNat)) := setsPred_of_setPrd hexec rfl rfl

/-- Settles O14: each word runs `logicPrd` with its function. -/
theorem predicateLogic : Obligations.PredicateLogic := by
  intro w s
  refine ⟨setsPred_of_logicPrd and rfl, setsPred_of_logicPrd or rfl, setsPred_of_logicPrd xor rfl,
    setsPred_of_logicPrd (fun x y => x && !y) rfl, setsPred_of_logicPrd (fun x y => x || !y) rfl,
    setsPred_of_logicPrd (fun x y => !(x && y)) rfl, setsPred_of_logicPrd (fun x y => !(x || y)) rfl, ?_, prd_zero _, ?_,
    fun n => decodeD_plog_low_bits⟩
  · rw [show ∀ x y : Bool, (!(xor x y)) = (x == y) by decide]
    exact setsPred_of_logicPrd (· == ·) rfl
  · have enc {i : Instr} (code : Nat) (h : encode i = some (32, 0x30000000 + code * 2^10 + bitsPlW w)) := encode_of_bits h (bitsPlW_eq w code)
    exact ⟨enc 0 rfl, enc 1 rfl, enc 2 rfl, enc 3 rfl, enc 4 rfl, enc 5 rfl, enc 6 rfl, enc 7 rfl⟩

/-- PSET replaces the predicates by its source's bits. -/
theorem exec_pset (w : PsetW) {s : State} (hr : Readable s [w.a.toNat] []) :
    exec (.pset w) s = .next (retire w.st.toNat (modCur s (unpackPrd (reg s w.a.toNat)))) := by
  refine ctxWord_ok ?_
  rw [op_bind_ok hr.operands_eq, op_bind_ok (hr.gr_eq (by simp))]
  rfl

/-- Settles O15: PGET and SEL deliver one result; PSET replaces the predicates. -/
theorem predicateGroupAndSelect : Obligations.PredicateGroupAndSelect := by
  intro s
  refine ⟨fun w hr => ⟨packPrd (curCtx s), getLsbD_packPrd _, computes_of_gw false w.q rfl ?_⟩,
    fun w hr => ⟨_, exec_pset w hr, retired_retire_modCur rfl, fun k hk => ?_, fun r _ => ?_, ?_, kept_retire_modCur⟩,
    fun w hr => computes_of_gw false w.q rfl ?_, fun w => encode_of_bits rfl ?_, fun w => encode_of_bits rfl ?_,
    fun w => encode_of_bits rfl ?_⟩
  · rw [op_bind_ok hr.operands_eq, op_bind_ok (gets_eq ..)]
  · rw [curCtx_retire, curCtx_modCur]
    exact prd_unpackPrd _ (curCtx s) hk
  · rw [reg_retire, reg, curCtx_modCur]
    rfl
  · rw [SameSpecial, special_retire, curCtx_modCur, special_unpackPrd]
  · rw [op_bind_ok hr.operands_eq, op_bind_ok (hr.gr_eq (by simp)), op_bind_ok (hr.gr_eq (by simp)), op_bind_ok (gets_eq ..)]
  · simp only [bitsPgetW, wordHead, up]
    omega
  · simp only [bitsPsetW, wordHead, up]
    omega
  · simp only [bitsSelW, wordHead, up]
    omega

/-- BR answers its target where its predicate differs from neg. -/
theorem exec_br (w : BrW) (s : State) : exec (.br w) s = ctxBranch w.st (fun s => .ok (if xor (prd (curCtx s) w.p.toNat) w.n then
    some (blockTarget (curCtx s).pc (w.i.signExtend 64)) else none, s)) s := rfl

/-- JMP always answers its target. -/
theorem exec_jmp (j : JW) (s : State) : exec (.jmp j) s = ctxBranch j.st (fun s => .ok (some
    (blockTarget (curCtx s).pc (j.i.signExtend 64)), s)) s := rfl

/-- Settles O19: BR, JMP and CALL answer the block target of R47, CALL after it has delivered the link. -/
theorem directBranches : Obligations.DirectBranches := by
  intro w j s
  refine ⟨fun ht => ?_, fun hf => ?_, fun hp => ?_, ?_, fun hr => ?_, encode_of_bits rfl ?_,
    encode_of_bits rfl (bitsJW_eq j 0x1A), encode_of_bits rfl (bitsJW_eq j 0x1B)⟩
  · refine jumps_of_target (exec_br w s) ?_
    rw [if_pos ht, blockTarget_eq]
  · refine ⟨_, (exec_br w s).trans (ctxBranch_not_taken ?_), ?_, fun r _ => reg_retire .., ?_, special_retire .., kept_retire ..⟩
    · rw [hf]
      rfl
    · simp [Retired]
    · rw [SamePreds, curCtx_retire]
  · rw [hp]
    exact Bool.true_xor _
  · rw [← blockTarget_eq]
    exact jumps_of_target (exec_jmp j s) rfl
  · rw [← blockTarget_eq]
    refine jumps_of_link rfl ?_
    rw [op_bind_ok hr.operands_eq, op_bind_ok (gets_eq ..), op_bind_ok (gw_eq ..)]
    rfl
  · simp only [bitsBrW, wordHead, up, Bool.toNat_false]
    omega

end Sys2Proof.Machine
end

/-! PROOFS. Divides (spec/05_registers.md R113, R114): interlocked results in flight, significant bits, quotients and their cycles. -/
section
namespace Sys2Proof.Machine

/-! Interlocked results in flight (spec/03_encoding.md R57). -/

theorem lockDue_append_singleton (l : List Pend) (p : Pend) (k : Nat) :
    lockDue (l ++ [p]) k = max (lockDue l k) (if p.dst = k && p.lock then p.due else 0) := by
  induction l with
  | nil => simp [lockDue]
  | cons e r ih =>
    simp only [List.cons_append, lockDue, ih]
    split
    · exact (Nat.max_assoc ..).symm
    · rfl

theorem lockDue_le_lockAll (x : Ctx) {r : Nat} {rs : List Nat} (hr : r ∈ rs) : lockDue x.pend (physReg x r) ≤ lockAll x rs := by
  induction rs with
  | nil => exact absurd hr List.not_mem_nil
  | cons e t ih =>
    rcases List.mem_cons.1 hr with rfl | ht
    · exact Nat.le_max_left ..
    · exact Nat.le_trans (ih ht) (Nat.le_max_right ..)

/-- No interlock of a destination outlasts the wait of a word that can issue. -/
theorem Readable.lockDue_le {s : State} {srcs dsts : List Nat} (h : Readable s srcs dsts) {d : Nat} (hd : d ∈ dsts) :
    lockDue (curCtx s).pend (physReg (curCtx s) d) ≤ s.now := by
  obtain ⟨-, hlock, -⟩ := h
  exact Nat.le_trans (lockDue_le_lockAll _ (List.mem_append_right _ hd)) hlock

/-- An interlocked result of more than one cycle is in flight for its latency, for g0 too (spec/05_registers.md R110). -/
theorem pend_putReg_locked (dst : Nat) (v : Word) {lat : Nat} (hlat : 1 < lat) (q : Bool) (now : Nat) (x : Ctx) :
    (putReg dst v lat true q now x).pend = x.pend ++ [{ dst := physReg x dst, val := v, due := now + lat, lock := true, q := q }] := by
  simp [putReg, show ¬ lat ≤ 1 by omega]

/-- Delivered where no earlier interlock is left, a result is interlocked for exactly its latency. -/
theorem lockDue_putReg_locked (dst : Nat) (v : Word) {lat : Nat} (hlat : 1 < lat) (q : Bool) {now : Nat} {x : Ctx}
    (hfree : lockDue x.pend (physReg x dst) ≤ now) :
    lockDue (putReg dst v lat true q now x).pend (physReg (putReg dst v lat true q now x) dst) = now + lat := by
  rw [physReg_putReg, pend_putReg_locked dst v hlat, lockDue_append_singleton]
  simp only [decide_true, Bool.and_self, if_true]
  omega

/-! Words whose result is interlocked. -/

/-- A word that can issue hands its two sources to the rest of its operation. -/
theorem Readable.two_sources {s : State} {a b : Nat} {dsts : List Nat} (h : Readable s [a, b] dsts) (k : Word → Word → Op Unit) :
    (do operands [a, b] dsts; let x ← gr a; let y ← gr b; k x y) s = k (reg s a) (reg s b) s := by
  rw [op_bind_ok h.operands_eq, op_bind_ok (h.gr_eq (by simp)), op_bind_ok (h.gr_eq (by simp))]

section
variable {i : Instr} {w : G3} {s : State} {lat : Word → Word → Nat} {f : Word → Word → Word}
  (hr : Readable s [w.a.toNat, w.b.toNat] [w.d.toNat]) (hexec : exec i s = regRegLocked w lat f s)
include hr hexec

/-- An interlocked word of two sources delivers its function of them. -/
theorem computes_of_regRegLocked :
    Computes i s w.st w.d (f (reg s w.a.toNat) (reg s w.b.toNat)) (lat (reg s w.a.toNat) (reg s w.b.toNat)) :=
  computes_of_gw true w.q hexec (hr.two_sources _)

/-- An interlocked word of two sources holds its destination for exactly its latency. -/
theorem lockDue_of_regRegLocked (hlat : 1 < lat (reg s w.a.toNat) (reg s w.b.toNat)) : ∃ t, exec i s = .next t ∧
    lockDue (curCtx t).pend (physReg (curCtx t) w.d.toNat) = s.now + lat (reg s w.a.toNat) (reg s w.b.toNat) := by
  refine ⟨_, hexec.trans (ctxWord_ok ((hr.two_sources _).trans (gw_eq ..))), ?_⟩
  rw [curCtx_retire, curCtx_modCur]
  exact lockDue_putReg_locked _ _ hlat _ (hr.lockDue_le (by simp))

end

/-! Significant bits. -/

theorem sigBits_le_iff {fuel n : Nat} (hn : n < 2^fuel) (k : Nat) : sigBits fuel n ≤ k ↔ n < 2^k := by
  induction fuel generalizing n k with
  | zero =>
    have hpos : 0 < 2^k := Nat.two_pow_pos k
    simp only [sigBits]
    omega
  | succ fuel ih =>
    have hhalf : n / 2 < 2^fuel := by omega
    rw [sigBits]
    split
    · have hpos : 0 < 2^k := Nat.two_pow_pos k
      omega
    · cases k with
      | zero => omega
      | succ k =>
        have := ih hhalf k
        omega

/-- A number of at most `fuel` bits has the significant bits that the powers of two around it give. -/
theorem sigBits_eq {fuel n k : Nat} (hn : n < 2^fuel) (hlt : n < 2^k) (hle : k = 0 ∨ 2^(k - 1) ≤ n) : sigBits fuel n = k := by
  have hub := (sigBits_le_iff hn k).2 hlt
  have hlb := sigBits_le_iff hn (k - 1)
  omega

/-! Quotients, remainders and cycles, with the special cases of R113 and R114. -/

theorem divOvf_iff (x y : Word) : divOvf x y = true ↔ x = 0x8000000000000000 ∧ y = 0xFFFFFFFFFFFFFFFF := by
  simp only [divOvf, Bool.and_eq_true, beq_iff_eq]
  exact Iff.rfl

theorem divS_eq (x y : Word) : divS x y = if y = 0 then 0xFFFFFFFFFFFFFFFF
    else if x = 0x8000000000000000 ∧ y = 0xFFFFFFFFFFFFFFFF then x else BitVec.ofInt 64 (x.toInt.tdiv y.toInt) := by
  simp only [divS, divOvf_iff, wordOfInt]
  rfl

theorem remS_eq (x y : Word) : remS x y = if y = 0 then x
    else if x = 0x8000000000000000 ∧ y = 0xFFFFFFFFFFFFFFFF then 0 else BitVec.ofInt 64 (x.toInt - x.toInt.tdiv y.toInt * y.toInt) := by
  simp only [remS, divOvf_iff, wordOfInt, Int.tmod_def, Int.mul_comm]

theorem divU_eq (x y : Word) : divU x y = if y = 0 then 0xFFFFFFFFFFFFFFFF else BitVec.ofNat 64 (x.toNat / y.toNat) := rfl

theorem remU_eq (x y : Word) : remU x y = if y = 0 then x else BitVec.ofNat 64 (x.toNat % y.toNat) := rfl

/-- The cycles of DIV and REM, from the significant bits of the truncated quotient. -/
theorem divLatS_eq {x y : Word} {n : Nat}
    (hbits : ¬ (y = 0 ∨ x = 0x8000000000000000 ∧ y = 0xFFFFFFFFFFFFFFFF) →
      (x.toInt.tdiv y.toInt).natAbs < 2^n ∧ (n = 0 ∨ 2^(n - 1) ≤ (x.toInt.tdiv y.toInt).natAbs))
    (hspecial : y = 0 ∨ x = 0x8000000000000000 ∧ y = 0xFFFFFFFFFFFFFFFF → n = 0) : divLatS x y = 4 + (n + 1) / 2 := by
  have hcond : (decide (y = 0) || divOvf x y) = true ↔ y = 0 ∨ x = 0x8000000000000000 ∧ y = 0xFFFFFFFFFFFFFFFF := by
    rw [Bool.or_eq_true, decide_eq_true_eq, divOvf_iff]
  unfold divLatS
  split
  · rename_i h
    rw [hspecial (hcond.1 h)]
  · rename_i h
    obtain ⟨hlt, hle⟩ := hbits fun hs => h (hcond.2 hs)
    rw [Int.natAbs_tdiv] at hlt hle
    have hx : x.toInt.natAbs < 2^64 := by
      have := BitVec.toInt_lt (x := x)
      have := BitVec.le_toInt (x := x)
      omega
    rw [sigBits_eq (Nat.lt_of_le_of_lt (Nat.div_le_self ..) hx) hlt hle]

/-- The cycles of DIVU and REMU, from the significant bits of the quotient. -/
theorem divLatU_eq {x y : Word} {m : Nat} (hbits : y ≠ 0 → x.toNat / y.toNat < 2^m ∧ (m = 0 ∨ 2^(m - 1) ≤ x.toNat / y.toNat))
    (hzero : y = 0 → m = 0) : divLatU x y = 4 + (m + 1) / 2 := by
  unfold divLatU
  split
  · rename_i h
    rw [hzero h]
  · rename_i h
    obtain ⟨hlt, hle⟩ := hbits h
    rw [sigBits_eq (Nat.lt_of_le_of_lt (Nat.div_le_self ..) x.isLt) hlt hle]

/-- Settles O11: each word is an interlocked one of two sources, whose latency of at least four cycles keeps its result in flight. -/
theorem divideResults : Obligations.DivideResults := by
  intro w s n m hr x y overflow special hbitsS hspecial hbitsU hzero
  have hlatS : divLatS x y = 4 + (n + 1) / 2 := divLatS_eq hbitsS hspecial
  have hlatU : divLatU x y = 4 + (m + 1) / 2 := divLatU_eq hbitsU hzero
  rw [← hlatS, ← hlatU, ← divS_eq, ← remS_eq, ← divU_eq, ← remU_eq]
  have hlongS : 1 < divLatS x y := by omega
  have hlongU : 1 < divLatU x y := by omega
  refine ⟨?_, ?_, computes_of_regRegLocked hr rfl, computes_of_regRegLocked hr rfl, computes_of_regRegLocked hr rfl,
    computes_of_regRegLocked hr rfl⟩
  · rintro i (rfl | rfl) <;> exact lockDue_of_regRegLocked hr rfl hlongS
  · rintro i (rfl | rfl) <;> exact lockDue_of_regRegLocked hr rfl hlongU

end Sys2Proof.Machine
end
